-- ==== Sys2Proof/Word.lean ====
section
/-!
DEFINITION. The machine's words (00 R2: little-endian; sizes of 06 R122).
-/
namespace Sys2Proof

/-- A general register, a CSR value, a doubleword of memory. -/
abbrev Word := BitVec 64
/-- A 48-bit virtual address (04 R80). -/
abbrev Addr := BitVec 48
abbrev Byte := BitVec 8
/-- A parcel of an instruction (02 R21). -/
abbrev Parcel := BitVec 16
/-- A vector register (08 R172). -/
abbrev VReg := BitVec 512

end Sys2Proof
end

