-- ==== Sys2Proof/Machine/Bits.lean ====
section
/-!
DEFINITION. Bit fields, sign extension, byte order and the sparse maps of the state. Plain functions on
naturals and lists, structurally recursive, so that the kernel can run them.
-/
namespace Sys2Proof

/-- `x[hi:lo]` as an unsigned integer (00 R4). -/
def fld (x hi lo : Nat) : Nat := (x / 2 ^ lo) % 2 ^ (hi + 1 - lo)

/-- Bit `i` of `x`. -/
def bitOf (x i : Nat) : Bool := Nat.testBit x i

def b2n (b : Bool) : Nat := if b then 1 else 0

/-- The low `n` bits of `x` read as a two's-complement integer (00 R4: sext). -/
def sextI (x n : Nat) : Int :=
  let m := x % 2 ^ n
  if n ≠ 0 ∧ 2 ^ (n - 1) ≤ m then (m : Int) - (2 ^ n : Nat) else m

/-- An integer modulo `2 ^ n` as a natural number. -/
def wrapN (n : Nat) (x : Int) : Nat := (x % ((2 ^ n : Nat) : Int)).toNat

/-- sext(x, n) as a 64-bit word. -/
def sextW (x n : Nat) : Word := BitVec.ofInt 64 (sextI x n)

/-- `n` bytes of `x`, least significant first (00 R2). -/
def leBytes : Nat → Nat → List Byte
  | 0, _ => []
  | n + 1, x => BitVec.ofNat 8 x :: leBytes n (x / 256)

/-- The number that bytes hold, least significant first (00 R2). -/
def ofLe : List Byte → Nat
  | [] => 0
  | b :: bs => b.toNat + 256 * ofLe bs

def minN (a b : Nat) : Nat := if a ≤ b then a else b
def maxN (a b : Nat) : Nat := if a ≤ b then b else a
def ceilDiv (a b : Nat) : Nat := (a + b - 1) / b

/-- Number of bits of `x` (0 for 0), by fuel. -/
def bitLenAux : Nat → Nat → Nat
  | 0, _ => 0
  | f + 1, x => if x = 0 then 0 else bitLenAux f (x / 2) + 1

/-- The bit length, through the library's logarithm. -/
def bitLen (x : Nat) : Nat := if x = 0 then 0 else Nat.log2 x + 1

def popCount : Nat → Nat → Nat
  | 0, _ => 0
  | f + 1, x => x % 2 + popCount f (x / 2)

/-- Integer square root by bits, most significant first: `isqrt f x` is the floor of the root of `x` when `x < 4 ^ f`. -/
def isqrtAux : Nat → Nat → Nat → Nat
  | 0, r, _ => r
  | f + 1, r, x =>
    let r' := r + 2 ^ f
    if r' * r' ≤ x then isqrtAux f r' x else isqrtAux f r x

def isqrt (x : Nat) : Nat := isqrtAux (bitLen x / 2 + 1) 0 x

/-- A map with natural keys: a list with keys strictly rising. -/
abbrev SMap (α : Type) := List (Nat × α)

def SMap.find? {α : Type} : SMap α → Nat → Option α
  | [], _ => none
  | (k, v) :: r, a => if a = k then some v else if a < k then none else SMap.find? r a

def SMap.getD {α : Type} (m : SMap α) (a : Nat) (d : α) : α := (m.find? a).getD d

def SMap.insert {α : Type} : SMap α → Nat → α → SMap α
  | [], a, v => [(a, v)]
  | (k, w) :: r, a, v =>
    if a < k then (a, v) :: (k, w) :: r
    else if a = k then (a, v) :: r
    else (k, w) :: SMap.insert r a v

def SMap.erase {α : Type} (m : SMap α) (a : Nat) : SMap α := m.filter (fun p => p.1 != a)

/-- The first natural below `n` that satisfies `p`, from `i` on. -/
def firstFrom (p : Nat → Bool) : Nat → Nat → Option Nat
  | 0, _ => none
  | f + 1, i => if p i then some i else firstFrom p f (i + 1)

def firstBelow (p : Nat → Bool) (n : Nat) : Option Nat := firstFrom p n 0

/-- Keep every element but the one at position `n`. -/
def dropAt {α : Type} : List α → Nat → List α
  | [], _ => []
  | _ :: r, 0 => r
  | x :: r, n + 1 => x :: dropAt r n

/-- Cut a list into pieces of `n` (by fuel). -/
def chunksAux {α : Type} (n : Nat) : Nat → List α → List (List α)
  | 0, _ => []
  | _, [] => []
  | f + 1, l => l.take n :: chunksAux n f (l.drop n)

def chunks {α : Type} (n : Nat) (l : List α) : List (List α) := chunksAux n (l.length + 1) l

end Sys2Proof
end

