-- ==== Sys2Proof/Syntax.lean ====
section
/-!
DEFINITION. The instructions and the device's steps as data: one constructor for each row of the opcode table.
The rows with an encoding carry their decoded operands; the rows without one (a step of an engine, of the
scheduler, of the fabric or of the platform) carry what the step is about. A register field is the number it
names after the REG extension (02 R31).
-/
namespace Sys2Proof

/-- A REP payload (02 R28, R34): count - 1 and the step mask. -/
structure RepF where
  cnt : BitVec 6
  step : BitVec 3
  deriving DecidableEq, Repr

/-- A MASK payload (02 R28, R32): mask register, zeroing, rounding override. -/
structure MaskF where
  k : BitVec 3
  z : Bool
  rnd : BitVec 3
  deriving DecidableEq, Repr

/-- An immediate field (02 R30): `n` IMM parcels and the unextended value of 9n + w bits. -/
structure ImmF where
  n : Nat
  raw : Nat
  deriving DecidableEq, Repr

/-- FENCE operands (02 R40): scope and kind. -/
structure FenceOp where
  scope : BitVec 2
  kind : BitVec 2
  deriving DecidableEq, Repr

/-- M 0x1 operands (02 R31, R35): `t` is present exactly when REG is. -/
structure RR where
  rep : Option RepF
  d : BitVec 6
  s : BitVec 6
  t : Option (BitVec 5)
  deriving DecidableEq, Repr

/-- M 0x2 and M 0x3 fn 0-6 operands; `reg` says that REG is present. -/
structure RI where
  rep : Option RepF
  reg : Bool
  d : BitVec 6
  imm : ImmF
  deriving DecidableEq, Repr

/-- `mov` operands (02 R31). -/
structure MovOp where
  rep : Option RepF
  reg : Bool
  d : BitVec 6
  s : BitVec 6
  deriving DecidableEq, Repr

/-- One-register branch (02 R42). -/
structure Br1 where
  s : BitVec 4
  off : ImmF
  deriving DecidableEq, Repr

/-- Two-register branch, with REG (02 R42). -/
structure Br2 where
  s : BitVec 6
  t : BitVec 5
  off : ImmF
  deriving DecidableEq, Repr

/-- M 0x8 operands (02 R25, R49). -/
structure MemOp where
  rep : Option RepF
  reg : Bool
  la : BitVec 4
  d : BitVec 6
  b : BitVec 6
  size : BitVec 2
  order : BitVec 2
  scope : BitVec 2
  imm : ImmF
  deriving DecidableEq, Repr

/-- Full/empty operands (02 R49: size d, plain order, scope 00). -/
structure FeOp where
  rep : Option RepF
  reg : Bool
  la : BitVec 4
  d : BitVec 6
  b : BitVec 6
  imm : ImmF
  deriving DecidableEq, Repr

/-- M 0x6 and M 0x7 operands (08 R175); `t` is present exactly when REG is. -/
structure VR where
  rep : Option RepF
  mask : Option MaskF
  d : BitVec 6
  s : BitVec 6
  t : Option (BitVec 5)
  deriving DecidableEq, Repr

/-- Page 6 operands (02 R48). -/
structure KM where
  d : BitVec 6
  s : BitVec 6
  t : Option (BitVec 5)
  deriving DecidableEq, Repr

/-- M 0x9 operands (08 R187); `t` is present exactly when REG is. -/
structure VMem where
  rep : Option RepF
  mask : Option MaskF
  la : BitVec 4
  v : BitVec 6
  b : BitVec 6
  t : Option (BitVec 5)
  order : BitVec 2
  scope : BitVec 2
  imm : ImmF
  deriving DecidableEq, Repr

/-- M 0xA operands (19 R332). -/
structure Atom where
  la : BitVec 4
  d : BitVec 6
  a : BitVec 6
  dbl : Bool
  order : BitVec 2
  scope : BitVec 2
  v : BitVec 6
  t : Option (BitVec 5)
  deriving DecidableEq, Repr

/-- M 0xB ops on one accumulator set: `mzero`, `mrdexp`, `mstat`, `mcorr.row` (02 R52). -/
structure MSet where
  la : BitVec 4
  reg : Bool
  a : BitVec 6
  set : Bool
  deriving DecidableEq, Repr

structure MLdb where
  la : BitVec 4
  reg : Bool
  a : BitVec 6
  slot : BitVec 2
  nb : BitVec 5
  cbr : BitVec 2
  deriving DecidableEq, Repr

structure MLdcb where
  la : BitVec 4
  reg : Bool
  a : BitVec 6
  cb : BitVec 2
  deriving DecidableEq, Repr

structure MMul where
  la : BitVec 4
  a : BitVec 6
  t : BitVec 5
  set : Bool
  slot : BitVec 2
  first : BitVec 5
  nb : BitVec 5
  deriving DecidableEq, Repr

structure MDrain where
  mask : Option MaskF
  la : BitVec 4
  a : BitVec 6
  t : BitVec 5
  set : Bool
  rnd : BitVec 3
  keep : Bool
  deriving DecidableEq, Repr

structure MPred where
  la : BitVec 4
  reg : Bool
  a : BitVec 6
  deriving DecidableEq, Repr

structure MCol where
  la : BitVec 4
  reg : Bool
  a : BitVec 6
  slot : BitVec 2
  deriving DecidableEq, Repr

/-- M 0xC operands (18 R314, 16 R299): future, promise, flags, substitution mask, P0 to P3. -/
structure Eng where
  la : BitVec 4
  reg : Bool
  f : BitVec 6
  p : BitVec 6
  flags : BitVec 6
  subst : BitVec 4
  p0 : BitVec 32
  p1 : BitVec 32
  p2 : BitVec 32
  p3 : BitVec 32
  deriving DecidableEq, Repr

/-- M 0xD operands (11 R231); `fl` holds the flag bits that the row leaves free. -/
structure TaskOp where
  la : BitVec 4
  reg : Bool
  d : BitVec 6
  s : BitVec 6
  t : BitVec 6
  fl : BitVec 4
  deriving DecidableEq, Repr

/-- M 0xE operands other than the CSR ones (02 R55). -/
structure SysOp where
  la : BitVec 4
  reg : Bool
  d : BitVec 6
  s : BitVec 6
  t : BitVec 6
  deriving DecidableEq, Repr

/-- CSR operands (07 R167). -/
structure CsrOp where
  la : BitVec 4
  reg : Bool
  d : BitVec 6
  csr : BitVec 12
  deriving DecidableEq, Repr

/-- A fabric packet (21 R355): header fields and payload bytes. -/
structure Packet where
  dst : BitVec 10
  src : BitVec 10
  kind : BitVec 4
  nflit : BitVec 4
  chan : BitVec 2
  cls : BitVec 2
  seq : BitVec 32
  addr : BitVec 64
  ctx : BitVec 6
  sub : BitVec 10
  tag : BitVec 16
  relay : BitVec 10
  rz : BitVec 14
  cause : BitVec 8
  stamp : BitVec 64
  data : List Byte
  deriving DecidableEq, Repr

/-- What a device reset takes from the secure flash and the image (25 R393, R395): the phase at which
bring-up fails (0: none), the value of `tvec.h`, the remap words of the harvest record, the image's version, and the
configuration record of the fabric: calendar entries by port * 64 + slot, the reachability table, `ftime` and `fepoch`. -/
structure BootInput where
  failAt : Nat
  tvech : BitVec 48
  remap : List (BitVec 32)
  version : Nat
  raises : Option Nat
  cals : List (Nat × BitVec 16)
  reach : List (Nat × BitVec 16)
  ftime : BitVec 64
  fepoch : BitVec 64
  deriving DecidableEq, Repr

/-- One constructor for each row of the opcode table. -/
inductive Instr where
  /-- NOP (R144): Does nothing. -/
  | nop
  /-- FENCE (R146): Orders the core's own earlier and later accesses by kind and scope, draining or invalidating at device or system scope. -/
  | fence (o : FenceOp)
  /-- TRAP (R144): Raises software trap cause 15 with tval set to imm8 and epc set to the next instruction. -/
  | trap (o : BitVec 8)
  /-- BRK (R145): Raises breakpoint cause 16, or halts the task when software-breakpoint capture is armed. -/
  | brk (o : BitVec 8)
  /-- RET (R131): Pops the return stack, refilling from the spill area when it is empty, and transfers there. -/
  | ret
  /-- RETT (R136): Returns from a trap to the saved level and epc, restoring the interrupt enable. -/
  | rett
  /-- ISYNC (R147): Discards the fetch buffer and every fetched instruction that has not issued. -/
  | isync
  /-- RDCYC (R144): Reads the chip cycle counter into g(d). -/
  | rdcyc (o : BitVec 6)
  /-- RDTIME (R144): Reads the trace time of the core's die into g(d). -/
  | rdtime (o : BitVec 6)
  /-- RDVC (R144): Reads the virtual core number into g(d). -/
  | rdvc (o : BitVec 6)
  /-- JR (R144): Checks g(s) as a pointer and for alignment, then transfers to it. -/
  | jr (o : BitVec 6)
  /-- CALLR (R144): Checks g(s), pushes the next instruction's address and transfers to g(s). -/
  | callr (o : BitVec 6)
  /-- RDCTX (R144): Reads the running context number into g(d). -/
  | rdctx (o : BitVec 6)
  /-- ADD (R149): Writes the 64-bit sum of its two operands to g(d). -/
  | add (o : RR)
  /-- SUB (R149): Writes the 64-bit difference of its two operands to g(d). -/
  | sub (o : RR)
  /-- AND (R149): Writes the bitwise AND of its operands to g(d). -/
  | and (o : RR)
  /-- OR (R149): Writes the bitwise OR of its operands to g(d). -/
  | or (o : RR)
  /-- XOR (R149): Writes the bitwise XOR of its operands to g(d). -/
  | xor (o : RR)
  /-- SLL (R149): Shifts left by b[5:0]. -/
  | sll (o : RR)
  /-- SRL (R149): Shifts right, zero-filled, by b[5:0]. -/
  | srl (o : RR)
  /-- SRA (R149): Shifts right, sign-filled, by b[5:0]. -/
  | sra (o : RR)
  /-- MUL (R149): Writes the low 64 bits of the product. -/
  | mul (o : RR)
  /-- MULHU (R149): Writes the high 64 bits of the unsigned product. -/
  | mulhu (o : RR)
  /-- MIN (R149): Writes the signed minimum. -/
  | min (o : RR)
  /-- MAX (R149): Writes the signed maximum. -/
  | max (o : RR)
  /-- MINU (R149): Writes the unsigned minimum. -/
  | minu (o : RR)
  /-- MAXU (R149): Writes the unsigned maximum. -/
  | maxu (o : RR)
  /-- SLT (R149): Writes 1 if a < b signed, otherwise 0. -/
  | slt (o : RR)
  /-- SLTU (R149): Writes 1 if a < b unsigned, otherwise 0. -/
  | sltu (o : RR)
  /-- DIV (R150): Signed division truncated toward zero, with the defined results for zero and overflow. -/
  | div (o : RR)
  /-- DIVU (R150): Unsigned division. -/
  | divu (o : RR)
  /-- REM (R150): Signed remainder with the sign of a. -/
  | rem (o : RR)
  /-- REMU (R150): Unsigned remainder. -/
  | remu (o : RR)
  /-- CLZ (R150): Counts leading zero bits. -/
  | clz (o : RR)
  /-- CTZ (R150): Counts trailing zero bits. -/
  | ctz (o : RR)
  /-- POPC (R150): Counts one bits. -/
  | popc (o : RR)
  /-- BREV (R150): Reverses the 64 bits. -/
  | brev (o : RR)
  /-- MULH (R150): Writes the high 64 bits of the signed product. -/
  | mulh (o : RR)
  /-- BEXT (R150): Packs the bits of a that b selects at the low end. -/
  | bext (o : RR)
  /-- PTAG (R150): Extracts bits [63:48] of a pointer without checking. -/
  | ptag (o : RR)
  /-- PSET (R150): Replaces bits [63:48] of a pointer with b[15:0] without checking. -/
  | pset (o : RR)
  /-- ADDI (R151): Adds a signed immediate to g(d). -/
  | addi (o : RI)
  /-- SLLI (R151): Shifts g(d) left by an immediate. -/
  | slli (o : RI)
  /-- SRLI (R151): Shifts g(d) right, zero-filled, by an immediate. -/
  | srli (o : RI)
  /-- SRAI (R151): Shifts g(d) right, sign-filled, by an immediate. -/
  | srai (o : RI)
  /-- ANDI (R151): ANDs g(d) with a signed immediate. -/
  | andi (o : RI)
  /-- ORI (R151): ORs g(d) with a signed immediate. -/
  | ori (o : RI)
  /-- XORI (R151): XORs g(d) with a signed immediate. -/
  | xori (o : RI)
  /-- LI (R151): Loads a signed immediate into g(d). -/
  | li (o : RI)
  /-- MOV (R151): Copies g(s) into g(d). -/
  | mov (o : MovOp)
  /-- J (R152): Jumps to a pc-relative target. -/
  | j (o : ImmF)
  /-- CALL (R152): Pushes the return address and jumps to a pc-relative target. -/
  | call (o : ImmF)
  /-- BEQZ (R152): Branches if g(s) is zero. -/
  | beqz (o : Br1)
  /-- BNEZ (R152): Branches if g(s) is non-zero. -/
  | bnez (o : Br1)
  /-- BLTZ (R152): Branches if g(s) is negative. -/
  | bltz (o : Br1)
  /-- BGEZ (R152): Branches if g(s) is not negative. -/
  | bgez (o : Br1)
  /-- BEQ (R152): Branches if g(s) equals g(t). -/
  | beq (o : Br2)
  /-- BNE (R152): Branches if g(s) differs from g(t). -/
  | bne (o : Br2)
  /-- BLT (R152): Branches if g(s) < g(t) signed. -/
  | blt (o : Br2)
  /-- BGE (R152): Branches if g(s) >= g(t) signed. -/
  | bge (o : Br2)
  /-- LD (R153): Loads and zero-extends a byte to doubleword, with optional acquire or seq-cst order. -/
  | ld (o : MemOp)
  /-- LDS (R153): Loads and sign-extends a byte, half or word. -/
  | lds (o : MemOp)
  /-- ST (R153): Stores the low bytes of g(data), with optional release or seq-cst order. -/
  | st (o : MemOp)
  /-- LD_WF (R156): Waits at the home until the word is full and loads it, leaving it full. -/
  | ldWf (o : FeOp)
  /-- LD_TAKE (R156): Waits until the word is full, loads it and sets it empty. -/
  | ldTake (o : FeOp)
  /-- ST_PUT (R156): Waits until the word is empty, stores and sets it full. -/
  | stPut (o : FeOp)
  /-- ST_SF (R156): Stores and sets the word full without waiting. -/
  | stSf (o : FeOp)
  /-- LD_SE (R156): Loads and sets the word empty without waiting. -/
  | ldSe (o : FeOp)
  /-- LD_FES (R156): Returns 1 if the word is full, 0 if empty, without reading data. -/
  | ldFes (o : FeOp)
  /-- GBAR_AND (R161): Arrives at the gang barrier with an AND combine and waits for completion. -/
  | gbarAnd (o : SysOp)
  /-- GBAR_OR (R161): Arrives at the gang barrier with an OR combine. -/
  | gbarOr (o : SysOp)
  /-- GBAR_ADD (R161): Arrives at the gang barrier with a sum combine. -/
  | gbarAdd (o : SysOp)
  /-- GBAR_POPC (R161): Arrives at the gang barrier counting non-zero payloads. -/
  | gbarPopc (o : SysOp)
  /-- GBAR_MIN (R161): Arrives at the gang barrier with a signed minimum combine. -/
  | gbarMin (o : SysOp)
  /-- GBAR_MAX (R161): Arrives at the gang barrier with a signed maximum combine. -/
  | gbarMax (o : SysOp)
  /-- GBAR_NONE (R161): Arrives at the gang barrier without a payload. -/
  | gbarNone (o : SysOp)
  /-- XST_D (R163): Sends a doubleword into a gang rank's shadow exchange bank. -/
  | xstD (o : SysOp)
  /-- XST_V (R163): Sends a vector register into a gang rank's shadow exchange bank. -/
  | xstV (o : SysOp)
  /-- SLEEPT (R166): Sleeps until the cycle counter reaches the target, then checks the named future. -/
  | sleept (o : SysOp)
  /-- CSRR (R167): Reads a CSR into g(d). -/
  | csrr (o : CsrOp)
  /-- CSRW (R167): Writes g(d) to a CSR after level and field checks. -/
  | csrw (o : CsrOp)
  /-- CSRS (R167): Sets the CSR bits that g(d) names. -/
  | csrs (o : CsrOp)
  /-- CSRC (R167): Clears the CSR bits that g(d) names. -/
  | csrc (o : CsrOp)
  /-- VFADD (R177): Adds FP32 lanes, rounding RNE. -/
  | vfadd (o : VR)
  /-- VFSUB (R177): Subtracts FP32 lanes. -/
  | vfsub (o : VR)
  /-- VFMUL (R177): Multiplies FP32 lanes. -/
  | vfmul (o : VR)
  /-- VFMA (R177): Fused multiply-add of FP32 lanes into vd. -/
  | vfma (o : VR)
  /-- VFMIN (R178): FP32 lane minimum with -0 below +0 and NaN giving canonical NaN. -/
  | vfmin (o : VR)
  /-- VFMAX (R178): FP32 lane maximum. -/
  | vfmax (o : VR)
  /-- VFABS (R178): Clears the sign of FP32 lanes. -/
  | vfabs (o : VR)
  /-- VFNEG (R178): Inverts the sign of FP32 lanes. -/
  | vfneg (o : VR)
  /-- VFCEQ (R178): Compares FP32 lanes for equality into a mask register. -/
  | vfceq (o : VR)
  /-- VFCLT (R178): Compares FP32 lanes for less-than into a mask register. -/
  | vfclt (o : VR)
  /-- VFCLE (R178): Compares FP32 lanes for less-or-equal into a mask register. -/
  | vfcle (o : VR)
  /-- VFRCP (R75): Reciprocal of FP32 lanes, rounded once. -/
  | vfrcp (o : VR)
  /-- VFEXP2 (R75): Base-2 exponential of FP32 lanes. -/
  | vfexp2 (o : VR)
  /-- VFLOG2 (R75): Base-2 logarithm of FP32 lanes. -/
  | vflog2 (o : VR)
  /-- VFRSQ (R75): Reciprocal square root of FP32 lanes. -/
  | vfrsq (o : VR)
  /-- VFSUM (R179): Adds the active FP32 lanes in a fixed pairwise tree into lane 0. -/
  | vfsum (o : VR)
  /-- VFADD_H (R44): Adds FP16 lanes. -/
  | vfaddH (o : VR)
  /-- VFSUB_H (R44): Subtracts FP16 lanes. -/
  | vfsubH (o : VR)
  /-- VFMUL_H (R44): Multiplies FP16 lanes. -/
  | vfmulH (o : VR)
  /-- VFMA_H (R44): Fused multiply-add of FP16 lanes. -/
  | vfmaH (o : VR)
  /-- VFMIN_H (R44): FP16 lane minimum. -/
  | vfminH (o : VR)
  /-- VFMAX_H (R44): FP16 lane maximum. -/
  | vfmaxH (o : VR)
  /-- VFABS_H (R44): Clears the sign of FP16 lanes. -/
  | vfabsH (o : VR)
  /-- VFNEG_H (R44): Inverts the sign of FP16 lanes. -/
  | vfnegH (o : VR)
  /-- VFCEQ_H (R44): Compares FP16 lanes for equality. -/
  | vfceqH (o : VR)
  /-- VFCLT_H (R44): Compares FP16 lanes for less-than. -/
  | vfcltH (o : VR)
  /-- VFCLE_H (R44): Compares FP16 lanes for less-or-equal. -/
  | vfcleH (o : VR)
  /-- VFRCP_H (R44): Reciprocal of FP16 lanes. -/
  | vfrcpH (o : VR)
  /-- VFEXP2_H (R44): Base-2 exponential of FP16 lanes. -/
  | vfexp2H (o : VR)
  /-- VFLOG2_H (R44): Base-2 logarithm of FP16 lanes. -/
  | vflog2H (o : VR)
  /-- VFRSQ_H (R44): Reciprocal square root of FP16 lanes. -/
  | vfrsqH (o : VR)
  /-- VFSUM_H (R44): Pairwise tree sum of FP16 lanes. -/
  | vfsumH (o : VR)
  /-- VFADD_B (R44): Adds BF16 lanes. -/
  | vfaddB (o : VR)
  /-- VFSUB_B (R44): Subtracts BF16 lanes. -/
  | vfsubB (o : VR)
  /-- VFMUL_B (R44): Multiplies BF16 lanes. -/
  | vfmulB (o : VR)
  /-- VFMA_B (R44): Fused multiply-add of BF16 lanes. -/
  | vfmaB (o : VR)
  /-- VFMIN_B (R44): BF16 lane minimum. -/
  | vfminB (o : VR)
  /-- VFMAX_B (R44): BF16 lane maximum. -/
  | vfmaxB (o : VR)
  /-- VFABS_B (R44): Clears the sign of BF16 lanes. -/
  | vfabsB (o : VR)
  /-- VFNEG_B (R44): Inverts the sign of BF16 lanes. -/
  | vfnegB (o : VR)
  /-- VFCEQ_B (R44): Compares BF16 lanes for equality. -/
  | vfceqB (o : VR)
  /-- VFCLT_B (R44): Compares BF16 lanes for less-than. -/
  | vfcltB (o : VR)
  /-- VFCLE_B (R44): Compares BF16 lanes for less-or-equal. -/
  | vfcleB (o : VR)
  /-- VFRCP_B (R44): Reciprocal of BF16 lanes. -/
  | vfrcpB (o : VR)
  /-- VFEXP2_B (R44): Base-2 exponential of BF16 lanes. -/
  | vfexp2B (o : VR)
  /-- VFLOG2_B (R44): Base-2 logarithm of BF16 lanes. -/
  | vflog2B (o : VR)
  /-- VFRSQ_B (R44): Reciprocal square root of BF16 lanes. -/
  | vfrsqB (o : VR)
  /-- VFSUM_B (R44): Pairwise tree sum of BF16 lanes. -/
  | vfsumB (o : VR)
  /-- VADD (R180): Adds INT32 lanes modulo 2^32. -/
  | vadd (o : VR)
  /-- VSUB (R180): Subtracts INT32 lanes. -/
  | vsub (o : VR)
  /-- VMUL (R180): Multiplies INT32 lanes, keeping the low 32 bits. -/
  | vmul (o : VR)
  /-- VAND (R180): Bitwise AND of lanes. -/
  | vand (o : VR)
  /-- VOR (R180): Bitwise OR of lanes. -/
  | vor (o : VR)
  /-- VXOR (R180): Bitwise XOR of lanes. -/
  | vxor (o : VR)
  /-- VSLL (R180): Shifts lanes left by b[4:0]. -/
  | vsll (o : VR)
  /-- VSRL (R180): Shifts lanes right, zero-filled. -/
  | vsrl (o : VR)
  /-- VSRA (R180): Shifts lanes right, sign-filled. -/
  | vsra (o : VR)
  /-- VMIN (R180): Signed lane minimum. -/
  | vmin (o : VR)
  /-- VMAX (R180): Signed lane maximum. -/
  | vmax (o : VR)
  /-- VCEQ (R180): Compares INT32 lanes for equality into a mask register. -/
  | vceq (o : VR)
  /-- VCLT (R180): Compares INT32 lanes signed less-than into a mask register. -/
  | vclt (o : VR)
  /-- VPERM (R181): Permutes the lanes of a by the indexes in b. -/
  | vperm (o : VR)
  /-- VMOV (R180): Copies the lanes of vs. -/
  | vmov (o : VR)
  /-- VBCST (R181): Broadcasts g(s)[31:0] into every lane. -/
  | vbcst (o : VR)
  /-- VEXT (R182): Reads the lane that g(t) names into g(d), sign-extended. -/
  | vext (o : VR)
  /-- VINS (R182): Writes g(s)[31:0] into the lane that g(t) names. -/
  | vins (o : VR)
  /-- VIDX (R182): Writes the lane index into each lane. -/
  | vidx (o : VR)
  /-- VREDADD (R182): Sums the active lanes into a 64-bit scalar. -/
  | vredadd (o : VR)
  /-- VREDMIN (R182): Signed minimum of the active lanes into a scalar. -/
  | vredmin (o : VR)
  /-- VREDMAX (R182): Signed maximum of the active lanes into a scalar. -/
  | vredmax (o : VR)
  /-- VARGMAX (R183): Index of the largest non-NaN active FP32 lane. -/
  | vargmax (o : VR)
  /-- VARGMIN (R183): Index of the smallest non-NaN active FP32 lane. -/
  | vargmin (o : VR)
  /-- VSLIDEUP (R182): Moves lanes up by a count, keeping the low lanes of vd. -/
  | vslideup (o : VR)
  /-- VSLIDEDN (R182): Moves lanes down by a count, zero-filling. -/
  | vslidedn (o : VR)
  /-- VCVT_F32_BF16_LO (R184): Widens the low 16 BF16 elements to FP32. -/
  | vcvtF32Bf16Lo (o : VR)
  /-- VCVT_F32_BF16_HI (R184): Widens the high 16 BF16 elements to FP32. -/
  | vcvtF32Bf16Hi (o : VR)
  /-- VCVT_F32_F16_LO (R184): Widens the low 16 FP16 elements to FP32. -/
  | vcvtF32F16Lo (o : VR)
  /-- VCVT_F32_F16_HI (R184): Widens the high 16 FP16 elements to FP32. -/
  | vcvtF32F16Hi (o : VR)
  /-- VCVT_BF16_F32 (R184): Narrows two FP32 registers to 32 BF16 elements. -/
  | vcvtBf16F32 (o : VR)
  /-- VCVT_F16_F32 (R184): Narrows two FP32 registers to 32 FP16 elements. -/
  | vcvtF16F32 (o : VR)
  /-- VCVT_E4M3_F32 (R184): Converts FP32 lanes to E4M3 bytes in one quarter. -/
  | vcvtE4m3F32 (o : VR)
  /-- VCVT_E5M2_F32 (R184): Converts FP32 lanes to E5M2 bytes in one quarter, optionally saturating. -/
  | vcvtE5m2F32 (o : VR)
  /-- VCVT_F32_E4M3 (R184): Widens one quarter of E4M3 bytes to FP32. -/
  | vcvtF32E4m3 (o : VR)
  /-- VCVT_F32_E5M2 (R184): Widens one quarter of E5M2 bytes to FP32. -/
  | vcvtF32E5m2 (o : VR)
  /-- VCVT_I32_F32 (R184): Converts FP32 lanes to INT32 with rounding and saturation. -/
  | vcvtI32F32 (o : VR)
  /-- VCVT_F32_I32 (R184): Converts INT32 lanes to FP32. -/
  | vcvtF32I32 (o : VR)
  /-- VQCB (R63): Quantises FP32 lanes to CB4 indexes of a codebook in one eighth. -/
  | vqcb (o : VR)
  /-- VXCB (R184): Expands CB4 indexes of one eighth to FP32 codebook values. -/
  | vxcb (o : VR)
  /-- KAND (R186): ANDs two mask registers. -/
  | kand (o : KM)
  /-- KOR (R186): ORs two mask registers. -/
  | kor (o : KM)
  /-- KXOR (R186): XORs two mask registers. -/
  | kxor (o : KM)
  /-- KNOT (R186): Inverts a mask register. -/
  | knot (o : KM)
  /-- KMOVG (R186): Copies a mask register into g(d). -/
  | kmovg (o : KM)
  /-- KMOVK (R186): Copies g(s) into a mask register. -/
  | kmovk (o : KM)
  /-- KPOPC (R186): Counts the set bits of a mask register. -/
  | kpopc (o : KM)
  /-- KFIRST (R186): Finds the lowest set bit of a mask register. -/
  | kfirst (o : KM)
  /-- KLANES (R186): Makes a mask of the first g(s) elements. -/
  | klanes (o : KM)
  /-- VLD (R187): Loads 64 contiguous bytes into a vector register. -/
  | vld (o : VMem)
  /-- VST (R187): Stores a vector register to 64 contiguous bytes. -/
  | vst (o : VMem)
  /-- VLDS (R187): Loads 16 lanes at a byte stride. -/
  | vlds (o : VMem)
  /-- VSTS (R187): Stores 16 lanes at a byte stride. -/
  | vsts (o : VMem)
  /-- VGATH (R187): Gathers 16 lanes at per-lane offsets. -/
  | vgath (o : VMem)
  /-- VSCAT (R187): Scatters 16 lanes to per-lane offsets. -/
  | vscat (o : VMem)
  /-- VLDF (R188): Loads 16 typed elements and widens them exactly to 32-bit lanes. -/
  | vldf (o : VMem)
  /-- VSTF (R188): Converts 16 lanes to the pointer's format and stores them. -/
  | vstf (o : VMem)
  /-- AADD (R334): Atomically adds v at the home and returns the old value. -/
  | aadd (o : Atom)
  /-- AAND (R334): Atomic AND. -/
  | aand (o : Atom)
  /-- AOR (R334): Atomic OR. -/
  | aor (o : Atom)
  /-- AXOR (R334): Atomic XOR. -/
  | axor (o : Atom)
  /-- AMIN (R334): Atomic signed minimum. -/
  | amin (o : Atom)
  /-- AMAX (R334): Atomic signed maximum. -/
  | amax (o : Atom)
  /-- AMINU (R334): Atomic unsigned minimum. -/
  | aminu (o : Atom)
  /-- AMAXU (R334): Atomic unsigned maximum. -/
  | amaxu (o : Atom)
  /-- ASWAP (R334): Atomic exchange. -/
  | aswap (o : Atom)
  /-- ACAS (R334): Atomic compare-and-swap against g(t). -/
  | acas (o : Atom)
  /-- AFADD (R334): Atomic FP32 add rounded RNE. -/
  | afadd (o : Atom)
  /-- AFMIN (R334): Atomic FP32 minimum. -/
  | afmin (o : Atom)
  /-- AFMAX (R334): Atomic FP32 maximum. -/
  | afmax (o : Atom)
  /-- AXSUM (R340): Adds an FP32 value exactly into an exact-sum cell and returns its old status. -/
  | axsum (o : Atom)
  /-- AXREAD (R340): Reads an exact-sum cell rounded once to FP32. -/
  | axread (o : Atom)
  /-- AINCW (R334): Atomic increment that wraps to 0 at the bound in g(t). -/
  | aincw (o : Atom)
  /-- MZERO (R278): Clears an accumulator set and anchors it with Eacc from g(a). -/
  | mzero (o : MSet)
  /-- MZERO_A (R278): Clears an accumulator set and leaves it for automatic anchoring. -/
  | mzeroA (o : MSet)
  /-- MLDB (R279): Loads a B panel into a weight-buffer slot and computes its masks, exponents and column corrections. -/
  | mldb (o : MLdb)
  /-- MLDCB (R280): Loads 16 BF16 entries into a codebook register. -/
  | mldcb (o : MLdcb)
  /-- MMUL (R281): Streams A through the squarer array against a slot and accumulates exact block products. -/
  | mmul (o : MMul)
  /-- MDRAIN (R282): Rounds the active cells of a set once to the destination format and stores them, optionally clearing them. -/
  | mdrain (o : MDrain)
  /-- MPRED_MR (R283): Writes the row predicate mr. -/
  | mpredMr (o : MPred)
  /-- MPRED_MC (R283): Writes the column predicate mc. -/
  | mpredMc (o : MPred)
  /-- MPRED_MK (R283): Writes the k predicate mk. -/
  | mpredMk (o : MPred)
  /-- MRDEXP (R284): Reads a set's Eacc, or the unanchored marker. -/
  | mrdexp (o : MSet)
  /-- MSTAT (R285): Reads a set's status word. -/
  | mstat (o : MSet)
  /-- MCORR_ROW (R286): Stores a set's row corrections. -/
  | mcorrRow (o : MSet)
  /-- MCORR_COL (R286): Stores a slot's column corrections and block exponents. -/
  | mcorrCol (o : MCol)
  /-- TCOPY (R319): Requests a converting tensor copy of rank 1 to 7 from the copy engine. -/
  | tcopy (o : Eng)
  /-- TREAD (R321): Requests a fill of a tile from memory rows. -/
  | tread (o : Eng)
  /-- TWRITE (R321): Requests a write of a tile to memory rows. -/
  | twrite (o : Eng)
  /-- TREADS (R322): Requests a tile read whose completion starts a continuation task. -/
  | treads (o : Eng)
  /-- TSCAT (R324): Requests a scatter of tile rows to listed addresses and nodes. -/
  | tscat (o : Eng)
  /-- TGATH (R324): Requests a gather of listed rows into a tile. -/
  | tgath (o : Eng)
  /-- SSCAN (R303): Requests a state-space scan from the SSB, returning a future and a promise. -/
  | sscan (o : Eng)
  /-- SPAWN (R232): Creates a task record and its future entry and enqueues it by placement. -/
  | spawn (o : TaskOp)
  /-- SPAWN_FAR (R234): Sends a spawn to another node, which allocates the entry and returns the handle. -/
  | spawnFar (o : TaskOp)
  /-- TOUCH (R237): Waits for a future, parking the gang if needed, then returns its value or traps. -/
  | touch (o : TaskOp)
  /-- TOUCH_SOFT (R237): Waits for a future and returns its value and status without trapping. -/
  | touchSoft (o : TaskOp)
  /-- TPOLL (R238): Checks a future without parking and returns value and status. -/
  | tpoll (o : TaskOp)
  /-- FNEW (R235): Creates a pending promise. -/
  | fnew (o : TaskOp)
  /-- RESOLVE (R239): Finishes a promise RESOLVED with a value, as a release. -/
  | resolve (o : TaskOp)
  /-- POISON (R239): Finishes a promise POISONED with a code. -/
  | poison (o : TaskOp)
  /-- POISON_SELF (R239): Sets or clears the carried poison code of the task's own entry. -/
  | poisonSelf (o : TaskOp)
  /-- CANCEL (R240): Applies a cancel request to an entry. -/
  | cancel (o : TaskOp)
  /-- CANCEL_DEEP (R223): Applies a cancel request to an entry and every on-device descendant in spawn order. -/
  | cancelDeep (o : TaskOp)
  /-- TCHECK (R241): Reads the task's carried code and cancel-request flag. -/
  | tcheck (o : TaskOp)
  /-- TEND (R242): Ends the task: releases, hands tiles to write-back, and frees the core. -/
  | tend (o : TaskOp)
  /-- TYIELD (R243): Saves the task and returns it to the tail of its ready queue. -/
  | tyield (o : TaskOp)
  /-- TGIVE (R244): Hands a tile to another core's task or to the gang-shared state. -/
  | tgive (o : TaskOp)
  /-- TOWN (R245): Reads the owner field of a tile. -/
  | town (o : TaskOp)
  /-- FDROP (R241): Releases one reference of a future. -/
  | fdrop (o : TaskOp)
  /-- GLAUNCH (R251): Copies a launch packet into its quadrant's launch queue and returns the grid's completion handle. -/
  | glaunch (o : TaskOp)
  /-- CFLUSH_L1 (R169): Invalidates every line of the core's L1. -/
  | cflushL1 (o : SysOp)
  /-- CFLUSH_LINE (R169): Translates an address as a load and invalidates its L1 line. -/
  | cflushLine (o : SysOp)
  /-- CFLUSH_WB (R169): Completes when every earlier store of the core is performed at its home. -/
  | cflushWb (o : SysOp)
  /-- TLBI_VA (R170): Removes every translation of a page in a context from every TLB and walk cache. -/
  | tlbiVa (o : SysOp)
  /-- TLBI_CTX (R170): Removes every translation of a context and its loaded translation record. -/
  | tlbiCtx (o : SysOp)
  /-- TLBI_GPA (R170): Removes the stage-2 translations of a guest-physical address of a VM. -/
  | tlbiGpa (o : SysOp)
  /-- TLBI_VM (R170): Removes every translation of a VM. -/
  | tlbiVm (o : SysOp)
  /-- TLBI_ALL (R170): Removes every translation of the device. -/
  | tlbiAll (o : SysOp)
  /-- BARD_AND (R344): Arrives at a device barrier with an AND combine and waits. -/
  | bardAnd (o : SysOp)
  /-- BARD_OR (R344): Arrives at a device barrier with an OR combine. -/
  | bardOr (o : SysOp)
  /-- BARD_ADD (R344): Arrives at a device barrier with a sum combine. -/
  | bardAdd (o : SysOp)
  /-- BARD_POPC (R344): Arrives at a device barrier counting non-zero payloads. -/
  | bardPopc (o : SysOp)
  /-- BARD_MIN (R344): Arrives at a device barrier with a signed minimum combine. -/
  | bardMin (o : SysOp)
  /-- BARD_MAX (R344): Arrives at a device barrier with a signed maximum combine. -/
  | bardMax (o : SysOp)
  /-- BARD_NONE (R344): Arrives at a device barrier without a payload. -/
  | bardNone (o : SysOp)
  /-- BARD_DROP (R343): Removes one participant from a barrier object, possibly completing the episode. -/
  | bardDrop (o : SysOp)
  /-- BARD_INIT (R343): Sets a barrier object's participant count when no arrival is pending. -/
  | bardInit (o : SysOp)
  /-- TRACE (R389): Generates a base user trace record. -/
  | trace (o : SysOp)
  /-- TRACE_X (R389): Generates an extended user trace record carrying two registers. -/
  | traceX (o : SysOp)
  /-- TRACE_CNT (R389): Reads a profiling counter selected by g(s). -/
  | traceCnt (o : SysOp)
  /-- FE_WITHDRAW (R159): A waiting full/empty access is withdrawn at the home or found already satisfied when an event falls due. -/
  | feWithdraw (v : Nat)
  /-- GBAR_COMPLETE (R161): Eight cycles after the last live member arrives, all members swap exchange banks and receive their combines at one moment. -/
  | gbarComplete (v : Nat)
  /-- XST_ACCEPT (R164): The target bank accepts an xst write into its shadow bank, or discards it if the target has ended. -/
  | xstAccept (n : Nat)
  /-- SLEEPT_WAKE (R166): The sleep target is reached and the future is checked, raising cause 10 if it has not finished outside a trace stall. -/
  | sleeptWake (v : Nat)
  /-- KEYRETIRE_WRITE (R115): A write of keyretire marks the slot busy and starts writing back and invalidating its lines. -/
  | keyretireWrite (k : BitVec 6)
  /-- KEY_RETIRE_DONE (R115): Every line tagged with the retiring slot has been written back and invalidated, busy clears and the slot becomes invalid. -/
  | keyRetireDone (k : BitVec 6)
  /-- TRPAUSE_WRITE (R388): A write of trpause pauses or resumes the trace buffers of contexts, retiring only after records in flight are written. -/
  | trpauseWrite (x : BitVec 64)
  /-- COPY_ACCEPT (R312): The copy engine accepts a waiting request once the core has room, allocating its entry and giving future and promise. -/
  | copyAccept (v : Nat)
  /-- COPY_COMPLETE (R313): A copy request finishes its entry RESOLVED or POISONED and returns its tiles. -/
  | copyComplete (cl : Nat) (n : Nat)
  /-- SSCAN_CHUNK (R290): The SSB completes one chunk in the form that R291 fixes and writes its Y rows. -/
  | sscanChunk (v : Nat)
  /-- BARD_WITHDRAW (R345): A waiting bard arrival is withdrawn at the SYE or found already completed when an event falls due. -/
  | bardWithdraw (v : Nat)
  /-- TRACE_STALL_END (R385): A lossless record fits again; it is written with a stall record and the stalled source proceeds. -/
  | traceStallEnd (src : Nat)
  /-- TRACE_STALL_LIMIT (R385): A lossless stall reaches maxst, switching the buffer to lossy and raising cause 32. -/
  | traceStallLimit (src : Nat)
  /-- DIRTY_LOG_RESUME (R112): After the hypervisor advances the consumer index the held write resumes. -/
  | dirtyLogResume (cl : Nat) (n : Nat)
  /-- TAKE_EVENT (R134): At an instruction boundary the core takes a pending deferred error, debug halt or interrupt in order. -/
  | takeEvent
  /-- PREEMPTION (R96): The device pre-empts a task at an admitted boundary, saving it to its frame. -/
  | preemption (v : Nat)
  /-- GANG_PREEMPT_SAVE (R98): Once every member of a gang has stopped, the gang is saved and its cores freed. -/
  | gangPreemptSave (gid : Nat)
  /-- DISPATCH (R206): A free core takes the task or gang at the head of the highest non-empty ready queue. -/
  | dispatch (cl : Nat)
  /-- REFILL_RETRY (R220): A set-aside record retries its refill when an entry of the context becomes FREE. -/
  | refillRetry (cl : Nat) (gid : Nat)
  /-- HAZARD_CLEAR (R210): Every conflicting earlier task has written back, so the task takes tiles and prefetch starts. -/
  | hazardClear (gid : Nat)
  /-- PREFETCH_COMPLETE (R203): Every prefetch load of a task or gang completes and it becomes READY. -/
  | prefetchComplete (gid : Nat)
  /-- AGEING_PROMOTE (R205): A READY task that has waited 2^20 cycles moves to the queue one priority higher. -/
  | ageingPromote (gid : Nat)
  /-- STEAL_SEARCH (R207): An idle cluster asks the BQEs for work, repeating 64 cycles after each failure. -/
  | stealSearch (cl : Nat)
  /-- WRITEBACK_COMPLETE (R208): A task's tiles are written back and freed, and its entry finishes. -/
  | writebackComplete (jid : Nat)
  /-- WAKE (R215): A waiter of a finished entry is woken and joins the tail of its ready queue. -/
  | wake (h : BitVec 64)
  /-- CONTEXT_STALL (R225): After 4096 cycles of no progress the SYE writes a stall report and raises cause 24. -/
  | contextStall (ctx : Nat)
  /-- GRID_START (R248): A queued packet whose wait bits are all set starts, seeding the job seed and clearing its set bits. -/
  | gridStart (gr : Nat)
  /-- GRID_COMPLETE (R250): When every gang has ended the device invalidates L1s, sets event bits, decrements the completion word and finishes the future. -/
  | gridComplete (gr : Nat)
  /-- DOOR_NOTIFY (R252): A write to a door's notify starts a scan that copies valid slots into the launch queue. -/
  | doorNotify (q : Nat) (ctx : Nat)
  /-- CSTART_WRITE (R394): A write of cstart starts a held core at H at the given address. -/
  | cstartWrite (v : Nat) (x : BitVec 64)
  /-- KEY_SLOT_WRITE (R397): A write loads a key slot or is refused and sets err. -/
  | keySlotWrite (k : BitVec 6) (w : Nat) (x : BitVec 64)
  /-- ATTESTATION_QUOTE (R398): The management controller signs a quote over identity, measurements and nonce. -/
  | attestationQuote (nonce : BitVec 256)
  /-- HALTCTL_HALT (R391): Halts a core, gang, context or device at the next boundary. -/
  | haltctlHalt (x : BitVec 64)
  /-- HALTCTL_RESUME (R391): Resumes a halted core, gang, context or device. -/
  | haltctlResume (x : BitVec 64)
  /-- PARTITION_CHANGE (R116): A quadrant changing partition is written back, its SYE state spilled and its SRAM cleared before it joins. -/
  | partitionChange (q : Nat) (p : Nat)
  /-- MGMT_REG_WRITE (R392): A write to a management-space register that has no row of its own. -/
  | mgmtRegWrite (lvl : BitVec 2) (off : Nat) (x : BitVec 64)
  /-- DEVICE_RESET (R393): Reset holds every core and the boot ROM runs its verification and bring-up steps. -/
  | deviceReset (b : BootInput)
  /-- CLOCK_LOCK (R375): The servo first locks the trace time, possibly stepping it forward once, and emits a clock record. -/
  | clockLock (die : Nat) (fwd : Nat)
  /-- WATCHDOG_RESTART (R399): After 2^24 cycles without service the watchdog restarts the management controller. -/
  | watchdogRestart
  /-- THROTTLE_UPDATE (R400): At a 16-cycle boundary a cluster's throttle level is set from temperature and package power. -/
  | throttleUpdate (cl : Nat) (temp : BitVec 16) (mv : BitVec 12) (watts : Nat)
  /-- THERMAL_TRIP (R400): At 110 °C every core and engine stops, bootst is set to 0xFE and the lasers go dark. -/
  | thermalTrip
  /-- SLOT_START (R350): A fabric slot boundary selects the calendar entry, and ports send to their peers. -/
  | slotStart (n : Nat)
  /-- LANE_LOSS (R364): A port that loses a lane drops width at its next dark interval, resending partial packets. -/
  | laneLoss (port : Nat) (lanes : BitVec 8)
  /-- FARM_WRITE (R367): Writing farm arms a reconfiguration and puts ports into DRAIN. -/
  | farmWrite (x : BitVec 64)
  /-- DRAIN_COMPLETE (R367): No packet for a leaving node remains and every request is answered, so the port enters MARK. -/
  | drainComplete (port : Nat)
  /-- RECONFIG_RELOCK (R367): At time T the link relocks and the armed calendars and tables become active. -/
  | reconfigRelock (port : Nat) (good : Bool)
  /-- LOAD_PACKET (R361): A received remote load is performed at the target and answered with the data. -/
  | loadPacket (p : Packet)
  /-- STORE_PACKET (R361): A received remote store is performed at the target and acknowledged. -/
  | storePacket (p : Packet)
  /-- ATOMIC_PACKET (R361): A received remote atomic is performed at the target's home and answered with the old value. -/
  | atomicPacket (p : Packet)
  /-- FULL_EMPTY_PACKET (R361): A received remote full/empty access is performed or held in the target's retry list. -/
  | fullEmptyPacket (p : Packet)
  /-- SPAWN_PACKET (R234): A received far spawn is placed on the target, which allocates the entry and returns the handle. -/
  | spawnPacket (p : Packet)
  /-- RESOLVE_PACKET (R361): A received future operation or wake is applied at the holding or waiting node. -/
  | resolvePacket (p : Packet)
  /-- REMOTE_TOUCH_REGISTRATION (R361): A received registration appends a remote waiter or returns the finished state. -/
  | remoteTouchRegistration (p : Packet)
  /-- COPY_SEGMENT (R324): A received tscat row or tgath row is staged and written in the source's context and acknowledged. -/
  | copySegment (p : Packet)
  /-- MULTICAST (R363): A received multicast store is applied, or numbered and forwarded by the root of a sequenced group. -/
  | multicast (p : Packet)
  /-- ACKNOWLEDGE (R359): A received acknowledgement marks a store, multicast or copy segment as performed. -/
  | acknowledge (p : Packet)
  /-- REPLY_PACKET (R359): A received reply completes the waiting remote instruction, raising any cause it carries. -/
  | replyPacket (p : Packet)
  /-- DRAIN_MARKER (R367): A received drain marker is acknowledged once every earlier packet of its channel is performed. -/
  | drainMarker (p : Packet)
  /-- MARKER_ACKNOWLEDGE (R367): A received marker acknowledgement counts toward the port reaching READY. -/
  | markerAcknowledge (p : Packet)
  /-- RELAY_RECEIVE (R353): A packet for another destination arrives at a relay and is held in the relay store. -/
  | relayReceive (p : Packet)
  /-- PACKET_DISCARD (R356): A packet of a reserved kind or a malformed header is discarded and counted. -/
  | packetDiscard (p : Packet)
  /-- LONG_INSTRUCTION_COMPLETE (R36): An outstanding long instruction completes and writes its register results after instructions of its lookahead window have issued. -/
  | longInstructionComplete (v : Nat) (n : Nat)
  /-- STORE_PERFORMED (R373): A store leaves the core's write buffer and is performed at its home, becoming visible to other agents at that moment. -/
  | storePerformed (v : Nat) (n : Nat)
  /-- TRANSPORT_FAILURE (R359): The link reports the loss of a remote request, and the source reports it as cause 20 with sub 18. -/
  | transportFailure (n : Nat) (done : Bool)
  /-- DARK_INTERVAL (R350): The last 96 ns of a slot begin: no port sends, links relock to their next peer, lane-width drops take effect and reconfiguring ports enter HOLD. -/
  | darkInterval
  /-- CLOCK_LOCK_LOST (R379): The IEEE 1588 servo loses lock of the trace time and the trace writer emits a clock record marking the loss. -/
  | clockLockLost (die : Nat)
  /-- POWER_LOSS (R396): Power is lost, possibly during the rewrite of a secure-flash record, which then leaves either the old record or the new one. -/
  | powerLoss (torn : Bool)
  /-- HALT_NOTICE (R365): A node that holds a channel to a halted or resumed device receives the halt or resume notice and writes it into its trace. -/
  | haltNotice (node : BitVec 10) (scope : BitVec 2) (resume : Bool) (vc : BitVec 9) (ctx : BitVec 6)
  deriving DecidableEq, Repr

end Sys2Proof
end

