-- ==== Sys2Proof/Machine/Shape.lean ====
section
/-!
DEFINITION. What the fields of each encoding may hold (02 R30 to R55): kinds of register fields, the rules of
REP, MASK and IMM, and the well-formedness of each operand record.
-/
namespace Sys2Proof

/-- What a register field names. -/
inductive RK where
  | g | v | k | no
  deriving DecidableEq, Repr

/-- The operand form of an M 0x6 or M 0x7 encoding (02 R43 to R48): kinds of d, s and t, whether REG is
required, the bound on a selector carried in t, and whether the zeroing bit must be 0. -/
structure Shp where
  d : RK
  s : RK
  t : RK
  req : Bool := false
  tlim : Nat := 32
  noZ : Bool := false
  deriving DecidableEq, Repr

/-- Number of registers of a kind. -/
def RK.lim : RK → Nat
  | .g => 64
  | .v => 32
  | .k => 8
  | .no => 1

def shBin : Shp := ⟨.v, .v, .v, false, 32, false⟩
def shUn : Shp := ⟨.v, .v, .no, false, 32, false⟩
def shCmp : Shp := ⟨.k, .v, .v, true, 32, true⟩
def shRed : Shp := ⟨.g, .v, .no, false, 32, true⟩

/-- M 0x6 pages 0, 1 and 2 (02 R43, R44). -/
def shFp (fn : Nat) : Shp :=
  if fn = 3 then { shBin with req := true }
  else if fn = 8 ∨ fn = 9 ∨ fn = 10 then shCmp
  else if fn ≤ 5 then shBin
  else if fn = 15 then { shUn with noZ := true }
  else shUn

/-- M 0x7 page 0 (02 R43). -/
def shInt (fn : Nat) : Shp :=
  if fn = 11 ∨ fn = 12 then shCmp
  else if fn = 14 then shUn
  else if fn = 15 then { shUn with s := .g }
  else shBin

/-- Page 3 (02 R45). -/
def shP3 : Nat → Option Shp
  | 0 => some ⟨.g, .v, .g, true, 32, true⟩
  | 1 => some ⟨.v, .g, .g, true, 32, false⟩
  | 2 => some ⟨.v, .no, .no, false, 32, false⟩
  | 3 => some shRed
  | 4 => some shRed
  | 5 => some shRed
  | 6 => some shRed
  | 7 => some shRed
  | 8 => some ⟨.v, .v, .g, true, 32, false⟩
  | 9 => some ⟨.v, .v, .g, true, 32, false⟩
  | _ => none

/-- Page 4 (02 R46); a selector in t has kind `no` and REG is required for it. -/
def shP4 : Nat → Option Shp
  | 0 => some shUn
  | 1 => some shUn
  | 2 => some shUn
  | 3 => some shUn
  | 4 => some { shBin with req := true }
  | 5 => some { shBin with req := true }
  | 6 => some { shUn with req := true, tlim := 4 }
  | 7 => some { shUn with req := true, tlim := 8 }
  | 8 => some { shUn with req := true, tlim := 4 }
  | 9 => some { shUn with req := true, tlim := 4 }
  | 10 => some shUn
  | 11 => some shUn
  | 12 => some { shUn with req := true, tlim := 32 }
  | 13 => some { shUn with req := true, tlim := 32 }
  | _ => none

/-- Page 6 (02 R48). -/
def shP6 : Nat → Option Shp
  | 0 => some ⟨.k, .k, .k, false, 8, true⟩
  | 1 => some ⟨.k, .k, .k, false, 8, true⟩
  | 2 => some ⟨.k, .k, .k, false, 8, true⟩
  | 3 => some ⟨.k, .k, .no, false, 32, true⟩
  | 4 => some ⟨.g, .k, .no, false, 32, true⟩
  | 5 => some ⟨.k, .g, .no, false, 32, true⟩
  | 6 => some ⟨.g, .k, .no, false, 32, true⟩
  | 7 => some ⟨.g, .k, .no, false, 32, true⟩
  | 8 => some ⟨.k, .g, .no, false, 32, true⟩
  | _ => none

/-- The form of the body of major `m` on page `pg` with function `fn` (02 R33, R43 to R48). -/
def vshape (m pg fn : Nat) : Option Shp :=
  if m = 6 then (if pg ≤ 2 then some (shFp fn) else if pg = 4 then shP4 fn else none)
  else if m = 7 then (if pg = 0 then some (shInt fn) else if pg = 3 then shP3 fn else if pg = 6 then shP6 fn else none)
  else none

/-- The t field of a form: absent or 0 where the form has no t and does not require REG; below the bound otherwise. -/
def tOk (h : Shp) (t : Option (BitVec 5)) : Bool :=
  match t with
  | none => !h.req
  | some x => if h.t == .no && !h.req then x.toNat == 0 else decide (x.toNat < h.tlim)

/-- A field without REG reaches 16 registers; with REG as many as its kind has (02 R31). -/
def fieldOk (k : RK) (reg : Bool) (x : Nat) : Bool := decide (x < k.lim) && (reg || decide (x < 16))

/-- 02 R34: a step bit names a field the instruction has, not a k register, and no stepped field passes its last register. -/
def stepOk (kd ks : RK) (mem : Bool) (d s last step : Nat) : Bool :=
  (!bitOf step 0 || ((kd == .g || kd == .v) && decide (d + last < kd.lim))) &&
  (!bitOf step 1 || ((ks == .g || ks == .v) && decide (s + last < ks.lim))) &&
  (!bitOf step 2 || mem)

def repOk (kd ks : RK) (mem : Bool) (d s : Nat) (r : Option RepF) : Bool :=
  match r with
  | none => true
  | some x => stepOk kd ks mem d s x.cnt.toNat x.step.toNat

/-- 02 R32: codes 101 to 111 are illegal everywhere, a non-zero code outside page 4, zeroing on a g or k destination. -/
def maskOk (p4 noZ : Bool) (m : Option MaskF) : Bool :=
  match m with
  | none => true
  | some x => decide (x.rnd.toNat < 5) && (p4 || x.rnd == 0) && !(noZ && x.z)

/-- 02 R30: `n` payloads and the raw value of 9n + w bits. -/
def immOk (w : Nat) (x : ImmF) : Bool := decide (x.n ≤ 4) && decide (x.raw < 2 ^ (9 * x.n + w))

/-- The signed immediate (02 R30). -/
def ImmF.sval (w : Nat) (x : ImmF) : Int := sextI x.raw (9 * x.n + w)

/-- 02 R29: at most four prefixes before a body. -/
def pfxCount (imm : Nat) (reg mask page rep : Bool) : Bool :=
  decide (imm + b2n reg + b2n mask + b2n page + b2n rep ≤ 4)

def wfRR (page unary : Bool) (o : RR) : Bool :=
  fieldOk .g o.t.isSome o.d.toNat && fieldOk .g o.t.isSome o.s.toNat &&
  (!unary || o.t.getD 0 == 0) && repOk .g .g false o.d.toNat o.s.toNat o.rep &&
  pfxCount 0 o.t.isSome false page o.rep.isSome

/-- `sh` says that the immediate is a shift amount, which must not exceed 63 (02 R30). -/
def wfRI (w : Nat) (sh : Bool) (o : RI) : Bool :=
  fieldOk .g o.reg o.d.toNat && immOk w o.imm && (!sh || decide (o.imm.raw ≤ 63)) &&
  repOk .g .no false o.d.toNat 0 o.rep && pfxCount o.imm.n o.reg false false o.rep.isSome

def wfMov (o : MovOp) : Bool :=
  fieldOk .g o.reg o.d.toNat && (o.reg || decide (o.s.toNat < 32)) &&
  repOk .g .g false o.d.toNat o.s.toNat o.rep && pfxCount 0 o.reg false false o.rep.isSome

def wfJ (o : ImmF) : Bool := immOk 11 o
def wfBr1 (o : Br1) : Bool := immOk 6 o.off
def wfBr2 (o : Br2) : Bool := immOk 6 o.off && pfxCount o.off.n true false false false

/-- 02 R49: order 11 and scope 11 are reserved; plain order needs scope 00. -/
def ordOk (order scope : BitVec 2) : Bool := order != 3 && scope != 3 && (order != 0 || scope == 0)

def wfMem (st sx : Bool) (o : MemOp) : Bool :=
  fieldOk .g o.reg o.d.toNat && fieldOk .g o.reg o.b.toNat && immOk 5 o.imm && ordOk o.order o.scope &&
  !(sx && (st || o.size == 3)) && repOk .g .g true o.d.toNat o.b.toNat o.rep &&
  pfxCount o.imm.n o.reg false false o.rep.isSome

def wfFe (la0 : Bool) (o : FeOp) : Bool :=
  fieldOk .g o.reg o.d.toNat && fieldOk .g o.reg o.b.toNat && immOk 5 o.imm && (!la0 || o.la == 0) &&
  repOk .g .g true o.d.toNat o.b.toNat o.rep && pfxCount o.imm.n o.reg false false o.rep.isSome

def wfVR (m pg fn : Nat) (o : VR) : Bool :=
  match vshape m pg fn with
  | none => false
  | some h =>
    fieldOk h.d o.t.isSome o.d.toNat && fieldOk h.s o.t.isSome o.s.toNat && tOk h o.t &&
    maskOk (m == 6 && pg == 4) h.noZ o.mask && repOk h.d h.s false o.d.toNat o.s.toNat o.rep &&
    pfxCount 0 o.t.isSome o.mask.isSome (pg != 0) o.rep.isSome

def wfKM (fn : Nat) (o : KM) : Bool :=
  match shP6 fn with
  | none => false
  | some h => fieldOk h.d o.t.isSome o.d.toNat && fieldOk h.s o.t.isSome o.s.toNat && tOk h o.t

/-- Ops 2 to 5 of M 0x9 take t and require REG; bit 2 of the step mask needs ops 0, 1, 6 or 7 (02 R34, R50). -/
def vmemT (op : Nat) : Bool := decide (2 ≤ op ∧ op ≤ 5)

def wfVMem (op : Nat) (o : VMem) : Bool :=
  fieldOk .v o.t.isSome o.v.toNat && fieldOk .g o.t.isSome o.b.toNat &&
  (if vmemT op then o.t.isSome else o.t.getD 0 == 0) &&
  immOk 9 o.imm && ordOk o.order o.scope && maskOk false false o.mask &&
  repOk .v .g (!vmemT op) o.v.toNat o.b.toNat o.rep &&
  pfxCount o.imm.n o.t.isSome o.mask.isSome false o.rep.isSome

/-- 02 R51. -/
def wfAtom (op : Nat) (o : Atom) : Bool :=
  fieldOk .g o.t.isSome o.d.toNat && fieldOk .g o.t.isSome o.a.toNat && o.scope != 3 &&
  (if op = 9 ∨ op = 15 then o.t.isSome else o.t.getD 0 == 0) &&
  !(decide (10 ≤ op ∧ op ≤ 14) && o.dbl) && !(decide (op = 14) && o.v != 0)

def wfA (reg : Bool) (a : BitVec 6) : Bool := fieldOk .g reg a.toNat

def wfMDrain (o : MDrain) : Bool :=
  decide (o.rnd.toNat < 5) &&
  (match o.mask with
   | none => true
   | some m => m.k == 0 && !m.z && decide (m.rnd.toNat < 5) && (m.rnd == 0 || o.rnd == 0))

/-- Static rules of the parameter words: a substituted word names a register in [5:0] (02 R27). -/
def substOk (o : Eng) : Bool :=
  (!o.subst.getLsbD 0 || decide (o.p0.toNat < 64)) && (!o.subst.getLsbD 1 || decide (o.p1.toNat < 64)) &&
  (!o.subst.getLsbD 2 || decide (o.p2.toNat < 64)) && (!o.subst.getLsbD 3 || decide (o.p3.toNat < 64))

/-- Flag bits an op leaves undefined are zero (18 R315, 16 R299). -/
def wfEng (op : Nat) (o : Eng) : Bool :=
  fieldOk .g o.reg o.f.toNat && substOk o &&
  (if op = 0 then true else if op = 6 then o.flags == 0 else decide (o.flags.toNat < 16))

/-- The row of R231 for op `op`: are d, s, t free, which flag bits, must LA be 0. -/
def wfTask (d0 s0 t0 : Bool) (flmask : Nat) (la0 : Bool) (o : TaskOp) : Bool :=
  fieldOk .g o.reg o.d.toNat && (!d0 || o.d == 0) && (!s0 || o.s == 0) && (!t0 || o.t == 0) &&
  (o.fl.toNat &&& flmask == o.fl.toNat) && (!la0 || o.la == 0)

def wfSys (d0 s0 t0 la0 noReg : Bool) (o : SysOp) : Bool :=
  fieldOk .g o.reg o.d.toNat && (!d0 || o.d == 0) && (!s0 || o.s == 0) && (!t0 || o.t == 0) &&
  (!la0 || o.la == 0) && !(noReg && o.reg)

def wfCsr (la0 : Bool) (o : CsrOp) : Bool := fieldOk .g o.reg o.d.toNat && (!la0 || o.la == 0)

end Sys2Proof
end

