-- ==== Sys2Proof/WellFormed.lean ====
section
/-!
DEFINITION. Well-formed instructions: the operands that some encoding of 02 R21 to R56 admits. A step without an
encoding (a row of the table that is no instruction) is not a well-formed instruction.
-/
namespace Sys2Proof

/-- Is `i` an instruction that some encoding admits? -/
def Instr.wf (i : Instr) : Bool :=
  match i with
  | .nop => true
  | .fence _ => true
  | .trap _ => true
  | .brk _ => true
  | .ret => true
  | .rett => true
  | .isync => true
  | .rdcyc _ => true
  | .rdtime _ => true
  | .rdvc _ => true
  | .jr _ => true
  | .callr _ => true
  | .rdctx _ => true
  | .add o => wfRR false false o
  | .sub o => wfRR false false o
  | .and o => wfRR false false o
  | .or o => wfRR false false o
  | .xor o => wfRR false false o
  | .sll o => wfRR false false o
  | .srl o => wfRR false false o
  | .sra o => wfRR false false o
  | .mul o => wfRR false false o
  | .mulhu o => wfRR false false o
  | .min o => wfRR false false o
  | .max o => wfRR false false o
  | .minu o => wfRR false false o
  | .maxu o => wfRR false false o
  | .slt o => wfRR false false o
  | .sltu o => wfRR false false o
  | .div o => wfRR true false o
  | .divu o => wfRR true false o
  | .rem o => wfRR true false o
  | .remu o => wfRR true false o
  | .clz o => wfRR true true o
  | .ctz o => wfRR true true o
  | .popc o => wfRR true true o
  | .brev o => wfRR true true o
  | .mulh o => wfRR true false o
  | .bext o => wfRR true false o
  | .ptag o => wfRR true true o
  | .pset o => wfRR true false o
  | .addi o => wfRI 8 false o
  | .slli o => wfRI 5 true o
  | .srli o => wfRI 5 true o
  | .srai o => wfRI 5 true o
  | .andi o => wfRI 5 false o
  | .ori o => wfRI 5 false o
  | .xori o => wfRI 5 false o
  | .li o => wfRI 5 false o
  | .mov o => wfMov o
  | .j o => wfJ o
  | .call o => wfJ o
  | .beqz o => wfBr1 o
  | .bnez o => wfBr1 o
  | .bltz o => wfBr1 o
  | .bgez o => wfBr1 o
  | .beq o => wfBr2 o
  | .bne o => wfBr2 o
  | .blt o => wfBr2 o
  | .bge o => wfBr2 o
  | .ld o => wfMem false false o
  | .lds o => wfMem false true o
  | .st o => wfMem true false o
  | .ldWf o => wfFe true o
  | .ldTake o => wfFe true o
  | .stPut o => wfFe true o
  | .stSf o => wfFe false o
  | .ldSe o => wfFe false o
  | .ldFes o => wfFe false o
  | .feWithdraw _ => false
  | .gbarAnd o => wfSys false false true true false o
  | .gbarOr o => wfSys false false true true false o
  | .gbarAdd o => wfSys false false true true false o
  | .gbarPopc o => wfSys false false true true false o
  | .gbarMin o => wfSys false false true true false o
  | .gbarMax o => wfSys false false true true false o
  | .gbarNone o => wfSys true true true true false o
  | .gbarComplete _ => false
  | .xstD o => wfSys true false false false false o
  | .xstV o => wfSys true false false false false o && decide (o.s.toNat < 32)
  | .xstAccept _ => false
  | .sleept o => wfSys true false false true false o
  | .sleeptWake _ => false
  | .csrr o => wfCsr false o
  | .csrw o => wfCsr true o
  | .csrs o => wfCsr true o
  | .csrc o => wfCsr true o
  | .keyretireWrite _ => false
  | .keyRetireDone _ => false
  | .trpauseWrite _ => false
  | .cflushL1 o => wfSys true false true false false o
  | .cflushLine o => wfSys true false true false false o
  | .cflushWb o => wfSys true false true false false o
  | .tlbiVa o => wfSys true false false false false o
  | .tlbiCtx o => wfSys true false false false false o
  | .tlbiGpa o => wfSys true false false false false o
  | .tlbiVm o => wfSys true false false false false o
  | .tlbiAll o => wfSys true true true false false o
  | .vfadd o => wfVR 6 0 0 o
  | .vfsub o => wfVR 6 0 1 o
  | .vfmul o => wfVR 6 0 2 o
  | .vfma o => wfVR 6 0 3 o
  | .vfmin o => wfVR 6 0 4 o
  | .vfmax o => wfVR 6 0 5 o
  | .vfabs o => wfVR 6 0 6 o
  | .vfneg o => wfVR 6 0 7 o
  | .vfceq o => wfVR 6 0 8 o
  | .vfclt o => wfVR 6 0 9 o
  | .vfcle o => wfVR 6 0 10 o
  | .vfrcp o => wfVR 6 0 11 o
  | .vfexp2 o => wfVR 6 0 12 o
  | .vflog2 o => wfVR 6 0 13 o
  | .vfrsq o => wfVR 6 0 14 o
  | .vfsum o => wfVR 6 0 15 o
  | .vfaddH o => wfVR 6 1 0 o
  | .vfsubH o => wfVR 6 1 1 o
  | .vfmulH o => wfVR 6 1 2 o
  | .vfmaH o => wfVR 6 1 3 o
  | .vfminH o => wfVR 6 1 4 o
  | .vfmaxH o => wfVR 6 1 5 o
  | .vfabsH o => wfVR 6 1 6 o
  | .vfnegH o => wfVR 6 1 7 o
  | .vfceqH o => wfVR 6 1 8 o
  | .vfcltH o => wfVR 6 1 9 o
  | .vfcleH o => wfVR 6 1 10 o
  | .vfrcpH o => wfVR 6 1 11 o
  | .vfexp2H o => wfVR 6 1 12 o
  | .vflog2H o => wfVR 6 1 13 o
  | .vfrsqH o => wfVR 6 1 14 o
  | .vfsumH o => wfVR 6 1 15 o
  | .vfaddB o => wfVR 6 2 0 o
  | .vfsubB o => wfVR 6 2 1 o
  | .vfmulB o => wfVR 6 2 2 o
  | .vfmaB o => wfVR 6 2 3 o
  | .vfminB o => wfVR 6 2 4 o
  | .vfmaxB o => wfVR 6 2 5 o
  | .vfabsB o => wfVR 6 2 6 o
  | .vfnegB o => wfVR 6 2 7 o
  | .vfceqB o => wfVR 6 2 8 o
  | .vfcltB o => wfVR 6 2 9 o
  | .vfcleB o => wfVR 6 2 10 o
  | .vfrcpB o => wfVR 6 2 11 o
  | .vfexp2B o => wfVR 6 2 12 o
  | .vflog2B o => wfVR 6 2 13 o
  | .vfrsqB o => wfVR 6 2 14 o
  | .vfsumB o => wfVR 6 2 15 o
  | .vadd o => wfVR 7 0 0 o
  | .vsub o => wfVR 7 0 1 o
  | .vmul o => wfVR 7 0 2 o
  | .vand o => wfVR 7 0 3 o
  | .vor o => wfVR 7 0 4 o
  | .vxor o => wfVR 7 0 5 o
  | .vsll o => wfVR 7 0 6 o
  | .vsrl o => wfVR 7 0 7 o
  | .vsra o => wfVR 7 0 8 o
  | .vmin o => wfVR 7 0 9 o
  | .vmax o => wfVR 7 0 10 o
  | .vceq o => wfVR 7 0 11 o
  | .vclt o => wfVR 7 0 12 o
  | .vperm o => wfVR 7 0 13 o
  | .vmov o => wfVR 7 0 14 o
  | .vbcst o => wfVR 7 0 15 o
  | .vext o => wfVR 7 3 0 o
  | .vins o => wfVR 7 3 1 o
  | .vidx o => wfVR 7 3 2 o
  | .vredadd o => wfVR 7 3 3 o
  | .vredmin o => wfVR 7 3 4 o
  | .vredmax o => wfVR 7 3 5 o
  | .vargmax o => wfVR 7 3 6 o
  | .vargmin o => wfVR 7 3 7 o
  | .vslideup o => wfVR 7 3 8 o
  | .vslidedn o => wfVR 7 3 9 o
  | .vcvtF32Bf16Lo o => wfVR 6 4 0 o
  | .vcvtF32Bf16Hi o => wfVR 6 4 1 o
  | .vcvtF32F16Lo o => wfVR 6 4 2 o
  | .vcvtF32F16Hi o => wfVR 6 4 3 o
  | .vcvtBf16F32 o => wfVR 6 4 4 o
  | .vcvtF16F32 o => wfVR 6 4 5 o
  | .vcvtE4m3F32 o => wfVR 6 4 6 o
  | .vcvtE5m2F32 o => wfVR 6 4 7 o
  | .vcvtF32E4m3 o => wfVR 6 4 8 o
  | .vcvtF32E5m2 o => wfVR 6 4 9 o
  | .vcvtI32F32 o => wfVR 6 4 10 o
  | .vcvtF32I32 o => wfVR 6 4 11 o
  | .vqcb o => wfVR 6 4 12 o
  | .vxcb o => wfVR 6 4 13 o
  | .kand o => wfKM 0 o
  | .kor o => wfKM 1 o
  | .kxor o => wfKM 2 o
  | .knot o => wfKM 3 o
  | .kmovg o => wfKM 4 o
  | .kmovk o => wfKM 5 o
  | .kpopc o => wfKM 6 o
  | .kfirst o => wfKM 7 o
  | .klanes o => wfKM 8 o
  | .vld o => wfVMem 0 o
  | .vst o => wfVMem 1 o
  | .vlds o => wfVMem 2 o
  | .vsts o => wfVMem 3 o
  | .vgath o => wfVMem 4 o
  | .vscat o => wfVMem 5 o
  | .vldf o => wfVMem 6 o
  | .vstf o => wfVMem 7 o
  | .aadd o => wfAtom 0 o
  | .aand o => wfAtom 1 o
  | .aor o => wfAtom 2 o
  | .axor o => wfAtom 3 o
  | .amin o => wfAtom 4 o
  | .amax o => wfAtom 5 o
  | .aminu o => wfAtom 6 o
  | .amaxu o => wfAtom 7 o
  | .aswap o => wfAtom 8 o
  | .acas o => wfAtom 9 o
  | .afadd o => wfAtom 10 o
  | .afmin o => wfAtom 11 o
  | .afmax o => wfAtom 12 o
  | .axsum o => wfAtom 13 o
  | .axread o => wfAtom 14 o
  | .aincw o => wfAtom 15 o
  | .mzero o => wfA o.reg o.a
  | .mzeroA o => o.a == 0
  | .mldb o => wfA o.reg o.a && true
  | .mldcb o => wfA o.reg o.a
  | .mmul _ => true
  | .mdrain o => wfMDrain o
  | .mpredMr o => wfA o.reg o.a
  | .mpredMc o => wfA o.reg o.a
  | .mpredMk o => wfA o.reg o.a
  | .mrdexp o => wfA o.reg o.a
  | .mstat o => wfA o.reg o.a
  | .mcorrRow o => wfA o.reg o.a
  | .mcorrCol o => wfA o.reg o.a
  | .tcopy o => wfEng 0 o
  | .tread o => wfEng 1 o
  | .twrite o => wfEng 2 o
  | .treads o => wfEng 3 o
  | .tscat o => wfEng 4 o
  | .tgath o => wfEng 5 o
  | .copyAccept _ => false
  | .copyComplete _ _ => false
  | .sscan o => wfEng 6 o
  | .sscanChunk _ => false
  | .spawn o => wfTask false false false 11 false o && decide (o.s.toNat ≤ 61)
  | .spawnFar o => wfTask false false false 11 false o && decide (o.s.toNat ≤ 61)
  | .touch o => wfTask false false true 0 true o
  | .touchSoft o => wfTask false false false 0 true o
  | .tpoll o => wfTask false false false 0 false o
  | .fnew o => wfTask false true true 3 false o && o.d != 0
  | .resolve o => wfTask true false false 0 false o
  | .poison o => wfTask true false false 0 false o
  | .poisonSelf o => wfTask true true false 0 false o
  | .cancel o => wfTask true false true 0 false o
  | .cancelDeep o => wfTask true false true 0 false o
  | .tcheck o => wfTask false true true 0 false o
  | .tend o => wfTask true false true 0 true o
  | .tyield o => wfTask true true true 0 true o
  | .tgive o => wfTask true false false 0 false o
  | .town o => wfTask false false true 0 false o
  | .fdrop o => wfTask true false true 0 false o
  | .glaunch o => wfTask false false true 0 false o
  | .bardAnd o => wfSys false false false true false o
  | .bardOr o => wfSys false false false true false o
  | .bardAdd o => wfSys false false false true false o
  | .bardPopc o => wfSys false false false true false o
  | .bardMin o => wfSys false false false true false o
  | .bardMax o => wfSys false false false true false o
  | .bardNone o => wfSys true true false true false o
  | .bardDrop o => wfSys true true false true false o
  | .bardInit o => wfSys false false false true false o
  | .bardWithdraw _ => false
  | .trace o => wfSys false false true false true o
  | .traceX o => wfSys false false false false true o
  | .traceCnt o => wfSys false false true false false o
  | .traceStallEnd _ => false
  | .traceStallLimit _ => false
  | .dirtyLogResume _ _ => false
  | .takeEvent => false
  | .preemption _ => false
  | .gangPreemptSave _ => false
  | .dispatch _ => false
  | .refillRetry _ _ => false
  | .hazardClear _ => false
  | .prefetchComplete _ => false
  | .ageingPromote _ => false
  | .stealSearch _ => false
  | .writebackComplete _ => false
  | .wake _ => false
  | .contextStall _ => false
  | .gridStart _ => false
  | .gridComplete _ => false
  | .doorNotify _ _ => false
  | .cstartWrite _ _ => false
  | .keySlotWrite _ _ _ => false
  | .attestationQuote _ => false
  | .haltctlHalt _ => false
  | .haltctlResume _ => false
  | .partitionChange _ _ => false
  | .mgmtRegWrite _ _ _ => false
  | .deviceReset _ => false
  | .clockLock _ _ => false
  | .watchdogRestart => false
  | .throttleUpdate _ _ _ _ => false
  | .thermalTrip => false
  | .slotStart _ => false
  | .laneLoss _ _ => false
  | .farmWrite _ => false
  | .drainComplete _ => false
  | .reconfigRelock _ _ => false
  | .loadPacket _ => false
  | .storePacket _ => false
  | .atomicPacket _ => false
  | .fullEmptyPacket _ => false
  | .spawnPacket _ => false
  | .resolvePacket _ => false
  | .remoteTouchRegistration _ => false
  | .copySegment _ => false
  | .multicast _ => false
  | .acknowledge _ => false
  | .replyPacket _ => false
  | .drainMarker _ => false
  | .markerAcknowledge _ => false
  | .relayReceive _ => false
  | .packetDiscard _ => false
  | .longInstructionComplete _ _ => false
  | .storePerformed _ _ => false
  | .transportFailure _ _ => false
  | .darkInterval => false
  | .clockLockLost _ => false
  | .powerLoss _ => false
  | .haltNotice _ _ _ _ _ => false

end Sys2Proof
end

