-- ==== Sys2Proof/Decode.lean ====
section
/-!
DEFINITION. Decoding parcels to instructions, and the encoder (02 R21 to R57). `Raw` holds the fields of an
encoding as they stand in the parcels; `Instr.raw` and `decodeRaw` go between it and an instruction, `Raw.parcels`
and `decodeParcels` between it and the parcels. Decoding is total: it answers an instruction, asks for one more
parcel, or names the parcel that R56 puts into tval.
-/
namespace Sys2Proof

/-- The fields of one encoding: payloads of its prefixes (IMM in address order), first and second parcel, and the
parcels of P0 to P3. -/
structure Raw where
  imms : List Nat
  reg : Option Nat
  mask : Option Nat
  page : Option Nat
  rep : Option Nat
  b1 : Nat
  b2 : Nat
  ps : List Nat
  deriving DecidableEq, Repr

def Raw.short (b1 : Nat) : Raw := ⟨[], none, none, none, none, b1, 0, []⟩

/-- The payloads of the IMM parcels of an immediate whose body field has `w` bits (02 R30): most significant first. -/
def immPay (w : Nat) : Nat → Nat → List Nat
  | 0, _ => []
  | n + 1, raw => fld raw (9 * n + w + 8) (9 * n + w) :: immPay w n raw

/-- The raw immediate from payloads and the body field (02 R30). -/
def immRaw (w : Nat) : List Nat → Nat → Nat
  | [], f => f
  | p :: r, f => p * 2 ^ (9 * r.length + w) + immRaw w r f

def RepF.pay (r : RepF) : Nat := r.cnt.toNat * 8 + r.step.toNat
def MaskF.pay (m : MaskF) : Nat := m.k.toNat * 64 + b2n m.z * 32 + m.rnd.toNat * 4

def repPay (r : Option RepF) : Option Nat := r.map RepF.pay
def maskPay (m : Option MaskF) : Option Nat := m.map MaskF.pay

/-- REG payload (02 R28): high bits of d, high bits of s, t. -/
def regPay (d s t : Nat) : Nat := fld d 5 4 * 128 + fld s 5 4 * 32 + t % 32
def tPay (d s : Nat) (t : Option (BitVec 5)) : Option Nat := t.map (fun x => regPay d s x.toNat)
def regIf (b : Bool) (d s : Nat) : Option Nat := if b then some (regPay d s 0) else none

def encZ (sub imm8 : Nat) : Raw := Raw.short (sub * 256 + imm8)

def encRR (pg : Option Nat) (fn : Nat) (o : RR) : Raw :=
  { Raw.short (4096 + o.d.toNat % 16 * 256 + o.s.toNat % 16 * 16 + fn) with
    reg := tPay o.d.toNat o.s.toNat o.t, page := pg, rep := repPay o.rep }

def encAddi (o : RI) : Raw :=
  { Raw.short (8192 + o.d.toNat % 16 * 256 + o.imm.raw % 256) with
    imms := immPay 8 o.imm.n o.imm.raw, reg := regIf o.reg o.d.toNat 0, rep := repPay o.rep }

def encRS (fn : Nat) (o : RI) : Raw :=
  { Raw.short (12288 + o.d.toNat % 16 * 256 + fn * 32 + o.imm.raw % 32) with
    imms := immPay 5 o.imm.n o.imm.raw, reg := regIf o.reg o.d.toNat 0, rep := repPay o.rep }

def encMov (o : MovOp) : Raw :=
  { Raw.short (12288 + o.d.toNat % 16 * 256 + 224 + o.s.toNat % 32) with
    reg := if o.reg then some (fld o.d.toNat 5 4 * 128 + o.s.toNat / 32 * 32) else none, rep := repPay o.rep }

def encJ (link : Nat) (o : ImmF) : Raw :=
  { Raw.short (16384 + link * 2048 + o.raw % 2048) with imms := immPay 11 o.n o.raw }

def encBr1 (c : Nat) (o : Br1) : Raw :=
  { Raw.short (20480 + o.s.toNat * 256 + c * 64 + o.off.raw % 64) with imms := immPay 6 o.off.n o.off.raw }

def encBr2 (c : Nat) (o : Br2) : Raw :=
  { Raw.short (20480 + o.s.toNat % 16 * 256 + c * 64 + o.off.raw % 64) with
    imms := immPay 6 o.off.n o.off.raw, reg := some (regPay 0 o.s.toNat o.t.toNat) }

def encMem (st sx : Nat) (o : MemOp) : Raw :=
  { imms := immPay 5 o.imm.n o.imm.raw, reg := regIf o.reg o.d.toNat o.b.toNat, mask := none, page := none,
    rep := repPay o.rep,
    b1 := 32768 + o.la.toNat * 256 + o.d.toNat % 16 * 16 + o.b.toNat % 16,
    b2 := o.size.toNat * 16384 + st * 8192 + sx * 4096 + o.order.toNat * 128 + o.scope.toNat * 32 + o.imm.raw % 32,
    ps := [] }

def encFe (st md : Nat) (o : FeOp) : Raw :=
  { imms := immPay 5 o.imm.n o.imm.raw, reg := regIf o.reg o.d.toNat o.b.toNat, mask := none, page := none,
    rep := repPay o.rep,
    b1 := 32768 + o.la.toNat * 256 + o.d.toNat % 16 * 16 + o.b.toNat % 16,
    b2 := 49152 + st * 8192 + md * 512 + o.imm.raw % 32,
    ps := [] }

def encVR (m : Nat) (pg : Option Nat) (fn : Nat) (o : VR) : Raw :=
  { Raw.short (m * 4096 + o.d.toNat % 16 * 256 + o.s.toNat % 16 * 16 + fn) with
    reg := tPay o.d.toNat o.s.toNat o.t, mask := maskPay o.mask, page := pg, rep := repPay o.rep }

def encKM (fn : Nat) (o : KM) : Raw :=
  { Raw.short (28672 + o.d.toNat % 16 * 256 + o.s.toNat % 16 * 16 + fn) with
    reg := tPay o.d.toNat o.s.toNat o.t, page := some 6 }

def encVMem (op : Nat) (o : VMem) : Raw :=
  { imms := immPay 9 o.imm.n o.imm.raw, reg := tPay o.v.toNat o.b.toNat o.t, mask := maskPay o.mask, page := none,
    rep := repPay o.rep,
    b1 := 36864 + o.la.toNat * 256 + o.v.toNat % 16 * 16 + o.b.toNat % 16,
    b2 := op * 8192 + o.order.toNat * 2048 + o.scope.toNat * 512 + o.imm.raw % 512,
    ps := [] }

/-- A long encoding without IMM, MASK, PAGE and REP. -/
def encLong (m : Nat) (la : BitVec 4) (op a : Nat) (reg : Option Nat) (b2 : Nat) : Raw :=
  { imms := [], reg := reg, mask := none, page := none, rep := none,
    b1 := m * 4096 + la.toNat * 256 + op * 16 + a % 16, b2 := b2, ps := [] }

def encAtom (op : Nat) (o : Atom) : Raw :=
  encLong 10 o.la (o.d.toNat % 16) o.a.toNat (tPay o.d.toNat o.a.toNat o.t)
    (op * 2048 + b2n o.dbl * 1024 + o.order.toNat * 256 + o.scope.toNat * 64 + o.v.toNat)

def encMSet (op x : Nat) (o : MSet) : Raw :=
  encLong 11 o.la op o.a.toNat (regIf o.reg o.a.toNat 0) (b2n o.set * 32768 + x)

def encMLdb (o : MLdb) : Raw :=
  encLong 11 o.la 1 o.a.toNat (regIf o.reg o.a.toNat 0) (o.slot.toNat * 16384 + o.nb.toNat * 512 + o.cbr.toNat * 128)

def encMLdcb (o : MLdcb) : Raw :=
  encLong 11 o.la 2 o.a.toNat (regIf o.reg o.a.toNat 0) (o.cb.toNat * 16384)

def encMMul (o : MMul) : Raw :=
  encLong 11 o.la 3 o.a.toNat (some (regPay o.a.toNat 0 o.t.toNat))
    (b2n o.set * 32768 + o.slot.toNat * 8192 + o.first.toNat * 256 + o.nb.toNat * 8)

def encMDrain (o : MDrain) : Raw :=
  { encLong 11 o.la 4 o.a.toNat (some (regPay o.a.toNat 0 o.t.toNat))
      (b2n o.set * 32768 + o.rnd.toNat * 4096 + b2n o.keep * 2048) with mask := maskPay o.mask }

def encMPred (sel : Nat) (o : MPred) : Raw :=
  encLong 11 o.la 5 o.a.toNat (regIf o.reg o.a.toNat 0) (sel * 16384)

def encMCol (o : MCol) : Raw :=
  encLong 11 o.la 8 o.a.toNat (regIf o.reg o.a.toNat 0) (o.slot.toNat * 8192 + 4096)

def wordParcels (w : BitVec 32) : List Nat := [w.toNat % 65536, w.toNat / 65536]

def encEng (op : Nat) (o : Eng) : Raw :=
  { encLong 12 o.la op o.f.toNat (regIf o.reg o.f.toNat 0) (o.p.toNat * 1024 + o.flags.toNat * 16 + o.subst.toNat) with
    ps := wordParcels o.p0 ++ wordParcels o.p1 ++ wordParcels o.p2 ++ wordParcels o.p3 }

def encTask (op fx : Nat) (o : TaskOp) : Raw :=
  encLong 13 o.la op o.d.toNat (regIf o.reg o.d.toNat 0) (o.s.toNat * 1024 + o.t.toNat * 16 + o.fl.toNat + fx)

def encSys (op sub : Nat) (o : SysOp) : Raw :=
  encLong 14 o.la op o.d.toNat (regIf o.reg o.d.toNat 0) (o.s.toNat * 1024 + o.t.toNat * 16 + sub)

def encCsr (op : Nat) (o : CsrOp) : Raw :=
  encLong 14 o.la op o.d.toNat (regIf o.reg o.d.toNat 0) (o.csr.toNat * 16)

/-- The fields of the encoding of an instruction (none for a step without one). -/
def Instr.raw (i : Instr) : Option Raw :=
  match i with
  | .nop => some (encZ 0 0)
  | .fence o => some (encZ 1 (o.scope.toNat * 64 + o.kind.toNat * 16))
  | .trap o => some (encZ 2 o.toNat)
  | .brk o => some (encZ 3 o.toNat)
  | .ret => some (encZ 4 0)
  | .rett => some (encZ 5 0)
  | .isync => some (encZ 6 0)
  | .rdcyc o => some (encZ 7 o.toNat)
  | .rdtime o => some (encZ 8 o.toNat)
  | .rdvc o => some (encZ 9 o.toNat)
  | .jr o => some (encZ 10 o.toNat)
  | .callr o => some (encZ 11 o.toNat)
  | .rdctx o => some (encZ 12 o.toNat)
  | .add o => some (encRR none 0 o)
  | .sub o => some (encRR none 1 o)
  | .and o => some (encRR none 2 o)
  | .or o => some (encRR none 3 o)
  | .xor o => some (encRR none 4 o)
  | .sll o => some (encRR none 5 o)
  | .srl o => some (encRR none 6 o)
  | .sra o => some (encRR none 7 o)
  | .mul o => some (encRR none 8 o)
  | .mulhu o => some (encRR none 9 o)
  | .min o => some (encRR none 10 o)
  | .max o => some (encRR none 11 o)
  | .minu o => some (encRR none 12 o)
  | .maxu o => some (encRR none 13 o)
  | .slt o => some (encRR none 14 o)
  | .sltu o => some (encRR none 15 o)
  | .div o => some (encRR (some 5) 0 o)
  | .divu o => some (encRR (some 5) 1 o)
  | .rem o => some (encRR (some 5) 2 o)
  | .remu o => some (encRR (some 5) 3 o)
  | .clz o => some (encRR (some 5) 4 o)
  | .ctz o => some (encRR (some 5) 5 o)
  | .popc o => some (encRR (some 5) 6 o)
  | .brev o => some (encRR (some 5) 7 o)
  | .mulh o => some (encRR (some 5) 8 o)
  | .bext o => some (encRR (some 5) 9 o)
  | .ptag o => some (encRR (some 5) 10 o)
  | .pset o => some (encRR (some 5) 11 o)
  | .addi o => some (encAddi o)
  | .slli o => some (encRS 0 o)
  | .srli o => some (encRS 1 o)
  | .srai o => some (encRS 2 o)
  | .andi o => some (encRS 3 o)
  | .ori o => some (encRS 4 o)
  | .xori o => some (encRS 5 o)
  | .li o => some (encRS 6 o)
  | .mov o => some (encMov o)
  | .j o => some (encJ 0 o)
  | .call o => some (encJ 1 o)
  | .beqz o => some (encBr1 0 o)
  | .bnez o => some (encBr1 1 o)
  | .bltz o => some (encBr1 2 o)
  | .bgez o => some (encBr1 3 o)
  | .beq o => some (encBr2 0 o)
  | .bne o => some (encBr2 1 o)
  | .blt o => some (encBr2 2 o)
  | .bge o => some (encBr2 3 o)
  | .ld o => some (encMem 0 0 o)
  | .lds o => some (encMem 0 1 o)
  | .st o => some (encMem 1 0 o)
  | .ldWf o => some (encFe 0 1 o)
  | .ldTake o => some (encFe 0 2 o)
  | .stPut o => some (encFe 1 3 o)
  | .stSf o => some (encFe 1 4 o)
  | .ldSe o => some (encFe 0 5 o)
  | .ldFes o => some (encFe 0 6 o)
  | .feWithdraw _ => none
  | .gbarAnd o => some (encSys 0 0 o)
  | .gbarOr o => some (encSys 0 1 o)
  | .gbarAdd o => some (encSys 0 2 o)
  | .gbarPopc o => some (encSys 0 3 o)
  | .gbarMin o => some (encSys 0 4 o)
  | .gbarMax o => some (encSys 0 5 o)
  | .gbarNone o => some (encSys 0 6 o)
  | .gbarComplete _ => none
  | .xstD o => some (encSys 1 0 o)
  | .xstV o => some (encSys 1 1 o)
  | .xstAccept _ => none
  | .sleept o => some (encSys 3 0 o)
  | .sleeptWake _ => none
  | .csrr o => some (encCsr 4 o)
  | .csrw o => some (encCsr 5 o)
  | .csrs o => some (encCsr 6 o)
  | .csrc o => some (encCsr 7 o)
  | .keyretireWrite _ => none
  | .keyRetireDone _ => none
  | .trpauseWrite _ => none
  | .cflushL1 o => some (encSys 10 0 o)
  | .cflushLine o => some (encSys 10 1 o)
  | .cflushWb o => some (encSys 10 2 o)
  | .tlbiVa o => some (encSys 9 0 o)
  | .tlbiCtx o => some (encSys 9 1 o)
  | .tlbiGpa o => some (encSys 9 2 o)
  | .tlbiVm o => some (encSys 9 3 o)
  | .tlbiAll o => some (encSys 9 4 o)
  | .vfadd o => some (encVR 6 none 0 o)
  | .vfsub o => some (encVR 6 none 1 o)
  | .vfmul o => some (encVR 6 none 2 o)
  | .vfma o => some (encVR 6 none 3 o)
  | .vfmin o => some (encVR 6 none 4 o)
  | .vfmax o => some (encVR 6 none 5 o)
  | .vfabs o => some (encVR 6 none 6 o)
  | .vfneg o => some (encVR 6 none 7 o)
  | .vfceq o => some (encVR 6 none 8 o)
  | .vfclt o => some (encVR 6 none 9 o)
  | .vfcle o => some (encVR 6 none 10 o)
  | .vfrcp o => some (encVR 6 none 11 o)
  | .vfexp2 o => some (encVR 6 none 12 o)
  | .vflog2 o => some (encVR 6 none 13 o)
  | .vfrsq o => some (encVR 6 none 14 o)
  | .vfsum o => some (encVR 6 none 15 o)
  | .vfaddH o => some (encVR 6 (some 1) 0 o)
  | .vfsubH o => some (encVR 6 (some 1) 1 o)
  | .vfmulH o => some (encVR 6 (some 1) 2 o)
  | .vfmaH o => some (encVR 6 (some 1) 3 o)
  | .vfminH o => some (encVR 6 (some 1) 4 o)
  | .vfmaxH o => some (encVR 6 (some 1) 5 o)
  | .vfabsH o => some (encVR 6 (some 1) 6 o)
  | .vfnegH o => some (encVR 6 (some 1) 7 o)
  | .vfceqH o => some (encVR 6 (some 1) 8 o)
  | .vfcltH o => some (encVR 6 (some 1) 9 o)
  | .vfcleH o => some (encVR 6 (some 1) 10 o)
  | .vfrcpH o => some (encVR 6 (some 1) 11 o)
  | .vfexp2H o => some (encVR 6 (some 1) 12 o)
  | .vflog2H o => some (encVR 6 (some 1) 13 o)
  | .vfrsqH o => some (encVR 6 (some 1) 14 o)
  | .vfsumH o => some (encVR 6 (some 1) 15 o)
  | .vfaddB o => some (encVR 6 (some 2) 0 o)
  | .vfsubB o => some (encVR 6 (some 2) 1 o)
  | .vfmulB o => some (encVR 6 (some 2) 2 o)
  | .vfmaB o => some (encVR 6 (some 2) 3 o)
  | .vfminB o => some (encVR 6 (some 2) 4 o)
  | .vfmaxB o => some (encVR 6 (some 2) 5 o)
  | .vfabsB o => some (encVR 6 (some 2) 6 o)
  | .vfnegB o => some (encVR 6 (some 2) 7 o)
  | .vfceqB o => some (encVR 6 (some 2) 8 o)
  | .vfcltB o => some (encVR 6 (some 2) 9 o)
  | .vfcleB o => some (encVR 6 (some 2) 10 o)
  | .vfrcpB o => some (encVR 6 (some 2) 11 o)
  | .vfexp2B o => some (encVR 6 (some 2) 12 o)
  | .vflog2B o => some (encVR 6 (some 2) 13 o)
  | .vfrsqB o => some (encVR 6 (some 2) 14 o)
  | .vfsumB o => some (encVR 6 (some 2) 15 o)
  | .vadd o => some (encVR 7 none 0 o)
  | .vsub o => some (encVR 7 none 1 o)
  | .vmul o => some (encVR 7 none 2 o)
  | .vand o => some (encVR 7 none 3 o)
  | .vor o => some (encVR 7 none 4 o)
  | .vxor o => some (encVR 7 none 5 o)
  | .vsll o => some (encVR 7 none 6 o)
  | .vsrl o => some (encVR 7 none 7 o)
  | .vsra o => some (encVR 7 none 8 o)
  | .vmin o => some (encVR 7 none 9 o)
  | .vmax o => some (encVR 7 none 10 o)
  | .vceq o => some (encVR 7 none 11 o)
  | .vclt o => some (encVR 7 none 12 o)
  | .vperm o => some (encVR 7 none 13 o)
  | .vmov o => some (encVR 7 none 14 o)
  | .vbcst o => some (encVR 7 none 15 o)
  | .vext o => some (encVR 7 (some 3) 0 o)
  | .vins o => some (encVR 7 (some 3) 1 o)
  | .vidx o => some (encVR 7 (some 3) 2 o)
  | .vredadd o => some (encVR 7 (some 3) 3 o)
  | .vredmin o => some (encVR 7 (some 3) 4 o)
  | .vredmax o => some (encVR 7 (some 3) 5 o)
  | .vargmax o => some (encVR 7 (some 3) 6 o)
  | .vargmin o => some (encVR 7 (some 3) 7 o)
  | .vslideup o => some (encVR 7 (some 3) 8 o)
  | .vslidedn o => some (encVR 7 (some 3) 9 o)
  | .vcvtF32Bf16Lo o => some (encVR 6 (some 4) 0 o)
  | .vcvtF32Bf16Hi o => some (encVR 6 (some 4) 1 o)
  | .vcvtF32F16Lo o => some (encVR 6 (some 4) 2 o)
  | .vcvtF32F16Hi o => some (encVR 6 (some 4) 3 o)
  | .vcvtBf16F32 o => some (encVR 6 (some 4) 4 o)
  | .vcvtF16F32 o => some (encVR 6 (some 4) 5 o)
  | .vcvtE4m3F32 o => some (encVR 6 (some 4) 6 o)
  | .vcvtE5m2F32 o => some (encVR 6 (some 4) 7 o)
  | .vcvtF32E4m3 o => some (encVR 6 (some 4) 8 o)
  | .vcvtF32E5m2 o => some (encVR 6 (some 4) 9 o)
  | .vcvtI32F32 o => some (encVR 6 (some 4) 10 o)
  | .vcvtF32I32 o => some (encVR 6 (some 4) 11 o)
  | .vqcb o => some (encVR 6 (some 4) 12 o)
  | .vxcb o => some (encVR 6 (some 4) 13 o)
  | .kand o => some (encKM 0 o)
  | .kor o => some (encKM 1 o)
  | .kxor o => some (encKM 2 o)
  | .knot o => some (encKM 3 o)
  | .kmovg o => some (encKM 4 o)
  | .kmovk o => some (encKM 5 o)
  | .kpopc o => some (encKM 6 o)
  | .kfirst o => some (encKM 7 o)
  | .klanes o => some (encKM 8 o)
  | .vld o => some (encVMem 0 o)
  | .vst o => some (encVMem 1 o)
  | .vlds o => some (encVMem 2 o)
  | .vsts o => some (encVMem 3 o)
  | .vgath o => some (encVMem 4 o)
  | .vscat o => some (encVMem 5 o)
  | .vldf o => some (encVMem 6 o)
  | .vstf o => some (encVMem 7 o)
  | .aadd o => some (encAtom 0 o)
  | .aand o => some (encAtom 1 o)
  | .aor o => some (encAtom 2 o)
  | .axor o => some (encAtom 3 o)
  | .amin o => some (encAtom 4 o)
  | .amax o => some (encAtom 5 o)
  | .aminu o => some (encAtom 6 o)
  | .amaxu o => some (encAtom 7 o)
  | .aswap o => some (encAtom 8 o)
  | .acas o => some (encAtom 9 o)
  | .afadd o => some (encAtom 10 o)
  | .afmin o => some (encAtom 11 o)
  | .afmax o => some (encAtom 12 o)
  | .axsum o => some (encAtom 13 o)
  | .axread o => some (encAtom 14 o)
  | .aincw o => some (encAtom 15 o)
  | .mzero o => some (encMSet 0 0 o)
  | .mzeroA o => some (encMSet 0 16384 o)
  | .mldb o => some (encMLdb o)
  | .mldcb o => some (encMLdcb o)
  | .mmul o => some (encMMul o)
  | .mdrain o => some (encMDrain o)
  | .mpredMr o => some (encMPred 0 o)
  | .mpredMc o => some (encMPred 1 o)
  | .mpredMk o => some (encMPred 2 o)
  | .mrdexp o => some (encMSet 6 0 o)
  | .mstat o => some (encMSet 7 0 o)
  | .mcorrRow o => some (encMSet 8 0 o)
  | .mcorrCol o => some (encMCol o)
  | .tcopy o => some (encEng 0 o)
  | .tread o => some (encEng 1 o)
  | .twrite o => some (encEng 2 o)
  | .treads o => some (encEng 3 o)
  | .tscat o => some (encEng 4 o)
  | .tgath o => some (encEng 5 o)
  | .copyAccept _ => none
  | .copyComplete _ _ => none
  | .sscan o => some (encEng 6 o)
  | .sscanChunk _ => none
  | .spawn o => some (encTask 0 0 o)
  | .spawnFar o => some (encTask 0 4 o)
  | .touch o => some (encTask 1 0 o)
  | .touchSoft o => some (encTask 1 1 o)
  | .tpoll o => some (encTask 2 0 o)
  | .fnew o => some (encTask 3 0 o)
  | .resolve o => some (encTask 4 0 o)
  | .poison o => some (encTask 5 0 o)
  | .poisonSelf o => some (encTask 5 1 o)
  | .cancel o => some (encTask 6 0 o)
  | .cancelDeep o => some (encTask 6 1 o)
  | .tcheck o => some (encTask 7 0 o)
  | .tend o => some (encTask 8 0 o)
  | .tyield o => some (encTask 9 0 o)
  | .tgive o => some (encTask 10 0 o)
  | .town o => some (encTask 11 0 o)
  | .fdrop o => some (encTask 12 0 o)
  | .glaunch o => some (encTask 13 0 o)
  | .bardAnd o => some (encSys 2 0 o)
  | .bardOr o => some (encSys 2 1 o)
  | .bardAdd o => some (encSys 2 2 o)
  | .bardPopc o => some (encSys 2 3 o)
  | .bardMin o => some (encSys 2 4 o)
  | .bardMax o => some (encSys 2 5 o)
  | .bardNone o => some (encSys 2 6 o)
  | .bardDrop o => some (encSys 2 7 o)
  | .bardInit o => some (encSys 2 8 o)
  | .bardWithdraw _ => none
  | .trace o => some (encSys 8 0 o)
  | .traceX o => some (encSys 8 1 o)
  | .traceCnt o => some (encSys 8 2 o)
  | .traceStallEnd _ => none
  | .traceStallLimit _ => none
  | .dirtyLogResume _ _ => none
  | .takeEvent => none
  | .preemption _ => none
  | .gangPreemptSave _ => none
  | .dispatch _ => none
  | .refillRetry _ _ => none
  | .hazardClear _ => none
  | .prefetchComplete _ => none
  | .ageingPromote _ => none
  | .stealSearch _ => none
  | .writebackComplete _ => none
  | .wake _ => none
  | .contextStall _ => none
  | .gridStart _ => none
  | .gridComplete _ => none
  | .doorNotify _ _ => none
  | .cstartWrite _ _ => none
  | .keySlotWrite _ _ _ => none
  | .attestationQuote _ => none
  | .haltctlHalt _ => none
  | .haltctlResume _ => none
  | .partitionChange _ _ => none
  | .mgmtRegWrite _ _ _ => none
  | .deviceReset _ => none
  | .clockLock _ _ => none
  | .watchdogRestart => none
  | .throttleUpdate _ _ _ _ => none
  | .thermalTrip => none
  | .slotStart _ => none
  | .laneLoss _ _ => none
  | .farmWrite _ => none
  | .drainComplete _ => none
  | .reconfigRelock _ _ => none
  | .loadPacket _ => none
  | .storePacket _ => none
  | .atomicPacket _ => none
  | .fullEmptyPacket _ => none
  | .spawnPacket _ => none
  | .resolvePacket _ => none
  | .remoteTouchRegistration _ => none
  | .copySegment _ => none
  | .multicast _ => none
  | .acknowledge _ => none
  | .replyPacket _ => none
  | .drainMarker _ => none
  | .markerAcknowledge _ => none
  | .relayReceive _ => none
  | .packetDiscard _ => none
  | .longInstructionComplete _ _ => none
  | .storePerformed _ _ => none
  | .transportFailure _ _ => none
  | .darkInterval => none
  | .clockLockLost _ => none
  | .powerLoss _ => none
  | .haltNotice _ _ _ _ _ => none

/-- M 0x1 page 0 (02 R41). -/
def rrTab (fn : Nat) : Option (RR → Instr) :=
  match fn with
  | 0 => some .add
  | 1 => some .sub
  | 2 => some .and
  | 3 => some .or
  | 4 => some .xor
  | 5 => some .sll
  | 6 => some .srl
  | 7 => some .sra
  | 8 => some .mul
  | 9 => some .mulhu
  | 10 => some .min
  | 11 => some .max
  | 12 => some .minu
  | 13 => some .maxu
  | 14 => some .slt
  | 15 => some .sltu
  | _ => none

/-- Page 5 (02 R47). -/
def p5Tab (fn : Nat) : Option (RR → Instr) :=
  match fn with
  | 0 => some .div
  | 1 => some .divu
  | 2 => some .rem
  | 3 => some .remu
  | 4 => some .clz
  | 5 => some .ctz
  | 6 => some .popc
  | 7 => some .brev
  | 8 => some .mulh
  | 9 => some .bext
  | 10 => some .ptag
  | 11 => some .pset
  | _ => none

/-- M 0x3 fn 0 to 6 (02 R41). -/
def rsTab (fn : Nat) : Option (RI → Instr) :=
  match fn with
  | 0 => some .slli
  | 1 => some .srli
  | 2 => some .srai
  | 3 => some .andi
  | 4 => some .ori
  | 5 => some .xori
  | 6 => some .li
  | _ => none

/-- M 0x5 without REG (02 R42). -/
def br1Tab (fn : Nat) : Option (Br1 → Instr) :=
  match fn with
  | 0 => some .beqz
  | 1 => some .bnez
  | 2 => some .bltz
  | 3 => some .bgez
  | _ => none

/-- M 0x5 with REG (02 R42). -/
def br2Tab (fn : Nat) : Option (Br2 → Instr) :=
  match fn with
  | 0 => some .beq
  | 1 => some .bne
  | 2 => some .blt
  | 3 => some .bge
  | _ => none

/-- M 0x6 page 0 (02 R43). -/
def fpTab (fn : Nat) : Option (VR → Instr) :=
  match fn with
  | 0 => some .vfadd
  | 1 => some .vfsub
  | 2 => some .vfmul
  | 3 => some .vfma
  | 4 => some .vfmin
  | 5 => some .vfmax
  | 6 => some .vfabs
  | 7 => some .vfneg
  | 8 => some .vfceq
  | 9 => some .vfclt
  | 10 => some .vfcle
  | 11 => some .vfrcp
  | 12 => some .vfexp2
  | 13 => some .vflog2
  | 14 => some .vfrsq
  | 15 => some .vfsum
  | _ => none

/-- M 0x6 page 1 (02 R44). -/
def fhTab (fn : Nat) : Option (VR → Instr) :=
  match fn with
  | 0 => some .vfaddH
  | 1 => some .vfsubH
  | 2 => some .vfmulH
  | 3 => some .vfmaH
  | 4 => some .vfminH
  | 5 => some .vfmaxH
  | 6 => some .vfabsH
  | 7 => some .vfnegH
  | 8 => some .vfceqH
  | 9 => some .vfcltH
  | 10 => some .vfcleH
  | 11 => some .vfrcpH
  | 12 => some .vfexp2H
  | 13 => some .vflog2H
  | 14 => some .vfrsqH
  | 15 => some .vfsumH
  | _ => none

/-- M 0x6 page 2 (02 R44). -/
def fbTab (fn : Nat) : Option (VR → Instr) :=
  match fn with
  | 0 => some .vfaddB
  | 1 => some .vfsubB
  | 2 => some .vfmulB
  | 3 => some .vfmaB
  | 4 => some .vfminB
  | 5 => some .vfmaxB
  | 6 => some .vfabsB
  | 7 => some .vfnegB
  | 8 => some .vfceqB
  | 9 => some .vfcltB
  | 10 => some .vfcleB
  | 11 => some .vfrcpB
  | 12 => some .vfexp2B
  | 13 => some .vflog2B
  | 14 => some .vfrsqB
  | 15 => some .vfsumB
  | _ => none

/-- M 0x7 page 0 (02 R43). -/
def intTab (fn : Nat) : Option (VR → Instr) :=
  match fn with
  | 0 => some .vadd
  | 1 => some .vsub
  | 2 => some .vmul
  | 3 => some .vand
  | 4 => some .vor
  | 5 => some .vxor
  | 6 => some .vsll
  | 7 => some .vsrl
  | 8 => some .vsra
  | 9 => some .vmin
  | 10 => some .vmax
  | 11 => some .vceq
  | 12 => some .vclt
  | 13 => some .vperm
  | 14 => some .vmov
  | 15 => some .vbcst
  | _ => none

/-- Page 3 (02 R45). -/
def p3Tab (fn : Nat) : Option (VR → Instr) :=
  match fn with
  | 0 => some .vext
  | 1 => some .vins
  | 2 => some .vidx
  | 3 => some .vredadd
  | 4 => some .vredmin
  | 5 => some .vredmax
  | 6 => some .vargmax
  | 7 => some .vargmin
  | 8 => some .vslideup
  | 9 => some .vslidedn
  | _ => none

/-- Page 4 (02 R46). -/
def p4Tab (fn : Nat) : Option (VR → Instr) :=
  match fn with
  | 0 => some .vcvtF32Bf16Lo
  | 1 => some .vcvtF32Bf16Hi
  | 2 => some .vcvtF32F16Lo
  | 3 => some .vcvtF32F16Hi
  | 4 => some .vcvtBf16F32
  | 5 => some .vcvtF16F32
  | 6 => some .vcvtE4m3F32
  | 7 => some .vcvtE5m2F32
  | 8 => some .vcvtF32E4m3
  | 9 => some .vcvtF32E5m2
  | 10 => some .vcvtI32F32
  | 11 => some .vcvtF32I32
  | 12 => some .vqcb
  | 13 => some .vxcb
  | _ => none

/-- Page 6 (02 R48). -/
def p6Tab (fn : Nat) : Option (KM → Instr) :=
  match fn with
  | 0 => some .kand
  | 1 => some .kor
  | 2 => some .kxor
  | 3 => some .knot
  | 4 => some .kmovg
  | 5 => some .kmovk
  | 6 => some .kpopc
  | 7 => some .kfirst
  | 8 => some .klanes
  | _ => none

/-- M 0x9 (02 R50). -/
def vmTab (fn : Nat) : Option (VMem → Instr) :=
  match fn with
  | 0 => some .vld
  | 1 => some .vst
  | 2 => some .vlds
  | 3 => some .vsts
  | 4 => some .vgath
  | 5 => some .vscat
  | 6 => some .vldf
  | 7 => some .vstf
  | _ => none

/-- M 0xA (02 R51). -/
def atTab (fn : Nat) : Option (Atom → Instr) :=
  match fn with
  | 0 => some .aadd
  | 1 => some .aand
  | 2 => some .aor
  | 3 => some .axor
  | 4 => some .amin
  | 5 => some .amax
  | 6 => some .aminu
  | 7 => some .amaxu
  | 8 => some .aswap
  | 9 => some .acas
  | 10 => some .afadd
  | 11 => some .afmin
  | 12 => some .afmax
  | 13 => some .axsum
  | 14 => some .axread
  | 15 => some .aincw
  | _ => none

/-- M 0xC (02 R53). -/
def enTab (fn : Nat) : Option (Eng → Instr) :=
  match fn with
  | 0 => some .tcopy
  | 1 => some .tread
  | 2 => some .twrite
  | 3 => some .treads
  | 4 => some .tscat
  | 5 => some .tgath
  | 6 => some .sscan
  | _ => none

/-- Full/empty modes (07 R156). -/
def feTab (fn : Nat) : Option (FeOp → Instr) :=
  match fn with
  | 1 => some .ldWf
  | 2 => some .ldTake
  | 3 => some .stPut
  | 4 => some .stSf
  | 5 => some .ldSe
  | 6 => some .ldFes
  | _ => none

/-- M 0xE ops 4 to 7 (02 R55). -/
def csrTab (fn : Nat) : Option (CsrOp → Instr) :=
  match fn with
  | 4 => some .csrr
  | 5 => some .csrw
  | 6 => some .csrs
  | 7 => some .csrc
  | _ => none

/-- M 0xD: op and the flag bits that choose a form (11 R231), with the flag bits left over. -/
noncomputable def taskTab (op fl : Nat) : Option ((TaskOp → Instr) × Nat) :=
  match op with
  | 0 => some (if bitOf fl 2 then (.spawnFar, fl - 4) else (.spawn, fl))
  | 1 => some (if bitOf fl 0 then (.touchSoft, fl - 1) else (.touch, fl))
  | 5 => some (if bitOf fl 0 then (.poisonSelf, fl - 1) else (.poison, fl))
  | 6 => some (if bitOf fl 0 then (.cancelDeep, fl - 1) else (.cancel, fl))
  | 2 => some (.tpoll, fl)
  | 3 => some (.fnew, fl)
  | 4 => some (.resolve, fl)
  | 7 => some (.tcheck, fl)
  | 8 => some (.tend, fl)
  | 9 => some (.tyield, fl)
  | 10 => some (.tgive, fl)
  | 11 => some (.town, fl)
  | 12 => some (.fdrop, fl)
  | 13 => some (.glaunch, fl)
  | _ => none

/-- M 0xE ops with a sub field (02 R55). -/
noncomputable def sysTab (op sub : Nat) : Option (SysOp → Instr) :=
  match op, sub with
  | 0, 0 => some .gbarAnd
  | 2, 0 => some .bardAnd
  | 0, 1 => some .gbarOr
  | 2, 1 => some .bardOr
  | 0, 2 => some .gbarAdd
  | 2, 2 => some .bardAdd
  | 0, 3 => some .gbarPopc
  | 2, 3 => some .bardPopc
  | 0, 4 => some .gbarMin
  | 2, 4 => some .bardMin
  | 0, 5 => some .gbarMax
  | 2, 5 => some .bardMax
  | 0, 6 => some .gbarNone
  | 2, 6 => some .bardNone
  | 1, 0 => some .xstD
  | 1, 1 => some .xstV
  | 2, 7 => some .bardDrop
  | 2, 8 => some .bardInit
  | 3, 0 => some .sleept
  | 8, 0 => some .trace
  | 8, 1 => some .traceX
  | 8, 2 => some .traceCnt
  | 9, 0 => some .tlbiVa
  | 9, 1 => some .tlbiCtx
  | 9, 2 => some .tlbiGpa
  | 9, 3 => some .tlbiVm
  | 9, 4 => some .tlbiAll
  | 10, 0 => some .cflushL1
  | 10, 1 => some .cflushLine
  | 10, 2 => some .cflushWb
  | _, _ => none

def bv (n x : Nat) : BitVec n := BitVec.ofNat n x

def Raw.rg (r : Raw) : Nat := r.reg.getD 0
/-- A 4-bit field with the high bits of d (02 R31). -/
def Raw.dField (r : Raw) (lo : Nat) : BitVec 6 := bv 6 (fld r.b1 (lo + 3) lo + 16 * fld r.rg 8 7)
/-- A 4-bit field with the high bits of s (02 R31). -/
def Raw.sField (r : Raw) (lo : Nat) : BitVec 6 := bv 6 (fld r.b1 (lo + 3) lo + 16 * fld r.rg 6 5)
def Raw.tField (r : Raw) : Option (BitVec 5) := r.reg.map (fun p => bv 5 (p % 32))
def repOf (p : Nat) : RepF := ⟨bv 6 (p / 8), bv 3 (p % 8)⟩
def Raw.repF (r : Raw) : Option RepF := r.rep.map repOf
def maskOf (p : Nat) : MaskF := ⟨bv 3 (p / 64), bitOf p 5, bv 3 (fld p 4 2)⟩
def Raw.maskF (r : Raw) : Option MaskF := r.mask.map maskOf
def Raw.immF (r : Raw) (w f : Nat) : ImmF := ⟨r.imms.length, immRaw w r.imms f⟩
def Raw.la (r : Raw) : BitVec 4 := bv 4 (fld r.b1 11 8)

/-- Prefixes that R35 refuses: each flag says that the encoding accepts that kind. -/
def Raw.accepts (r : Raw) (imm reg mask page rep : Bool) : Bool :=
  (imm || r.imms.isEmpty) && (reg || r.reg.isNone) && (mask || r.mask.isNone) && (page || r.page.isNone) &&
  (rep || r.rep.isNone) && (match r.mask with | none => true | some m => m % 4 == 0 && decide (fld m 4 2 < 5))

/-- REG whose payload extends d alone (02 R35). -/
def Raw.regD (r : Raw) : Bool := r.rg % 128 == 0

def keep? (i : Instr) : Option Instr := if i.wf then some i else none

def decZ (r : Raw) : Option Instr :=
  let x := r.b1 % 256
  let g := bv 6 (x % 64)
  match fld r.b1 11 8 with
  | 0 => if x = 0 then some .nop else none
  | 1 => if x % 16 = 0 then some (.fence ⟨bv 2 (x / 64), bv 2 (fld x 5 4)⟩) else none
  | 2 => some (.trap (bv 8 x))
  | 3 => some (.brk (bv 8 x))
  | 4 => if x = 0 then some .ret else none
  | 5 => if x = 0 then some .rett else none
  | 6 => if x = 0 then some .isync else none
  | 7 => if x < 64 then some (.rdcyc g) else none
  | 8 => if x < 64 then some (.rdtime g) else none
  | 9 => if x < 64 then some (.rdvc g) else none
  | 10 => if x < 64 then some (.jr g) else none
  | 11 => if x < 64 then some (.callr g) else none
  | 12 => if x < 64 then some (.rdctx g) else none
  | _ => none

def decRR (r : Raw) (tab : Nat → Option (RR → Instr)) : Option Instr :=
  match tab (r.b1 % 16) with
  | none => none
  | some c => keep? (c ⟨r.repF, r.dField 8, r.sField 4, r.tField⟩)

def decRS (r : Raw) : Option Instr :=
  let fn := fld r.b1 7 5
  if fn = 7 then
    if r.imms.isEmpty && r.rg % 32 == 0 && fld r.rg 6 6 == 0 then
      keep? (.mov ⟨r.repF, r.reg.isSome, r.dField 8, bv 6 (r.b1 % 32 + 32 * fld r.rg 5 5)⟩)
    else none
  else if r.regD then
    match rsTab fn with
    | none => none
    | some c => keep? (c ⟨r.repF, r.reg.isSome, r.dField 8, r.immF 5 (r.b1 % 32)⟩)
  else none

def decB (r : Raw) : Option Instr :=
  let off := r.immF 6 (r.b1 % 64)
  let c := fld r.b1 7 6
  match r.reg with
  | none =>
    match br1Tab c with
    | none => none
    | some k => keep? (k ⟨bv 4 (fld r.b1 11 8), off⟩)
  | some p =>
    if p / 128 = 0 then
      match br2Tab c with
      | none => none
      | some k => keep? (k ⟨r.sField 8, bv 5 (p % 32), off⟩)
    else none

def decVR (r : Raw) (tab : Nat → Option (VR → Instr)) : Option Instr :=
  match tab (r.b1 % 16) with
  | none => none
  | some c => keep? (c ⟨r.repF, r.maskF, r.dField 8, r.sField 4, r.tField⟩)

def dec6 (r : Raw) : Option Instr :=
  match r.page with
  | none => decVR r fpTab
  | some 1 => decVR r fhTab
  | some 2 => decVR r fbTab
  | some 4 => decVR r p4Tab
  | some _ => none

def dec7 (r : Raw) : Option Instr :=
  match r.page with
  | none => decVR r intTab
  | some 3 => decVR r p3Tab
  | some 6 =>
    if r.accepts false true false true false then
      match p6Tab (r.b1 % 16) with
      | none => none
      | some c => keep? (c ⟨r.dField 8, r.sField 4, r.tField⟩)
    else none
  | some _ => none

def dec8 (r : Raw) : Option Instr :=
  let imm := r.immF 5 (r.b2 % 32)
  let md := fld r.b2 11 9
  let st := bitOf r.b2 13
  let sx := bitOf r.b2 12
  if md = 0 then
    let o : MemOp := ⟨r.repF, r.reg.isSome, r.la, r.dField 4, r.sField 0, bv 2 (r.b2 / 16384), bv 2 (fld r.b2 8 7), bv 2 (fld r.b2 6 5), imm⟩
    if st then (if sx then none else keep? (.st o)) else if sx then keep? (.lds o) else keep? (.ld o)
  else if fld r.b2 15 14 = 3 ∧ sx = false ∧ fld r.b2 8 5 = 0 ∧ (st = true ↔ (md = 3 ∨ md = 4)) then
    match feTab md with
    | none => none
    | some c => keep? (c ⟨r.repF, r.reg.isSome, r.la, r.dField 4, r.sField 0, imm⟩)
  else none

def dec9 (r : Raw) : Option Instr :=
  match vmTab (r.b2 / 8192) with
  | none => none
  | some c => keep? (c ⟨r.repF, r.maskF, r.la, r.dField 4, r.sField 0, r.tField, bv 2 (fld r.b2 12 11), bv 2 (fld r.b2 10 9), r.immF 9 (r.b2 % 512)⟩)

def decA (r : Raw) : Option Instr :=
  match atTab (r.b2 / 2048) with
  | none => none
  | some c => keep? (c ⟨r.la, r.dField 4, r.sField 0, bitOf r.b2 10, bv 2 (fld r.b2 9 8), bv 2 (fld r.b2 7 6), bv 6 (r.b2 % 64), r.tField⟩)

def decM (r : Raw) : Option Instr :=
  let a := r.dField 0
  let rg := r.reg.isSome
  let t := bv 5 (r.rg % 32)
  let x := r.b2
  let set := bitOf x 15
  match fld r.b1 7 4 with
  | 0 =>
    if x % 16384 = 0 then
      if bitOf x 14 then keep? (.mzeroA ⟨r.la, rg, a, set⟩) else keep? (.mzero ⟨r.la, rg, a, set⟩)
    else none
  | 1 => if x % 128 = 0 then keep? (.mldb ⟨r.la, rg, a, bv 2 (x / 16384), bv 5 (fld x 13 9), bv 2 (fld x 8 7)⟩) else none
  | 2 => if x % 16384 = 0 then keep? (.mldcb ⟨r.la, rg, a, bv 2 (x / 16384)⟩) else none
  | 3 => if x % 8 = 0 then keep? (.mmul ⟨r.la, a, t, set, bv 2 (fld x 14 13), bv 5 (fld x 12 8), bv 5 (fld x 7 3)⟩) else none
  | 4 => if x % 2048 = 0 then keep? (.mdrain ⟨r.maskF, r.la, a, t, set, bv 3 (fld x 14 12), bitOf x 11⟩) else none
  | 5 =>
    if x = 0 then keep? (.mpredMr ⟨r.la, rg, a⟩) else if x = 16384 then keep? (.mpredMc ⟨r.la, rg, a⟩)
    else if x = 32768 then keep? (.mpredMk ⟨r.la, rg, a⟩) else none
  | 6 => if x % 32768 = 0 then keep? (.mrdexp ⟨r.la, rg, a, set⟩) else none
  | 7 => if x % 32768 = 0 then keep? (.mstat ⟨r.la, rg, a, set⟩) else none
  | 8 =>
    if x % 32768 = 0 then keep? (.mcorrRow ⟨r.la, rg, a, set⟩)
    else if x % 8192 = 4096 ∧ x < 32768 then keep? (.mcorrCol ⟨r.la, rg, a, bv 2 (fld x 14 13)⟩) else none
  | _ => none

def paramWord (ps : List Nat) (n : Nat) : BitVec 32 := bv 32 (ps.getD (2 * n) 0 + 65536 * ps.getD (2 * n + 1) 0)

def decC (r : Raw) : Option Instr :=
  match enTab (fld r.b1 7 4) with
  | none => none
  | some c =>
    keep? (c ⟨r.la, r.reg.isSome, r.dField 0, bv 6 (r.b2 / 1024), bv 6 (fld r.b2 9 4), bv 4 (r.b2 % 16),
      paramWord r.ps 0, paramWord r.ps 1, paramWord r.ps 2, paramWord r.ps 3⟩)

noncomputable def decD (r : Raw) : Option Instr :=
  match taskTab (fld r.b1 7 4) (r.b2 % 16) with
  | none => none
  | some (c, fl) => keep? (c ⟨r.la, r.reg.isSome, r.dField 0, bv 6 (r.b2 / 1024), bv 6 (fld r.b2 9 4), bv 4 fl⟩)

noncomputable def decE (r : Raw) : Option Instr :=
  let op := fld r.b1 7 4
  if 4 ≤ op ∧ op ≤ 7 then
    if r.b2 % 16 = 0 then
      match csrTab op with
      | none => none
      | some c => keep? (c ⟨r.la, r.reg.isSome, r.dField 0, bv 12 (r.b2 / 16)⟩)
    else none
  else
    match sysTab op (r.b2 % 16) with
    | none => none
    | some c => keep? (c ⟨r.la, r.reg.isSome, r.dField 0, bv 6 (r.b2 / 1024), bv 6 (fld r.b2 9 4)⟩)

/-- What the prefixes and the first parcel alone decide (02 R35, R24 to R55): false when no later parcel could make
the encoding legal. -/
def fstOk (r : Raw) : Bool :=
  let op := fld r.b1 7 4
  let la0 := fld r.b1 11 8 == 0
  let d0 := r.dField 0 == 0
  let fieldG := r.reg.isSome
  match r.b1 / 4096 with
  | 0 => r.accepts false false false false false
  | 1 => r.accepts false true false true true && (r.page.isNone || r.page == some 5)
  | 2 => r.accepts true true false false true && r.regD
  | 3 => r.accepts true true false false true
  | 4 => r.accepts true false false false false
  | 5 => r.accepts true true false false false
  | 6 => r.accepts false true true true true
  | 7 => r.accepts false true true true true
  | 8 => r.accepts true true false false true && r.rg % 32 == 0 &&
    repOk .g .g true (r.dField 4).toNat (r.sField 0).toNat r.repF
  | 9 => r.accepts true true true false true && maskOk false false r.maskF && fieldOk .v fieldG (r.dField 4).toNat &&
    repOk .v .g true (r.dField 4).toNat (r.sField 0).toNat r.repF
  | 10 => r.accepts false true false false false
  | 11 => r.accepts false true (op == 4) false false && decide (op ≤ 8) && fld r.rg 6 5 == 0 &&
    (match r.mask with | none => true | some m => m < 32) &&
    (if op = 3 ∨ op = 4 then fieldG else r.rg % 32 == 0)
  | 12 => r.accepts false true false false false && r.regD && decide (op ≤ 6)
  | 13 => r.accepts false true false false false && r.regD && decide (op ≤ 13) &&
    (!(op == 1 || op == 8 || op == 9) || la0) &&
    (!(op == 4 || op == 5 || op == 6 || op == 8 || op == 9 || op == 10 || op == 12) || d0) && (!(op == 3) || !d0)
  | 14 => r.accepts false true false false false && r.regD && decide (op ≤ 10) &&
    (!(op == 0 || op == 2 || op == 3 || op == 5 || op == 6 || op == 7) || la0) &&
    (!(op == 1 || op == 3 || op == 9 || op == 10) || d0)
  | _ => false

/-- The instruction of a whole encoding, or none where R56 makes it illegal. -/
noncomputable def decodeRaw (r : Raw) : Option Instr :=
  if fstOk r then
    match r.b1 / 4096 with
    | 0 => decZ r
    | 1 => if r.page.isSome then decRR r p5Tab else decRR r rrTab
    | 2 => keep? (.addi ⟨r.repF, r.reg.isSome, r.dField 8, r.immF 8 (r.b1 % 256)⟩)
    | 3 => decRS r
    | 4 => if bitOf r.b1 11 then keep? (.call (r.immF 11 (r.b1 % 2048))) else keep? (.j (r.immF 11 (r.b1 % 2048)))
    | 5 => decB r
    | 6 => dec6 r
    | 7 => dec7 r
    | 8 => dec8 r
    | 9 => dec9 r
    | 10 => decA r
    | 11 => decM r
    | 12 => decC r
    | 13 => decD r
    | 14 => decE r
    | _ => none
  else none

/-- What a run of parcels decodes to. -/
inductive DRes where
  /-- one more parcel is needed -/
  | more
  /-- illegal: the parcel that tval holds (02 R56) -/
  | bad (tval : Nat)
  /-- an instruction and its length in parcels, prefixes and parameter words included -/
  | ok (i : Instr) (len : Nat)
  deriving DecidableEq, Repr

/-- Parcels that follow the first body parcel (02 R21). -/
def tailLen (m : Nat) : Nat := if m < 8 then 0 else if m = 12 then 9 else 1

/-- The bits that must be 0 in parcel `n` of the parameter words, P0's low one being 0 (18 R315, 16 R299); `shaped` says that a
`tcopy` takes its shape from registers. -/
def paramZero (op : Nat) (shaped : Bool) (n : Nat) : Nat :=
  match op with
  | 0 => if n = 1 then 0xFFFC else if shaped && decide (2 ≤ n) then 0xFFFF else if n = 6 then 0x8000 else 0
  | 4 => [0xF000, 0xFFFF, 0xFE00, 0xFFC0].getD n 0xFFFF
  | 5 => [0xF000, 0xFFFF, 0xFE00, 0xFFC0].getD n 0xFFFF
  | 6 => [0x3F, 0, 0, 0, 0xFE00, 0xFFFF].getD n 0
  | _ => [0, 0xFFFC, 0xE000].getD n (if op = 3 ∧ n = 6 then 0 else 0xFFFF)

/-- Flags of a second parcel that the op defines (18 R315, R320). -/
def engFlagsOk (op fl : Nat) : Bool := if op = 0 then decide (fl % 8 < 4) else if op = 6 then fl == 0 else decide (fl < 16)

/-- Bytes of a row: a multiple of 8, at least 8 and at most `most` (18 R315). -/
def rowBytesOk (b most : Nat) : Bool := decide (8 ≤ b) && decide (b ≤ most) && b % 8 == 0

/-- Do the second parcel and the parameter parcels met so far leave the encoding legal (02 R27, R57; 18 R315, R323)? -/
def paramsSoFarOk (op b2 : Nat) (ps : List Nat) : Bool :=
  let known := !bitOf b2 0 && decide (2 ≤ ps.length)
  let shape := fld (ps.getD 0 0 + 65536 * ps.getD 1 0) 17 12
  let shaped := known && shape != 0
  engFlagsOk op (fld b2 9 4) &&
  ((List.range ps.length).all (fun i =>
    let w := ps.getD i 0
    if bitOf b2 (i / 2) then (if i % 2 = 0 then decide (w < 64) else w == 0)
    else (w &&& paramZero op shaped i) == 0 &&
      (i != 2 || op == 0 || op == 6 || (if op < 4 then rowBytesOk (w % 256) 128 else rowBytesOk (w % 512) 256)) &&
      (i != 3 || !(op == 4 || op == 5) || decide ((w % 64 + 1) * (ps.getD 2 0 % 512) ≤ 4096)) &&
      (i != 6 || op != 0 || !known || shape != 0 || (decide (1 ≤ fld w 14 12) && decide (fld w 14 12 ≤ 3)))))

noncomputable def decodeBody (acc : Raw) (npfx : Nat) (b1 : Nat) (rest : List Nat) : DRes :=
  let r := { acc with b1 := b1 }
  let k := tailLen (b1 / 4096)
  if !fstOk r then .bad b1
  else if rest.length < k then
    match rest with
    | [] => .more
    | b2 :: ps => if paramsSoFarOk (fld b1 7 4) b2 ps then .more else .bad b1
  else
    match decodeRaw { r with b2 := if k = 0 then 0 else rest.headD 0, ps := if k = 9 then (rest.drop 1).take 8 else [] } with
    | none => .bad b1
    | some i => .ok i (npfx + 1 + k)

/-- Parcels in address order (02 R28, R29, R56, R57): `acc` holds the prefixes met, `n` how many. -/
noncomputable def decodeFrom (acc : Raw) (n : Nat) : List Nat → DRes
  | [] => .more
  | p :: rest =>
    if p / 4096 = 15 then
      let pay := p % 512
      if n = 4 then .bad p
      else
        match fld p 11 9 with
        | 0 => decodeFrom { acc with imms := acc.imms ++ [pay] } (n + 1) rest
        | 1 => if acc.reg.isSome then .bad p else decodeFrom { acc with reg := some pay } (n + 1) rest
        | 2 => if acc.mask.isSome then .bad p else decodeFrom { acc with mask := some pay } (n + 1) rest
        | 3 => if acc.page.isSome then .bad p else decodeFrom { acc with page := some pay } (n + 1) rest
        | 4 => if acc.rep.isSome then .bad p else decodeFrom { acc with rep := some pay } (n + 1) rest
        | _ => .bad p
    else decodeBody acc n p rest

noncomputable def decodeParcels (ps : List Nat) : DRes := decodeFrom (Raw.short 0) 0 ps

/-- The earliest prefix parcel that breaks a rule which does not depend on the body (02 R56): a MASK code of 101 to
111, a PAGE of 0 or of 7 to 511. -/
def pfxRule : List Nat → Option Nat
  | [] => none
  | p :: rest =>
    if p / 4096 = 15 then
      if (fld p 11 9 = 2 ∧ 5 ≤ fld p 4 2) ∨ (fld p 11 9 = 3 ∧ (p % 512 = 0 ∨ 7 ≤ p % 512)) then some p else pfxRule rest
    else none

/-- Parcels of bytes in memory order (02 R21). -/
def parcelsOfBytes : List Byte → List Nat
  | a :: b :: r => (a.toNat + 256 * b.toNat) :: parcelsOfBytes r
  | _ => []

/-- Decoding of any bytes. -/
noncomputable def decode (bytes : List Byte) : DRes := decodeParcels (parcelsOfBytes bytes)

def opt (f : Nat → Nat) : Option Nat → List Nat
  | none => []
  | some x => [f x]

/-- The parcels of an encoding: IMM, REG, MASK, PAGE, REP, body, parameter words (02 R21, R28). -/
def Raw.parcels (r : Raw) : List Nat :=
  r.imms.map (61440 + ·) ++ opt (61952 + ·) r.reg ++ opt (62464 + ·) r.mask ++ opt (62976 + ·) r.page ++
  opt (63488 + ·) r.rep ++ r.b1 :: (if tailLen (r.b1 / 4096) = 0 then [] else r.b2 :: r.ps)

/-- The parcels of an instruction (empty for a step without an encoding). -/
def encode (i : Instr) : List Nat :=
  match i.raw with
  | none => []
  | some r => r.parcels

/-- The first body parcel of an instruction: what tval holds for causes 1 and 2 (06 R132). -/
def Instr.body1 (i : Instr) : Nat :=
  match i.raw with
  | none => 0
  | some r => r.b1

/-- The length of an instruction in bytes (02 R21). -/
def Instr.size (i : Instr) : Nat := 2 * (encode i).length

/-- The parcels that the table's number `w` of `nbits` bits stands for. The table writes a row of two parcels as
one number whose HIGH half is the first parcel (a prefix stands above its body, the first parcel of a long
instruction above its second); parcels beyond the row are zero. -/
def tableParcels (nbits w : Nat) : List Nat :=
  (if nbits ≤ 16 then [w % 65536] else [w / 65536 % 65536, w % 65536]) ++ List.replicate 12 0

/-- The instruction that the decoder reads from the table's number. -/
noncomputable def decodeTableWord (nbits w : Nat) : Option Instr :=
  match decodeParcels (tableParcels nbits w) with
  | .ok i _ => some i
  | _ => none

end Sys2Proof
end

