-- ==== Sys2Proof/Config.lean ====
section
/-!
DEFINITION. What the specification leaves free. Every constant here has no body, so that nothing can be proved
of its value: a statement that rests on one holds for every value. Logs 7, 9 to 11, 19, 20, 37, 85, 97 and 101.
-/
namespace Sys2Proof.Config

/-- The choice among the outcomes that a rule lists (00 R1), by the counter of choices that State holds: read
modulo the number of outcomes, and only where the outcomes differ (log 7). -/
opaque choose : Nat → Nat
/-- The set of a cache slice that a line belongs to (05 R99): read modulo the number of sets (log 101). -/
opaque sliceSet : Nat → Nat
/-- Which of the ways that it may take a fill replaces, where none is free (05 R99, R119): by line and counter of choices, read
modulo their number (log 101). -/
opaque sliceVictim : Nat → Nat → Nat
/-- The signature over an attestation quote (25 R398): identity, measurements and nonce (log 9). -/
opaque sign : Nat → Nat → BitVec 256 → List Byte
/-- How much faster than the slowest rate that 24 R375 allows the servo runs a locked counter of a die in one cycle, in steps of
1/190000 of a sixteenth: read modulo 321, the width of the allowed range (log 10). -/
opaque servo : Nat → Nat → Nat
/-- Does a locked counter of a die take a step of 9 sixteenths in this cycle, where 24 R375 allows 8 and 9 (log 10)? By die and cycle. -/
opaque longTick : Nat → Nat → Bool
/-- The fabric interface's estimate of a reply time in cycles (18 R326, log 11). -/
opaque replyEstimate : Nat → Nat → Nat
/-- Does the fabric interface know a window of another node as a multicast window (21 R363)? By node and window (log 19). -/
opaque multicastWindow : Nat → Nat → Bool
/-- When does node `r` next transmit to node `d`, from trace time `t` on: the calendar of `r` says it (21 R353, log 20). -/
opaque nextSlotTo : Nat → Nat → Nat → Option Nat
/-- Is the entry of multicast group `g` at node `n`, the sender, the same as this one (21 R363)? By node, group and the words of
the entry at hand (log 37). -/
opaque sameEntry : Nat → Nat → List Word → Bool
/-- Does back-pressure of the ring, of memory or of the fabric keep an engine from going on in this cycle (24 R389)? By trace
source and cycle (log 85). -/
opaque heldUp : Nat → Nat → Bool
/-- The stamp that a halt notice of another node carries (21 R365, 24 R380), by the counter of choices (log 97). -/
opaque noticeStamp : Nat → Nat

end Sys2Proof.Config
end

