-- ==== Sys2Proof/Machine/Cipher.lean ====
section
/-!
DEFINITION. AES-256-XTS, under which a line of device memory is encrypted (05 R113, 25 R397): bytes as numbers below 256, a
block as its 16 bytes in order. The cipher is that of FIPS 197, the mode that of IEEE 1619 (log 8).
-/
namespace Sys2Proof.Machine

/-! The field of 256 elements -/

def gfDouble (x : Nat) : Nat := if x < 128 then 2 * x else (2 * x) ^^^ 0x11B

def gfMulBits : Nat → Nat → Nat → Nat
  | 0, _, _ => 0
  | n + 1, x, y => (if y % 2 = 1 then x else 0) ^^^ gfMulBits n (gfDouble x) (y / 2)
def gfMul (x y : Nat) : Nat := gfMulBits 8 x y

/-- The product of x^2, x^4, … , x^(2^n). -/
def gfSquares : Nat → Nat → Nat
  | 0, _ => 1
  | n + 1, x => let q := gfMul x x; gfMul q (gfSquares n q)
/-- The inverse, x^254; 0 for 0. -/
def gfInv (x : Nat) : Nat := gfSquares 7 x

def rotByte (x n : Nat) : Nat := x * 2 ^ n % 256 + x / 2 ^ (8 - n)

def subByte (x : Nat) : Nat :=
  let b := gfInv x
  b ^^^ rotByte b 1 ^^^ rotByte b 2 ^^^ rotByte b 3 ^^^ rotByte b 4 ^^^ 0x63
def unsubByte (x : Nat) : Nat := gfInv (rotByte x 1 ^^^ rotByte x 3 ^^^ rotByte x 6 ^^^ 0x05)

/-! Rounds -/

def xorBytes (a b : List Nat) : List Nat := (a.zip b).map (fun p => p.1 ^^^ p.2)

/-- Row r of the block moves by r columns, left (`back`: right). -/
def shiftRows (back : Bool) (s : List Nat) : List Nat :=
  (List.range 16).map (fun i => s.getD (4 * ((i / 4 + (if back then 4 - i % 4 else i % 4)) % 4) + i % 4) 0)

/-- Each column by the circulant matrix whose first row is `m`. -/
def mixColumns (m : List Nat) (s : List Nat) : List Nat :=
  (List.range 16).map (fun i => (List.range 4).foldl (fun t j => t ^^^ gfMul (m.getD ((j + 4 - i % 4) % 4) 0) (s.getD (i / 4 * 4 + j) 0)) 0)

/-- The key schedule: `l` holds the words made so far, the last one first; `n` more follow. -/
def keyWords : Nat → List (List Nat) → List (List Nat)
  | 0, l => l
  | n + 1, l =>
    let i := l.length
    let t := l.headD []
    let u := if i % 8 = 0 then
        xorBytes ((t.drop 1 ++ t.take 1).map subByte) [2 ^ (i / 8 - 1), 0, 0, 0]
      else if i % 8 = 4 then t.map subByte else t
    keyWords n (xorBytes (l.getD 7 []) u :: l)

/-- The 15 round keys of a key of 32 bytes. -/
def roundKeys (key : List Nat) : List (List Nat) :=
  (chunks 4 (keyWords 52 (chunks 4 key).reverse).reverse).map List.flatten

def aesEncrypt (key block : List Nat) : List Nat :=
  match roundKeys key with
  | [] => block
  | k :: r =>
    let s := (r.take 13).foldl (fun s k => xorBytes (mixColumns [2, 3, 1, 1] (shiftRows false (s.map subByte))) k) (xorBytes block k)
    xorBytes (shiftRows false (s.map subByte)) (r.getD 13 [])

def aesDecrypt (key block : List Nat) : List Nat :=
  match (roundKeys key).reverse with
  | [] => block
  | k :: r =>
    let s := (r.take 13).foldl (fun s k => mixColumns [14, 11, 13, 9] (xorBytes ((shiftRows true s).map unsubByte) k)) (xorBytes block k)
    xorBytes ((shiftRows true s).map unsubByte) (r.getD 13 [])

/-! Lines -/

def bytesOf (n x : Nat) : List Nat := (List.range n).map (fun i => x / 256 ^ i % 256)
def numberOf (l : List Nat) : Nat := l.foldr (fun b n => b + 256 * n) 0

/-- The tweak of the next block of a data unit. -/
def nextTweak (t : Nat) : Nat := if t < 2 ^ 127 then 2 * t else (2 * t - 2 ^ 128) ^^^ 0x87

def xtsBlocks (cipher : List Nat → List Nat) : List (List Nat) → Nat → List Nat
  | [], _ => []
  | b :: r, t => xorBytes (cipher (xorBytes b (bytesOf 16 t))) (bytesOf 16 t) ++ xtsBlocks cipher r (nextTweak t)

/-- The 128 bytes of line `line` encrypted, or decrypted, under the key pair `kv`: the data key in bytes 0 to 31, the tweak key
in the next (25 R397). The tweak is the line's physical address (05 R113). -/
def xtsLine (cipher : List Nat → List Nat → List Nat) (kv line : Nat) (l : List Nat) : List Nat :=
  xtsBlocks (cipher (bytesOf 32 kv)) (chunks 16 l) (numberOf (aesEncrypt (bytesOf 32 (kv / 2 ^ 256)) (bytesOf 16 (128 * line))))

/-- A line written under one key pair and read under another (05 R116). -/
def recodeLine (old new line : Nat) (l : List Nat) : List Nat :=
  xtsLine aesDecrypt new line (xtsLine aesEncrypt old line l)

end Sys2Proof.Machine
end

