-- ==== Sys2Proof/Machine/State.lean ====
section
/-!
DEFINITION. The state of the whole device: one package, its 512 cores, engines, tables, fabric interface and
management space. Plain data only. What a program's core sees is `Core`; the active core is held apart from the
others. A missing key of a sparse map reads as the value that the accessor names.
-/
namespace Sys2Proof.Machine

/-- Privilege levels at which a core executes (06 R123). -/
inductive Lvl where
  | u | k | h
  deriving DecidableEq, Repr

def Lvl.num : Lvl → Nat
  | .u => 0
  | .k => 1
  | .h => 2

/-- `status` (06 R125). -/
structure Status where
  hpie : Bool
  hie : Bool
  hpp : Lvl
  kpie : Bool
  kie : Bool
  kpp : Bool
  deriving DecidableEq, Repr

/-- `rep` (06 R128). -/
structure RepCsr where
  step : BitVec 3
  index : BitVec 6
  remain : BitVec 7
  deriving DecidableEq, Repr

/-- A repeat in progress (02 R34, 06 R129): the iteration to run, the last one, the step mask in force, and whether
the `rep` CSR is reset when the last one retires. -/
structure Cont where
  i : Nat
  last : Nat
  step : Nat
  resumed : Bool
  deriving DecidableEq, Repr

/-- A register that a lookahead window compares (02 R37). -/
inductive RegId where
  | g (n : Nat)
  | v (n : Nat)
  deriving DecidableEq, Repr

/-- An open lookahead window (02 R36, R37): address of the long instruction, positions left, W, L, and the register
results that its instruction has not written yet. -/
structure Win where
  xaddr : Nat
  left : Nat
  w : List RegId
  l : List RegId
  gw : List (Nat × Word)
  vw : List (Nat × VReg)
  deriving DecidableEq, Repr

/-- A store in the write buffer (05 R100, 23 R373): flat address, bytes, the key slot it is written under (none: a
location that is not HBM), and the address of its instruction. -/
structure WbEnt where
  pa : Nat
  bytes : List Byte
  slot : Option Nat
  pc : Nat
  /-- the location is cached memory, which a cluster scope does not order (07 R146) -/
  cached : Bool
  /-- the location is a word of a sync page, whose home is a synchronisation engine (19 R330) -/
  sync : Bool
  deriving DecidableEq, Repr

/-- A line that L1 holds (05 R99, R100, R113): its number, the slot it was filled under and that slot's key, and its
128 bytes where they differ or may differ from what its home holds. -/
structure L1Line where
  line : Nat
  slot : Nat
  kv : Nat
  old : Option Nat
  deriving DecidableEq, Repr

/-- Which task a core holds: its gang and its rank. -/
structure TaskRef where
  gid : Nat
  rank : Nat
  deriving DecidableEq, Repr

/-- A request of a cluster's copy engine (18 R311 to R326). Ops past 5 are work of the cluster's scheduler: 6 the loads of a
gang, 7 the write-back of a member, 8 that of a tile which came back. -/
structure Copy where
  id : Nat
  op : Nat
  core : Nat
  /-- the task that issued it -/
  task : Option TaskRef
  ctx : Nat
  lvl : Lvl
  handle : Word
  promise : Nat
  pc : Nat
  /-- addresses, extents, strides and the list, as the op gives -/
  dst : Word
  src : Word
  shape : List Nat
  sstr : List Int
  dstr : List Int
  sfmt : Nat
  dfmt : Nat
  mode : Nat
  sat : Bool
  cb : BitVec 256
  stride : Nat
  rows : Nat
  rowb : Nat
  list : List Word
  tiles : List Nat
  /-- the receiving task (18 R316) -/
  recv : Option TaskRef
  /-- rows handled, remote rows that have no answer yet, rows moved, the lowest failing row and its code -/
  pos : Nat
  out : List Nat
  moved : Nat
  fail : Option (Nat × Nat)
  /-- accesses done; only the answers of remote rows are missing -/
  done : Bool
  /-- doublewords written of the row or tile in progress -/
  sub : Nat
  /-- its finish record has been generated -/
  told : Bool
  /-- the continuation's gang, for `treads` -/
  next : Option Nat
  deriving DecidableEq, Repr

/-- An element of a store of many that has still to be sent to another node: its number, virtual address and place. -/
structure FarElem where
  lane : Nat
  va : Nat
  at_ : Nat
  node : Nat
  sync : Bool
  deriving DecidableEq, Repr

/-- What keeps a core from issuing. -/
inductive Wait where
  /-- issues -/
  | none
  /-- in a full/empty retry list (07 R157): destination register (none for a store) and instruction size -/
  | fe (d : Option Nat) (size : Nat)
  /-- in `gbar` (07 R161): destination register and size -/
  | gbar (d : Nat) (size : Nat)
  /-- in `bard` (19 R344) -/
  | bard (d : Nat) (size : Nat)
  /-- in `sleept` (07 R166): target, handle (0: none), size -/
  | sleep (target : Word) (h : Option Word) (size : Nat)
  /-- for the reply with this tag (21 R359); what is done with it stands in the fabric's reply slots -/
  | reply (tag : Nat)
  /-- for the replies of a vector load's remote elements (08 R191): the load's number, destination, format, mask, zeroing,
  scope of its acquire (0: none), replies missing, lanes read, causes met as lane, code and address, and size -/
  | vec (id : Nat) (d : Nat) (fmt : Nat) (mask : Nat) (z : Bool) (acq : Nat) (left : Nat) (got : List (Nat × Nat))
      (bad : List (Nat × Nat × Nat)) (size : Nat)
  /-- for the replies of an array instruction's remote elements (14 R276): its number, replies missing, elements read,
  causes met as element, code and address, and size; with none missing it issues again -/
  | far (id : Nat) (left : Nat) (got : List (Nat × List Byte)) (bad : List (Nat × Nat × Nat)) (size : Nat)
  /-- parking: the touched handle (10 R209); the instruction runs again when the task resumes -/
  | park (h : Word)
  /-- in `tyield`, of this size: the task resumes after it (11 R243) -/
  | yield (size : Nat)
  /-- stopped for its gang's save (04 R98) -/
  | stopped
  /-- at issue, until it can go on: it issues again -/
  | issue
  /-- at issue, until banks of the scratchpad accept its access, presented to them in that cycle (19 R338) -/
  | bank (bs : List Nat) (since : Nat)
  /-- at issue: a copy request, as its checks and its snapshot made it, that its engine has not accepted yet (18 R312) -/
  | engine (q : Copy) (o : Eng)
  /-- a store of many elements that has passed its checks, until the next of these may be sent (21 R357; 14 R277) -/
  | post (rest : List FarElem)
  /-- `tend` or a park waits for engine requests or a scan (16 R309, 18 R328) -/
  | drain
  deriving DecidableEq, Repr

/-- A pending interrupt (06 R134): cause, sub, tval, the context it targets, and its level. -/
structure Intr where
  code : Nat
  sub : Nat
  tval : Word
  ctx : Nat
  lvl : Lvl
  deriving DecidableEq, Repr

/-- Events that wait for an instruction boundary (06 R134). -/
structure Pending where
  deferred : List Intr
  halt : Bool
  intrs : List Intr
  preempt : Bool
  deriving DecidableEq, Repr

/-- Gang barrier state of one member (07 R161, 06 R141). -/
structure Barrier where
  arrived : Bool
  /-- the address of the `gbar` that arrived (07 R162) -/
  pc : Addr
  sub : Nat
  payload : Word
  epoch : Word
  deriving DecidableEq, Repr

/-- One accumulator cell (13 R260). -/
structure Cell where
  value : BitVec 128
  spec : BitVec 2
  deriving DecidableEq, Repr

/-- One accumulator set (13 R260). A cell that `cells` does not list is 0 and finite; cell (i, j) has key 32i + j. -/
structure AccSet where
  cells : SMap Cell
  eacc : Int
  anch : Bool
  ovf : Bool
  rcorr : SMap (BitVec 128)
  deriving DecidableEq, Repr

/-- One weight-buffer slot (13 R268, R269): descriptor, the panel's bytes, and the private decoder table. -/
structure WbSlot where
  desc : Word
  bytes : List Byte
  cb : BitVec 256
  /-- columns that were read in error: their elements are NaN (14 R277) -/
  nan : BitVec 32
  deriving DecidableEq, Repr

/-- The array state of a task (13 R260, R267 to R270). Codebook registers hold 16 entries each; an empty list is all +0. -/
structure ArrState where
  acc0 : AccSet
  acc1 : AccSet
  wb0 : WbSlot
  wb1 : WbSlot
  wb2 : WbSlot
  wb3 : WbSlot
  cb0 : BitVec 256
  cb1 : BitVec 256
  cb2 : BitVec 256
  cb3 : BitVec 256
  rowP : BitVec 32
  colP : BitVec 32
  kP : BitVec 32
  deriving DecidableEq, Repr

/-- A state-space scan request (16 R300 to R303, R308): the operands read at issue and its progress. -/
structure Scan where
  handle : Word
  lvl : Lvl
  len : Nat
  q : Nat
  n : Nat
  p : Nat
  heads : Nat
  z : Bool
  fp32 : Bool
  pol : Nat
  thr : Nat
  ptrs : List Word
  strides : List Nat
  hstrides : List Word
  head : Nat
  chunk : Nat
  /-- the state of the head in progress, once read: N x P FP32 words -/
  h : Option (List (BitVec 32))
  mcount : Nat
  scount : Nat
  pc : Nat
  /-- what `todo` holds: 1 the Y rows of a chunk, 2 the H_end of a head that ends, 3 the H_end of a stop; 0 nothing -/
  phase : Nat
  /-- words still to be written: address and value -/
  todo : List (Nat × Nat)
  /-- the form of the last chunk: the matrix form -/
  mat : Bool
  /-- 16 R308: 0 it runs, 1 it stops at the end of the chunk in progress, 2 it has stopped -/
  stop : Nat
  deriving DecidableEq, Repr

/-- The fetch buffer (07 R147): the 64-byte block it holds, as a flat address, and the key it was read under; the bytes
that the block held before later stores of other agents (only those); and the bytes, anywhere, that the core has
written since its last `isync`, as they were before. -/
structure FetchBuf where
  block : Option Nat
  kv : Nat
  old : SMap Byte
  own : SMap Byte
  deriving DecidableEq, Repr

/-- How a core stands (25 R394, 06 R134, R137, 25 R400): held by reset, running, idle (holds no task), running a handler
that an event of an idle core entered, or stopped for good. -/
inductive CMode where
  | held | run | idle | irq | stopped
  deriving DecidableEq, Repr

/-- One virtual core. -/
structure Core where
  mode : CMode
  pc : Addr
  g : Vector Word 64
  v : Vector VReg 32
  k : Vector Word 8
  fflags : BitVec 5
  fenable : BitVec 5
  rep : RepCsr
  sgen : Word
  ssbthr : BitVec 6
  ssbpol : BitVec 2
  rstack : List Addr
  rsp : Addr
  spilled : BitVec 16
  ctx : BitVec 6
  priv : Lvl
  status : Status
  epc : Addr
  cause : Word
  tval : Word
  tveck : Addr
  scratchk : Word
  tvech : Addr
  scratchh : Word
  epch : Addr
  causeh : Word
  tvalh : Word
  afterRett : Bool
  skipBkpt : Bool
  cont : Option Cont
  task : Option TaskRef
  wait : Wait
  /-- the cycle in which the access that issues now was presented to the banks of the scratchpad (19 R338) -/
  asked : Option Nat
  halted : Bool
  retouch : Bool
  pend : Pending
  bar : Barrier
  live : Bool
  arr : ArrState
  ssb : Option Scan
  wins : List Win
  /-- the window that the instruction under way opens when what it waits for has come (02 R36) -/
  opening : Option Win
  wbuf : List WbEnt
  /-- most recently filled first, at most 512 lines -/
  l1 : List L1Line
  fbuf : FetchBuf
  holdCycles : Nat
  stallCycles : Nat
  /-- the trace stalls of this core, the last one first: first and last cycle (07 R166, 24 R386) -/
  stalls : List (Nat × Nat)
  /-- a tile that its task has given away and the device has not handed over yet (11 R244): to the gang's shared state where
  no task is named -/
  gave : Option (Nat × Option TaskRef)
  /-- the context of the task that held the core last, where nothing but a task has run there since (04 R94) -/
  lastCtx : Option (BitVec 6)
  deriving DecidableEq, Repr

/-- States of a future-table entry (10 R213). -/
inductive FtState where
  | pending | running | resolved | poisoned | cancelled
  deriving DecidableEq, Repr

/-- An on-chip future-table entry (10 R211). Its waiters stand in the state's list of waiters. -/
structure Entry where
  st : FtState
  kind : Nat
  handle : Word
  value : Word
  parent : Word
  seq : Nat
  code : Nat
  carried : Nat
  creq : Bool
  refs : Nat
  deriving DecidableEq, Repr

/-- A waiter on a future (10 R215): the handle, and the waiter's node, cluster and slot as one number of 26 bits. -/
structure Waiter where
  h : Word
  ref : Nat
  deriving DecidableEq, Repr

/-- An event that no instruction awaits (10 R221): a producer's finish, the end of a task with the release of its reference,
the wake of a waiter, a report. -/
inductive DevEv where
  | finish (h : Word) (st : FtState) (value : Word) (code : Nat)
  | ended (h : Word) (st : FtState) (value : Word) (code : Nat)
  | wake (h : Word)
  /-- the words of a stall or cycle report of a context (10 R226, R227) -/
  | report (ctx : Nat) (words : List Nat)
  deriving DecidableEq, Repr

/-- A task type as read at placement (10 R195). -/
structure TaskType where
  entry : Addr
  ssb : Bool
  arr : Bool
  prio : Nat
  gang : Nat
  store : Nat
  vregs : Nat
  gregs : Nat
  args : List Nat
  deriving DecidableEq, Repr

/-- A tile that a task was given (10 R198): its context, its argument number, its tile, its memory rows and its access code. -/
structure TileArg where
  ctx : Nat
  arg : Nat
  tile : Nat
  space : Nat
  ti : Nat
  tj : Nat
  acc : Nat
  base : Nat
  stride : Nat
  rowb : Nat
  rows : Nat
  deriving DecidableEq, Repr

/-- Who held a tile that stands at 0x0A (04 R88): a rank, or the gang. -/
structure HeldTile where
  tile : Nat
  rank : Option Nat
  deriving DecidableEq, Repr

/-- A member of a gang. `tiles` keeps the descriptors of the tiles it was given; `slot` names the on-chip entry it
runs under as cluster * 1024 + slot. `writing` holds from its `tend` to the end of its write-back of `wb`; `result`,
`code` and `value` are what its entry finishes with. `slots` keeps the panels of a saved member (06 R142). -/
structure Member where
  rank : Nat
  fut : Word
  slot : Option Nat
  core : Option Nat
  tiles : List TileArg
  loads : Bool
  started : Bool
  /-- was saved inside a repeat: its first instruction after the resume consults `rep` (06 R129) -/
  consult : Bool
  /-- was saved in a `touch`, which runs again (10 R209) -/
  touch : Bool
  /-- the address of the `gbar` that a saved member has arrived at -/
  barPc : Addr
  ended : Bool
  writing : Bool
  wb : List Nat
  result : FtState
  code : Nat
  value : Word
  slots : List WbSlot
  deriving DecidableEq, Repr

/-- States of a task or gang (10 R210). -/
inductive GState where
  | queued | hazard | prefetch | ready | running | parked | preempted | ending | ended
  deriving DecidableEq, Repr

/-- A gang of tasks (04 R76, R77); a spawned task is a gang of one. -/
structure Gang where
  gid : Nat
  ctx : Nat
  grid : Option Nat
  dw0 : Word
  arg0 : Word
  arg1 : Word
  seq : Nat
  cluster : Option Nat
  home : Nat
  ty : Option TaskType
  size : Nat
  members : List Member
  st : GState
  enq : Nat
  since : Nat
  queue : Nat
  aside : Bool
  /-- why the gang is stopping: 0 not, 1 park, 2 pre-emption, 3 yield -/
  stopping : Nat
  touched : Word
  held : List HeldTile
  /-- window address given in g8, for a continuation (18 R322) -/
  contTile : Option Nat
  /-- was saved by a park or a yield: registers past the declared use read 0 on resume (10 R209) -/
  parked : Bool
  hadScan : List (Nat × Scan)
  deriving DecidableEq, Repr

/-- A grid (11 R246 to R250). -/
structure Grid where
  id : Nat
  ctx : Nat
  q : Nat
  packet : List Word
  handle : Word
  started : Bool
  next : Nat
  total : Nat
  live : Nat
  okAll : Bool
  poison : Option Nat
  /-- steps 1 and 2 of its completion have been taken (11 R250) -/
  ended : Bool
  /-- its end record has been generated, and what its completion word met -/
  told : Option (Option Nat)
  gang : Nat
  deriving DecidableEq, Repr

/-- A cluster (04 R87, 10 R205 to R211, 18 R311). A tile that `owners` does not list is free (0xFF); `genr` holds the
generation of a slot (0 where not listed). -/
structure Cluster where
  owners : SMap Nat
  /-- the descriptor under which a tile was first given to a task (11 R244) -/
  tdesc : SMap TileArg
  ft : SMap Entry
  genr : SMap Nat
  copies : List Copy
  promise : Nat
  failed : Nat
  searchSince : Option Nat
  /-- core of the cluster whose access each bank accepted last (19 R338): 7 where not listed -/
  winners : SMap Nat
  /-- the cycle after that of the last access that a bank accepted (0 where not listed) -/
  accepts : SMap Nat
  deriving DecidableEq, Repr

/-- Per context and cluster (06 R124 holder X). -/
structure XCsr where
  fbatch : Addr
  fquota : BitVec 11
  fwater : BitVec 11
  trctl : Word
  dlog : Word
  deriving DecidableEq, Repr

/-- The context translation record as loaded (05 R104), with its VM. -/
structure CtxRec where
  valid : Bool
  root1 : Nat
  cwm : Nat
  root2 : Nat
  hbase : Nat
  hlimit : Nat
  hoff : Nat
  hkey : Nat
  vwm : Nat
  vm : Nat
  irqcore : Nat
  cblk : Nat
  /-- breaks R104 -/
  bad : Bool
  deriving DecidableEq, Repr

/-- Per context, device wide (11 R247, R248, 10 R211, R227, R228). -/
structure Ctx where
  rec? : Option CtxRec
  seed : Word
  events : BitVec 256
  seq : BitVec 48
  qwait : Nat
  run : Nat
  /-- search cycles as a numerator over 840 -/
  search : Nat
  stall : Nat
  reports : BitVec 32
  /-- since which cycle the context has stood still (10 R225), and whether that has been reported -/
  stallSince : Option Nat
  stallOnset : Bool
  halted : Bool
  /-- software-breakpoint capture is armed (07 R145) -/
  capture : Bool
  deriving DecidableEq, Repr

/-- A translation that a TLB holds (05 R109): context, 64 KiB page of the VA, and what it gives. -/
structure Xl where
  pa : Nat
  node : Nat
  remote : Bool
  sync : Bool
  home : Nat
  key : Nat
  u : Bool
  r : Bool
  w : Bool
  x : Bool
  heap : Bool
  /-- guest-physical 64 KiB page, size code of the stage-2 page, and the address of the stage-2 leaf (0: no stage 2) -/
  gpa : Nat
  s2size : Nat
  s2leaf : Nat
  s2deny : Nat
  /-- log 2 of the size of its stage-1 page -/
  vbits : Nat
  deriving DecidableEq, Repr

structure TlbEnt where
  ctx : Nat
  vm : Nat
  vpage : Nat
  xl : Xl
  deriving DecidableEq, Repr

/-- What the dirty log needs to know of a write that comes later (05 R111, R112): the context, the cluster whose log it
is, the stage-2 leaf (0: none), the guest-physical address and the page's size code. -/
structure LogAt where
  ctx : Nat
  cl : Nat
  leaf : Nat
  gpa : Nat
  size : Nat
  deriving DecidableEq, Repr

/-- A table entry that a walk cache or a TLB holds (05 R109): of stage 2 or 1, for a VM and (stage 1) a context; its level, the
bits of the address above what the entry maps, where it stood in memory, and its value. -/
structure WalkEnt where
  s2 : Bool
  vm : Nat
  ctx : Nat
  lvl : Nat
  pre : Nat
  at_ : Nat
  ent : Nat
  deriving DecidableEq, Repr

/-- A line that a cache slice holds (05 R99, R107, R113): its number, its way, the slot it was filled under, pinned or not. Its
quadrant follows from its number, its set from `Config.sliceSet`. -/
structure SliceLine where
  line : Nat
  way : Nat
  slot : Nat
  pin : Bool
  deriving DecidableEq, Repr

/-- A waiter of a full/empty retry list (07 R157). -/
structure FeWait where
  pa : Nat
  mode : Nat
  data : Word
  key : Nat
  log : LogAt
  /-- the core, or the packet that asked for it (21 R361) -/
  core : Option Nat
  packet : Option Packet
  /-- the answer of another node's core reports an error in the list's overflow (19 R329, log 102) -/
  err : Bool
  deriving DecidableEq, Repr

/-- An arrival record of `bard` (19 R344): `heard` is the least stamp of what the arrival causes, and `told` holds once the
completion's record has been generated (24 R380, R385). -/
structure BardRec where
  pa : Nat
  sub : Nat
  payload : Word
  key : Nat
  log : LogAt
  core : Option Nat
  packet : Option Packet
  heard : Nat
  told : Bool
  /-- as in `FeWait` -/
  err : Bool
  deriving DecidableEq, Repr

/-- An `xst` that its target bank has not accepted yet (07 R164): `pc` is its address, by which its lookahead window names it. -/
structure Xst where
  sender : Nat
  pc : Nat
  gid : Nat
  rank : Nat
  off : Nat
  bytes : List Byte
  deriving DecidableEq, Repr

/-- A base-die queue engine (10 R207, 11 R248, R252): the global task queue, the launch queue, heads of the door pages,
and the bytes of the door pages (door context * 4096 + offset). -/
structure Bqe where
  tasks : List Nat
  grids : List Nat
  heads : SMap Nat
  doors : List Host.Cell
  deriving DecidableEq, Repr

/-- A key slot (25 R397); `busy` of 05 R115. -/
structure KeySlot where
  key : BitVec 512
  valid : Bool
  vm : BitVec 6
  err : Bool
  busy : Bool
  deriving DecidableEq, Repr

/-- What a reply slot is held for (21 R358). -/
inductive ReplyFor where
  /-- a register of a waiting core: core, destination g register, sign-extended width, acquire -/
  | reg (v : Nat) (d : Nat) (sx : Nat) (acq : Bool) (size : Nat)
  /-- an element of a waiting vector load: core, the load's number, lane -/
  | vec (v : Nat) (id : Nat) (lane : Nat)
  /-- a task instruction: core, op, registers d and t, soft -/
  | task (v : Nat) (op : Nat) (d : Nat) (t : Nat) (h : Word) (size : Nat)
  /-- a posted store: core and address of the store -/
  | store (v : Nat) (pc : Nat)
  /-- the result of a `bard`: core, destination, size -/
  | bard (v : Nat) (d : Nat) (size : Nat)
  /-- the refill of a `ret` (06 R131): core and size -/
  | pop (v : Nat) (size : Nat)
  /-- a row of a copy request; a gathered row holds a reply slot -/
  | row (cl : Nat) (id : Nat) (m : Nat) (slot : Bool)
  /-- the completion word of a grid: its quadrant and number (11 R250) -/
  | grid (q : Nat) (id : Nat)
  /-- a packet that this node forwards or answers for another (21 R363) -/
  | fwd (p : Packet)
  deriving DecidableEq, Repr

/-- A request without its answer: where it went, as what kind, the fabric address and the virtual address (or what
else tval holds for a cause in the answer), and how many answers are missing. -/
structure Out where
  tag : Nat
  dst : Nat
  chan : Nat
  kind : Nat
  addr : Nat
  va : Nat
  forw : ReplyFor
  left : Nat
  /-- the context that it was made in -/
  ctx : Nat
  deriving DecidableEq, Repr

/-- States of a port (21 R367). -/
inductive PState where
  | run | drain | mark | ready | hold
  deriving DecidableEq, Repr

/-- One optical port (21 R349 to R351, R364, R367): calendars as 64 words of 16 bits (0 where not listed). -/
structure Port where
  st : PState
  cal : SMap (BitVec 16)
  armed : SMap (BitVec 16)
  errors : BitVec 32
  lanes : BitVec 8
  /-- a lane has failed since the last dark interval -/
  lost : Bool
  width : Nat
  fails : Nat
  /-- its relock has failed in the present dark interval -/
  tried : Bool
  /-- nodes to which markers have been sent, and nodes that have answered -/
  sent : List Nat
  acked : List Nat
  deriving DecidableEq, Repr

/-- The fabric interface of the package (21). -/
structure Fabric where
  own : BitVec 10
  ports : SMap Port
  ftime : Word
  ftimeArmed : Word
  fepoch : Word
  farm : Word
  reach : SMap (BitVec 16)
  reachArmed : SMap (BitVec 16)
  windows : SMap (List Word)
  groups : SMap (List Word)
  /-- next sequence number by destination * 4 + channel, and next expected by source * 4 + channel -/
  sendSeq : SMap Nat
  recvSeq : SMap Nat
  groupSeq : SMap Nat
  /-- packets waiting to be sent, packets held early, packets held for relaying -/
  outbox : List Packet
  held : List Packet
  /-- received requests whose write waits on a full dirty log (05 R112) -/
  full : List Packet
  relay : List Packet
  outs : List Out
  nextTag : Nat
  slot : Nat
  dark : Bool
  /-- packets that have left in the current slot, as they travel (21 R355) -/
  light : List Packet
  /-- drain markers received and not yet answered -/
  markers : List Packet
  deriving DecidableEq, Repr

/-- A record that waits for room (24 R385): its source, the buffer it goes to, the context it counts for, and since which
cycle and which trace time its source stalls. -/
structure TraceRec where
  src : Nat
  buf : Nat
  ctx : Nat
  bytes : List Byte
  since : Nat
  time : Nat
  deriving DecidableEq, Repr

/-- What the writer knows of a buffer (24 R383): dw0 to dw5 of its descriptor, and whether they have been read. -/
structure TraceBuf where
  dw : List Nat
  whole : Bool
  /-- what dw4 and dw5 have gained and memory does not show yet, and whether dw1 has yet to show the end of the lossless mode and
  the stop: a pause keeps them from being written (24 R388) -/
  owed4 : Nat
  owed5 : Nat
  lossy : Bool
  halt : Bool
  deriving DecidableEq, Repr

/-- The trace units (24): the sequence counter of a source and context (source * 64 + context), the last stamp of a source,
records that wait for room; by buffer, the records dropped since its last drop record and what is known of it. A buffer
has the number cluster * 64 + context (4096: the hypervisor's) + 8192 times the line of its descriptor. -/
structure TraceSt where
  seqs : SMap (BitVec 12)
  stamps : SMap Nat
  waiting : List TraceRec
  drops : SMap Nat
  bufs : SMap TraceBuf
  /-- the records that the management controller has received (24 R384), the last one first -/
  port : List (List Byte)
  deriving DecidableEq, Repr

/-- A trace time counter (24 R375). -/
structure TraceClock where
  base : Nat
  /-- the servo holds lock now -/
  held : Bool
  /-- the servo has locked at some time: it sets the rate -/
  locked : Bool
  /-- the time at the servo's rate, in steps of 1/190000 of a sixteenth, once locked: `base` keeps within one sixteenth of it -/
  ideal : Nat
  deriving DecidableEq, Repr

/-- A monitor word (25 R400). -/
structure Monitor where
  temp : BitVec 16
  mv : BitVec 12
  thr : BitVec 4
  corr : BitVec 16
  proc : BitVec 8
  deriving DecidableEq, Repr

/-- The management space (25 R392) apart from the registers that other structures hold. -/
structure Mgmt where
  phase : BitVec 8
  code : BitVec 8
  stopped : Bool
  /-- the virtual cores that the management trace names as stopped, the last one first (25 R395) -/
  named : List Nat
  remap : List (BitVec 32)
  bkpts : Vector Word 16
  htrdesc : Word
  /-- virtual cores whose `cstart` run bit is 1 and that are not core 0 of their cluster are not held -/
  tvech : Addr
  rollback : Nat
  image : Nat
  raises : Option Nat
  identity : Nat
  measure : Nat
  quote : List Byte
  service : Nat
  restarts : Nat
  lasers : Bool
  monitors : SMap Monitor
  watts : Nat
  deriving DecidableEq, Repr

/-- Partitions and gates (05 R117): the partition of each quadrant, and the locked gates as unordered pairs a * 8 + b
with a < b. -/
structure Parts where
  part : Vector Nat 8
  locked : List Nat
  deriving DecidableEq, Repr

/-- What a debugger, or chance, does to the device (log 93): capture of software breakpoints is armed or disarmed for a
context (07 R145); a corrected soft error counts in a monitor word, an uncorrectable one strikes a line (25 R399). -/
inductive Env where
  | capture (ctx : Nat) (on : Bool)
  | corrected (unit : Nat)
  | uncorrected (line : Nat)
  deriving DecidableEq, Repr

/-- A turn of the device: `dt` cycles pass, then a core issues, a step of the device takes place, or something happens to it. -/
inductive Act where
  | core (v : Nat)
  | event (i : Instr)
  | env (e : Env)
  deriving DecidableEq, Repr

structure Turn where
  dt : Nat
  act : Act
  deriving DecidableEq, Repr

/-- One page of a fault batch (06 R137). -/
structure PageFault where
  page : Nat
  lvl : Nat
  stage : Nat
  acc : Nat
  bad : Bool
  deriving DecidableEq, Repr

/-- The whole device. `core` is virtual core `cur`; a core that neither it nor `others` holds is as reset leaves it. -/
structure State where
  cur : Nat
  core : Core
  others : SMap Core
  mem : List Host.Cell
  /-- doublewords of device memory whose full/empty bit is empty, rising (07 R156) -/
  empties : List Nat
  /-- the key under which a line was last written (05 R113, R116) -/
  ltag : SMap Nat
  /-- lines that hold an uncorrectable error (25 R399), by flat address / 128; the record in an overflow area of the waiters
  on the words of a line (19 R329) has the number of the line plus 2^40 -/
  ecc : List Nat
  agenda : List Turn
  cycle : Word
  clock0 : TraceClock
  clock1 : TraceClock
  /-- the model's own: choices taken (log 7) -/
  fresh : Nat
  /-- the model's own: pages that the run-ahead of the instruction of this step meets behind it (05 R110, log 17); empty
  between steps -/
  ahead : List PageFault
  clusters : SMap Cluster
  xcsrs : SMap XCsr
  ctxs : SMap Ctx
  tlb : List TlbEnt
  /-- the table entries that walk caches hold -/
  walks : List WalkEnt
  slices : List SliceLine
  gangs : List Gang
  grids : List Grid
  nextId : Nat
  waits : List Waiter
  /-- handles whose creator discarded them: the device releases its reference when the entry finishes (11 R232) -/
  drops : List Word
  bqes : SMap Bqe
  feq : List FeWait
  bards : List BardRec
  xsts : List Xst
  /-- engine writes that wait on a full dirty log (05 R112): the cluster of a copy engine, 64 for write-backs, 65 for
  scans, 67 for grids, 68 for received requests, 69 for the withdrawal of a `bard`, 70 for the
  first dispatch in a cluster, 71 for the launches of a door context, 72 for events on entries, 73 for a trace buffer, 74 for the save of a gang; and
  what waits -/
  dirtyHeld : List (Nat × Nat)
  /-- events on entries that wait on a full dirty log, by context (05 R112) -/
  evHeld : List (Nat × DevEv)
  fbatchh : Addr
  ctxtab : BitVec 48
  trpause : Word
  keys : SMap KeySlot
  parts : Parts
  fab : Fabric
  trc : TraceSt
  mgmt : Mgmt
  busy : SMap Nat
  estall : SMap Nat
  deriving DecidableEq, Repr

/-- Why the machine stops with a fault: there is nothing that could go on. -/
inductive Fault where
  /-- Raised by `step` when a thermal trip has stopped every core and engine (25 R400) and no further step of the
  device is given: only a device reset goes on from here. Safe. -/
  | tripped
  /-- Raised by `step` when the active core was stopped after a failed write of an H batch (06 R137) and no further
  step of the device is given. Safe. -/
  | coreStopped
  deriving DecidableEq, Repr

/-- Why the machine has no meaning for an instruction. -/
inductive Refusal where
  /-- Raised by an arm of `exec` alone, for an instruction the model does not give a meaning to. Safe. -/
  | notModelled (mnemonic : String)
  deriving DecidableEq, Repr

/-- Nothing fetched (07 R147). -/
def FetchBuf.empty : FetchBuf := ⟨none, 0, [], []⟩
def AccSet.reset : AccSet := ⟨[], 0, false, false, []⟩
def WbSlot.reset : WbSlot := ⟨0, [], 0, 0⟩

/-- 13 R260, R267, R269, R270. -/
def ArrState.reset : ArrState :=
  ⟨.reset, .reset, .reset, .reset, .reset, .reset, 0, 0, 0, 0, 0xFFFFFFFF, 0xFFFFFFFF, 0xFFFFFFFF⟩

/-- 06 R125. -/
def Status.reset : Status := ⟨false, false, .h, false, false, false⟩

def Pending.none : Pending := ⟨[], false, [], false⟩

/-- Where boot firmware puts `tvec.h` in `State.reset`: the bottom of the core store (log 1). -/
def resetTvec : Addr := 0xFFFFFFFC0000#48

/-- A core as a reset leaves it (25 R393, R394): registers 0, k0 all ones, `status` and the CSRs at their reset values. -/
def Core.fresh (mode : CMode) (tv : Addr) : Core where
  mode := mode
  pc := tv
  g := Vector.replicate 64 0
  v := Vector.replicate 32 0
  k := Vector.replicate 8 0
  fflags := 0
  fenable := 0
  rep := ⟨0, 0, 0⟩
  sgen := 0
  ssbthr := 16
  ssbpol := 0
  rstack := []
  rsp := 0
  spilled := 0
  ctx := 0
  priv := .h
  status := .reset
  epc := 0
  cause := 0
  tval := 0
  tveck := 0
  scratchk := 0
  tvech := tv
  scratchh := 0
  epch := 0
  causeh := 0
  tvalh := 0
  afterRett := false
  skipBkpt := false
  cont := none
  task := none
  wait := .none
  asked := none
  halted := false
  retouch := false
  pend := .none
  bar := ⟨false, 0, 0, 0, 0⟩
  live := false
  arr := .reset
  ssb := none
  wins := []
  opening := none
  wbuf := []
  l1 := []
  fbuf := .empty
  holdCycles := 0
  stallCycles := 0
  stalls := []
  gave := none
  lastCtx := none

def Cluster.reset : Cluster := ⟨[], [], [], [], [], 0, 0, none, [], []⟩
/-- 10 R216: both reset to 8. -/
def XCsr.reset : XCsr := ⟨0, 8, 8, 0, 0⟩
def Ctx.reset : Ctx := ⟨none, 0, 0, 0, 0, 0, 0, 0, 0, none, false, false, false⟩
def Bqe.reset : Bqe := ⟨[], [], [], []⟩
def KeySlot.reset : KeySlot := ⟨0, false, 0, false, false⟩
/-- 21 R364: lanes 0xFF, width 8. -/
def Port.reset : Port := ⟨.run, [], [], 0, 0xFF, false, 8, 0, false, [], []⟩
def Monitor.reset : Monitor := ⟨0, 0, 0, 0, 0⟩
def CtxRec.none : CtxRec := ⟨false, 0, 0, 0, 0, 0, 0, 0, 0, 0, 0, 0, false⟩

/-- 21 R351, R352: `ftime` resets to a length of 8; the own node is reachable. -/
def Fabric.reset (own : BitVec 10) : Fabric :=
  ⟨own, [], 0x800, 0x800, 0, 0, [(own.toNat, 0x8000)], [(own.toNat, 0x8000)], [], [], [], [], [], [], [], [], [], [], 0, 0, true, [], []⟩

/-- The remap word that keeps slot n for core n (01 R10, log 2). -/
def remapWord : BitVec 32 := 0x76543210

def Mgmt.reset : Mgmt where
  phase := 0xFF
  code := 0
  stopped := false
  named := []
  remap := List.replicate 64 remapWord
  bkpts := Vector.replicate 16 0
  htrdesc := 0
  tvech := resetTvec
  rollback := 0
  image := 0
  raises := none
  identity := 0
  measure := 0
  quote := []
  service := 0
  restarts := 0
  lasers := true
  monitors := []
  watts := 0

/-- The device right after reset and bring-up (25 R393): core 0 of every cluster runs at H from `tvec.h`, every other
core is held; the active core is virtual core 0. -/
def State.reset : State where
  cur := 0
  core := Core.fresh .run resetTvec
  others := []
  mem := []
  empties := []
  ltag := []
  ecc := []
  agenda := []
  cycle := 0
  clock0 := ⟨0, false, false, 0⟩
  clock1 := ⟨0, false, false, 0⟩
  fresh := 0
  ahead := []
  clusters := []
  xcsrs := []
  ctxs := []
  tlb := []
  walks := []
  slices := []
  gangs := []
  grids := []
  nextId := 0
  waits := []
  drops := []
  bqes := []
  feq := []
  bards := []
  xsts := []
  dirtyHeld := []
  evHeld := []
  fbatchh := 0
  ctxtab := 0
  trpause := 0
  keys := []
  parts := ⟨Vector.replicate 8 0, []⟩
  fab := Fabric.reset 0
  trc := ⟨[], [], [], [], [], []⟩
  mgmt := Mgmt.reset
  busy := []
  estall := []

end Sys2Proof.Machine
end

