-- ==== Sys2Proof/Machine/Mem.lean ====
section
/-!
DEFINITION. The bytes of the device: memory as a sorted list of cells without zero entries (an unlisted byte reads
0, log 3), its flat addresses, the full/empty bits, and what the write of a byte at its home does to L1 lines and
fetch buffers that still hold the old one (05 R100, 07 R147).
-/
namespace Sys2Proof.Machine

/-- What an unlisted byte reads as (log 3). -/
def unlisted : Byte := 0

/-- The byte at `a`. -/
def memGet : List Host.Cell → Nat → Byte
  | [], _ => unlisted
  | (k, b) :: r, a => if a = k then b else if a < k then unlisted else memGet r a

/-- The byte at `a` becomes `b`. -/
def memPut : List Host.Cell → Nat → Byte → List Host.Cell
  | [], a, b => if b = unlisted then [] else [(a, b)]
  | (k, c) :: r, a, b =>
    if a < k then (if b = unlisted then (k, c) :: r else (a, b) :: (k, c) :: r)
    else if a = k then (if b = unlisted then r else (a, b) :: r)
    else (k, c) :: memPut r a b

/-- The canonical form: keys strictly rising from `lo`, no byte that an unlisted address reads as. -/
def Memory.wfFrom : Nat → List Host.Cell → Bool
  | _, [] => true
  | lo, (k, b) :: r => decide (lo ≤ k) && !(b == unlisted) && Memory.wfFrom (k + 1) r

def Memory.wf (m : List Host.Cell) : Bool := Memory.wfFrom 0 m

def memRead (m : List Host.Cell) (a : Nat) : Nat → List Byte
  | 0 => []
  | n + 1 => memGet m a :: memRead m (a + 1) n

def memWrite (m : List Host.Cell) (a : Nat) : List Byte → List Host.Cell
  | [] => m
  | b :: r => memWrite (memPut m a b) (a + 1) r

/-- Flat addresses: device memory below 2^39 (05 R101), then the core stores, the exchange banks and the
scratchpads (04 R84, R91). -/
def hbmSize : Nat := 2 ^ 39
def coreStoreAt (v off : Nat) : Nat := 2 ^ 40 + v * 2 ^ 18 + off
def bankAt (v : Nat) (bank : Bool) (off : Nat) : Nat := 2 ^ 41 + (v * 2 + b2n bank) * 2 ^ 15 + off
def padAt (cl off : Nat) : Nat := 2 ^ 42 + cl * 2 ^ 22 + off
def isHbm (a : Nat) : Bool := decide (a < hbmSize)

/-- Keep the part of `f` inside memory: `n` zero bytes. -/
def zeros (n : Nat) : List Byte := List.replicate n 0

/-- The value of a key slot, if it holds a key and is not retiring (05 R114, R115). -/
def keyVal (s : State) (slot : Nat) : Option Nat :=
  let k := s.keys.getD slot KeySlot.reset
  if k.valid && !k.busy then some k.key.toNat else none

/-- A byte of device memory read under key `kv`: memory holds plaintext, and a line that was written under another key gives its
ciphertext, decrypted under this one (05 R113, R116). -/
def plainByte (s : State) (kv a : Nat) : Byte :=
  let b := memGet s.mem a
  match s.ltag.find? (a / 128) with
  | none => b
  | some t =>
    if t = kv then b
    else BitVec.ofNat 8 ((recodeLine t kv (a / 128) ((memRead s.mem (a / 128 * 128) 128).map (fun x => x.toNat))).getD (a % 128) 0)

def plainBytes (s : State) (kv a : Nat) : Nat → List Byte
  | 0 => []
  | n + 1 => plainByte s kv a :: plainBytes s kv (a + 1) n

/-- Bytes at a flat address; `kv` is the key for device memory. -/
def homeRead (s : State) (kv : Nat) (a n : Nat) : List Byte :=
  if isHbm a then plainBytes s kv a n else memRead s.mem a n

/-- Replace bytes of a little-endian number from byte `off` on. -/
def patchNat (x off : Nat) : List Byte → Nat
  | [] => x
  | b :: r =>
    let lo := x % 2 ^ (8 * off)
    let hi := x / 2 ^ (8 * off + 8)
    patchNat (lo + b.toNat * 2 ^ (8 * off) + hi * 2 ^ (8 * off + 8)) (off + 1) r

/-- Lines that an access of `n` bytes at `a` touches, as (first byte, count). -/
def linePieces (a n : Nat) : List (Nat × Nat) :=
  if n = 0 then []
  else if a / 128 = (a + n - 1) / 128 then [(a, n)]
  else
    let h := 128 - a % 128
    (a, h) :: (chunks 128 (List.range (n - h))).map (fun c => (a + h + c.headD 0, c.length))

/-- The byte at a flat address, under key `kv` where it is device memory. -/
def byteAt (s : State) (kv a : Nat) : Byte := if isHbm a then plainByte s kv a else memGet s.mem a

/-- The bytes that `n` bytes at `a` hold now, kept in `m` where it has none for them yet and `p` asks for them. -/
def keepBytes (s : State) (kv a n : Nat) (p : Nat → Bool) (m : SMap Byte) : SMap Byte :=
  (List.range n).foldl (fun (m : SMap Byte) i =>
    if p (a + i) && (m.find? (a + i)).isNone then m.insert (a + i) (byteAt s kv (a + i)) else m) m

/-- What an L1 line becomes when `bytes` are about to be written at `a`, inside one line: the writer's own line takes
them, any other core's stays as it was (05 R100), in plaintext under the key it was filled under (05 R113). -/
def L1Line.note (s : State) (isWriter : Bool) (a : Nat) (bytes : List Byte) (e : L1Line) : L1Line :=
  if e.line = a / 128 then
    match e.old with
    | some x => if isWriter then { e with old := some (patchNat x (a % 128) bytes) } else e
    | none => if isWriter then e else { e with old := some (ofLe (plainBytes s e.kv (e.line * 128) 128)) }
  else e

/-- A fetch buffer keeps the bytes that are about to be written at `a`: those of its block where another agent writes
them, and all of them, under key `kv`, where its own core does (07 R147). -/
def FetchBuf.note (s : State) (isWriter : Bool) (kv a n : Nat) (f : FetchBuf) : FetchBuf :=
  if isWriter then { f with own := keepBytes s kv a n (fun _ => true) f.own }
  else
    match f.block with
    | none => f
    | some b => { f with old := keepBytes s f.kv a n (fun x => x / 64 == b) f.old }

/-- A core keeps the old bytes of what is about to be written at `a`: in L1, where it has loaded the line and is
not the writer, and for its fetches (05 R100, 07 R147). -/
def Core.noteOld (s : State) (isWriter : Bool) (kv a : Nat) (bytes : List Byte) (c : Core) : Core :=
  { c with
    l1 := if isHbm a then c.l1.map (L1Line.note s isWriter a bytes) else c.l1
    fbuf := c.fbuf.note s isWriter kv a bytes.length }

/-- Every core keeps what it may still read of the old bytes. -/
def noteAll (s : State) (writer : Option Nat) (kv a : Nat) (bytes : List Byte) : State :=
  { s with
    core := Core.noteOld s (writer == some s.cur) kv a bytes s.core
    others := s.others.map (fun p => (p.1, Core.noteOld s (writer == some p.1) kv a bytes p.2)) }

/-- Write bytes inside one line at their home, under key value `kv` where the line is device memory: a line last
written under another key is first read under this one, whole (05 R116). -/
def writeLine (s : State) (writer : Option Nat) (kv : Nat) (a : Nat) (bytes : List Byte) : State :=
  let s1 := noteAll s writer kv a bytes
  if isHbm a then
    let line := a / 128
    match s1.ltag.find? line with
    | some t =>
      if t = kv then { s1 with mem := memWrite s1.mem a bytes }
      else { s1 with mem := memWrite (memWrite s1.mem (line * 128) (plainBytes s1 kv (line * 128) 128)) a bytes,
                     ltag := s1.ltag.insert line kv }
    | none => { s1 with mem := memWrite s1.mem a bytes, ltag := s1.ltag.insert line kv }
  else { s1 with mem := memWrite s1.mem a bytes }

/-! The context table's entries (06 R138) -/

/-- Is the entry of a context valid? -/
def entryValid (s : State) (ctx : Nat) : Bool :=
  let a := s.ctxtab.toNat + 64 * ctx
  decide (a + 64 ≤ hbmSize) && (match keyVal s 0 with
    | some kv => bitOf (ofLe (plainBytes s kv a 8)) 63
    | none => false)

/-- An entry becomes valid: the context's event vector, its job seed and its trace counters start again (03 R74, 11 R247, 24 R378). -/
def freshCtx (s : State) (ctx : Nat) : State :=
  { s with
    ctxs := s.ctxs.insert ctx { s.ctxs.getD ctx Ctx.reset with events := 0, seed := 0 }
    trc := { s.trc with seqs := s.trc.seqs.filter (fun p => p.1 % 64 != ctx) } }

def freshCtxs (old new : State) : State :=
  (List.range 64).foldl (fun st i => if !entryValid old i && entryValid st i then freshCtx st i else st) new

/-- Write bytes at their home. -/
def homeWrite (s : State) (writer : Option Nat) (kv : Nat) (a : Nat) (bytes : List Byte) : State :=
  let s1 := (linePieces a bytes.length).foldl (fun st p => writeLine st writer kv p.1 ((bytes.drop (p.1 - a)).take p.2)) s
  if isHbm a && decide (a < s.ctxtab.toNat + 4096) && decide (s.ctxtab.toNat < a + bytes.length) then freshCtxs s s1 else s1

/-- Is the doubleword of `a` full (07 R156)? -/
def feFull (s : State) (a : Nat) : Bool := !(s.empties.contains (a / 8))

def insertNat : List Nat → Nat → List Nat
  | [], a => [a]
  | k :: r, a => if a < k then a :: k :: r else if a = k then k :: r else k :: insertNat r a

def setFull (s : State) (a : Nat) (full : Bool) : State :=
  { s with empties := if full then s.empties.filter (· != a / 8) else insertNat s.empties (a / 8) }

/-- A free choice among `n` outcomes (log 7). -/
def pick (s : State) (n : Nat) : Nat × State := (Config.choose s.fresh % n, { s with fresh := s.fresh + 1 })

/-- Choose among distinct outcomes: no choice is drawn where there is only one. -/
def pickOf {α : Type} (s : State) (d : α) : List α → α × State
  | [] => (d, s)
  | [x] => (x, s)
  | x :: y :: r => let p := pick s (r.length + 2); ((x :: y :: r).getD p.1 d, p.2)

end Sys2Proof.Machine
end

