-- ==== Sys2Proof/Machine/Ops.lean ====
section
/-!
DEFINITION. Named operations over cores and registers, the monad of a meaning, the lookahead windows' results, and
taking an exception and returning from one (06 R135, R136).
-/
namespace Sys2Proof.Machine

open Host (Outcome)

/-- A synchronous cause: code, sub, tval, whether level H takes it whatever the table's default, whether epc is the
following instruction, the pages of a cause-5 batch, and a carried poison code that the trap leaves (10 R224). -/
structure Trap where
  code : Nat
  sub : Nat := 0
  tval : Word := 0
  toH : Bool := false
  after : Bool := false
  pages : List PageFault := []
  carry : Option Nat := none
  deriving DecidableEq, Repr

/-- A meaning runs on the state and either answers or raises a cause; a cause discards every change. -/
abbrev M (α : Type) := StateT State (Except Trap) α

def raise {α : Type} (t : Trap) : M α := fun _ => .error t
def getS : M State := fun s => .ok (s, s)
def modS (f : State → State) : M Unit := fun s => .ok ((), f s)
def modC (f : Core → Core) : M Unit := fun s => .ok ((), { s with core := f s.core })
/-- Run a state function that answers. -/
def liftS {α : Type} (f : State → α × State) : M α := fun s => .ok (f s)
def guardT (ok : Bool) (t : Trap) : M Unit := fun s => if ok then .ok ((), s) else .error t

/-- What becomes of the program counter when an instruction's effect is done. -/
inductive Flow where
  | seq
  | jump (a : Addr)
  /-- the instruction waits at issue -/
  | hold
  /-- the effect has set the pc, or the core no longer runs this instruction -/
  | leave
  deriving DecidableEq, Repr

/-! Cores -/

/-- How many virtual cores the device has (01 R5): a larger number names no core, and nothing runs under it. -/
def coreCount : Nat := 512

/-- A core that the state does not list is as reset leaves it (25 R393 step 7). -/
def bootCore (s : State) (v : Nat) : Core := Core.fresh (if v % 8 = 0 ∧ v < coreCount then .run else .held) s.mgmt.tvech

def getCore (s : State) (v : Nat) : Core := if v = s.cur then s.core else (s.others.find? v).getD (bootCore s v)

def setCore (s : State) (v : Nat) (c : Core) : State :=
  if v = s.cur then { s with core := c } else { s with others := s.others.insert v c }

def updCore (s : State) (v : Nat) (f : Core → Core) : State := setCore s v (f (getCore s v))

/-- The fetches of core `v` may still read what it is about to write at `a` by an access that passes L1 (07 R147). -/
def noteOwn (s : State) (v kv a n : Nat) : State := updCore s v (fun c => { c with fbuf := c.fbuf.note s true kv a n })

/-- Make `v` the active core. -/
def switchTo (s : State) (v : Nat) : State :=
  if v = s.cur then s
  else { s with cur := v, core := (s.others.find? v).getD (bootCore s v), others := (s.others.erase v).insert s.cur s.core }

/-- Cores that the state lists, with their numbers. -/
def listedCores (s : State) : List (Nat × Core) := (s.others.insert s.cur s.core)

/-- Run `f` with `v` as the active core, and make the former one active again. -/
def asCore (s : State) (v : Nat) (f : State → State) : State := switchTo (f (switchTo s v)) s.cur

/-- A deferred error is posted to a core: cause 20, taken at H where it is raised at H (06 R132). -/
def postDeferred (s : State) (v : Nat) (sub : Nat) (tv : Word) (ctx : Nat) : State :=
  updCore s v (fun c => { c with pend := { c.pend with deferred := c.pend.deferred ++ [⟨20, sub, tv, ctx, if c.priv = .h then .h else .k⟩] } })

def clusterOf (v : Nat) : Nat := v / 8
def quadOf (v : Nat) : Nat := v / 64
def dieOf (v : Nat) : Nat := v / 256

def getCl (s : State) (c : Nat) : Cluster := s.clusters.getD c Cluster.reset
def updCl (s : State) (c : Nat) (f : Cluster → Cluster) : State := { s with clusters := s.clusters.insert c (f (getCl s c)) }
def getCtx (s : State) (c : Nat) : Ctx := s.ctxs.getD c Ctx.reset
def updCtx (s : State) (c : Nat) (f : Ctx → Ctx) : State := { s with ctxs := s.ctxs.insert c (f (getCtx s c)) }
/-- The per-context CSRs of a cluster (06 R124, holder X). -/
def xkey (ctx cl : Nat) : Nat := cl * 64 + ctx
def getX (s : State) (ctx cl : Nat) : XCsr := s.xcsrs.getD (xkey ctx cl) XCsr.reset
def updX (s : State) (ctx cl : Nat) (f : XCsr → XCsr) : State :=
  { s with xcsrs := s.xcsrs.insert (xkey ctx cl) (f (getX s ctx cl)) }

/-! Registers (06 R122) -/

def Core.getG (c : Core) (n : Nat) : Word := if n = 0 then 0 else c.g.getD n 0
def Core.setG (c : Core) (n : Nat) (x : Word) : Core := if n = 0 then c else { c with g := c.g.setIfInBounds n x }
def Core.getV (c : Core) (n : Nat) : VReg := c.v.getD n 0
def Core.setV (c : Core) (n : Nat) (x : VReg) : Core := { c with v := c.v.setIfInBounds n x }
def Core.getK (c : Core) (n : Nat) : Word := if n = 0 then BitVec.allOnes 64 else c.k.getD n 0
def Core.setK (c : Core) (n : Nat) (x : Word) : Core := if n = 0 then c else { c with k := c.k.setIfInBounds n x }

def rG (n : Nat) : M Word := fun s => .ok (s.core.getG n, s)
def wG (n : Nat) (x : Word) : M Unit := modC (fun c => c.setG n x)
def rV (n : Nat) : M VReg := fun s => .ok (s.core.getV n, s)
def wV (n : Nat) (x : VReg) : M Unit := modC (fun c => c.setV n x)
def rK (n : Nat) : M Word := fun s => .ok (s.core.getK n, s)
def wK (n : Nat) (x : Word) : M Unit := modC (fun c => c.setK n x)

/-! Lookahead windows (02 R36 to R39) -/

def Core.applyWin (c : Core) (w : Win) : Core :=
  w.vw.foldl (fun d p => d.setV p.1 p.2) (w.gw.foldl (fun d p => d.setG p.1 p.2) c)

/-- Outstanding long instructions complete; their windows stay open (07 R168). -/
def Core.landWins (c : Core) : Core :=
  { c.wins.foldl Core.applyWin c with wins := c.wins.map (fun w => { w with gw := [], vw := [] }) }

/-- Every window closes; each outstanding long instruction completes first (02 R39). -/
def Core.closeWins (c : Core) : Core := { c.wins.foldl Core.applyWin c with wins := [], opening := none }

/-! Exceptions -/

/-- The CSR value of a cause (06 R127). -/
def causeWord (intr : Bool) (sub code : Nat) : Word := BitVec.ofNat 64 (b2n intr * 2 ^ 63 + sub % 256 * 256 + code % 256)

/-- Entering a handler (06 R135). -/
def Core.enter (c : Core) (lvl : Lvl) (code sub : Nat) (tv : Word) (intr : Bool) (pcE : Addr) : Core :=
  match lvl with
  | .h =>
    { c with
      status := { c.status with hpp := c.priv, hpie := c.status.hie, hie := false }
      epch := pcE, causeh := causeWord intr sub code, tvalh := tv, priv := .h, pc := c.tvech }
  | _ =>
    { c with
      status := { c.status with kpp := (c.priv == .k), kpie := c.status.kie, kie := false }
      epc := pcE, cause := causeWord intr sub code, tval := tv, priv := .k, pc := c.tveck }

/-- The level that takes a synchronous cause (06 R132): H from H; from U and K as the table says. -/
def trapLevel (p : Lvl) (t : Trap) : Lvl :=
  match p with
  | .h => .h
  | .k => if t.toH || t.code == 2 || t.code == 23 then .h else .k
  | .u => if t.toH || t.code == 23 then .h else .k

/-- The registers that a return from a handler at K or H restores (06 R136). -/
def Core.rettRaw (c : Core) : Core :=
  match c.priv with
  | .u => c
  | .k =>
    { c with priv := if c.status.kpp then .k else .u, status := { c.status with kie := c.status.kpie, kpie := false },
             pc := c.epc, afterRett := true, skipBkpt := true }
  | .h =>
    { c with priv := c.status.hpp, status := { c.status with hie := c.status.hpie, hpie := false },
             pc := c.epch, afterRett := true, skipBkpt := true }

/-- Return from a handler at K or H (06 R136). A return to another address than that of the `gbar` withdraws an arrival
(07 R162). The return from a handler that an event of an idle core entered leaves the core idle. -/
def Core.rett (c : Core) : Core :=
  let d := c.rettRaw
  { d with
    bar := { d.bar with arrived := d.bar.arrived && d.pc == d.bar.pc }
    mode := if d.mode = .irq ∧ d.priv = .u then .idle else d.mode }

/-- A 48-bit address after `n` bytes. -/
def addrPlus (a : Addr) (n : Nat) : Addr := a + BitVec.ofNat 48 n

/-- The general-register and memory-free part of retiring one iteration: on to the next iteration, or past the
instruction; `rep` is reset when a resumed repeat ends (06 R129). -/
def Core.retire (c : Core) (size : Nat) : Core :=
  match c.cont with
  | some k =>
    if k.i < k.last then { c with cont := some { k with i := k.i + 1 } }
    else { c with cont := none, pc := addrPlus c.pc size, rep := if k.resumed then ⟨0, 0, 0⟩ else c.rep }
  | none => { c with pc := addrPlus c.pc size }

/-- The `rep` CSR that an interrupted repeat records (06 R129). -/
def Cont.csr (k : Cont) : RepCsr :=
  ⟨BitVec.ofNat 3 k.step, BitVec.ofNat 6 k.i, BitVec.ofNat 7 (k.last + 1 - k.i)⟩

/-- A scan is asked to stop (16 R308). -/
def Scan.ask (q : Scan) : Scan := { q with stop := maxN q.stop 1 }

/-- Leave the instruction at a boundary: windows close and a repeat under way is recorded. -/
def Core.suspend (c : Core) : Core :=
  let d := c.closeWins
  match d.cont with
  | some k => { d with cont := none, rep := k.csr }
  | none => d

end Sys2Proof.Machine
end

