-- ==== Sys2Proof/Machine/Mmu.lean ====
section
/-!
DEFINITION. From a virtual address to a place (04 R84, R85; 05 R101 to R119): windows, tensor heap, two-stage
paging, TLBs, keys, gates, the dirty log; and reads and writes of places as a core, an engine or the device makes them.
-/
namespace Sys2Proof.Machine

/-- Who accesses: a core number (windows, quadrant), a context and a level. -/
structure Agent where
  v : Nat
  ctx : Nat
  lvl : Lvl
  deriving DecidableEq, Repr

/-- Where an access goes. -/
inductive Place where
  /-- a tile of the agent's own scratchpad -/
  | pad
  /-- the agent's own core store or live exchange bank -/
  | store
  /-- device memory -/
  | hbm
  /-- a page pinned in a core store -/
  | pinned
  /-- another node -/
  | remote
  deriving DecidableEq, Repr

/-- A translated address: flat address (or fabric address), kind, and attributes. -/
structure Loc where
  at_ : Nat
  place : Place
  /-- allocates in L1, and is ordered as cached memory (07 R146) -/
  cached : Bool := false
  /-- hits a line that L1 holds -/
  hits : Bool := false
  sync : Bool := false
  slot : Nat := 0
  kv : Nat := 0
  node : Nat := 0
  /-- stage-2 leaf address (0: none), guest-physical address, size code -/
  s2leaf : Nat := 0
  gpa : Nat := 0
  s2size : Nat := 0
  heap : Bool := false
  /-- the ways of the home slice that a fill may take, and whether its line is pinned there (05 R107, R119) -/
  ways : Nat := 0
  pin : Bool := false
  deriving DecidableEq, Repr

/-! Windows -/

def winBase : Nat := 0xFFFFFFC00000
def storeBase : Nat := 0xFFFFFFFC0000
def bankBase : Nat := 0xFFFFFFFF8000
def isWin (va : Nat) : Bool := decide (winBase ≤ va)

/-- Which window holds `va`: 0 scratchpad, 1 core store, 2 exchange bank. -/
def winOf (va : Nat) : Nat := if va < storeBase then 0 else if va < bankBase then 1 else 2

/-- Does an access of `n` bytes at `va` stay inside its window (04 R85)? -/
def winFits (va n : Nat) : Bool :=
  !isWin va || n == 0 || (decide (va + n ≤ 2 ^ 48) && winOf va == winOf (va + n - 1))

def winLoc (s : State) (v va : Nat) : Loc :=
  if va < storeBase then { at_ := padAt (clusterOf v) (va - winBase), place := .pad }
  else if va < bankBase then { at_ := coreStoreAt v (va - storeBase), place := .store }
  else { at_ := bankAt v (getCore s v).live (va - bankBase), place := .store }

def tileOf (va : Nat) : Nat := (va - winBase) / 4096
def ownerOf (s : State) (cl t : Nat) : Nat := (getCl s cl).owners.getD t 0xFF
def setOwner (s : State) (cl t o : Nat) : State :=
  updCl s cl (fun c => { c with owners := if o = 0xFF then c.owners.erase t else c.owners.insert t o })

def gangOf (s : State) (gid : Nat) : Option Gang := s.gangs.find? (fun g => g.gid == gid)

/-- The anchor of a gang (04 R87): its lowest-numbered rank that has not ended. -/
def Gang.anchor (g : Gang) : Option Member := g.members.find? (fun m => !m.ended)

/-- The core of the anchor of the gang that core `v` runs a member of. -/
def anchorCore (s : State) (v : Nat) : Option Nat :=
  match (getCore s v).task with
  | none => none
  | some r => (gangOf s r.gid).bind (fun g => g.anchor.bind (fun m => m.core))

/-- 04 R89: core `v` may access a tile whose owner is `o`. -/
def ownerOk (s : State) (v o : Nat) : Bool :=
  o == v % 8 || (decide (0x10 ≤ o) && decide (o < 0x18) && anchorCore s v == some (v / 8 * 8 + (o - 0x10)))

/-! Gates (05 R117, R118; 01 R7) -/

def quadLinks : List (Nat × Nat) :=
  [(0, 1), (1, 2), (2, 3), (0, 3), (4, 5), (5, 6), (6, 7), (4, 7), (0, 4), (2, 6)]

/-- Quadrants that traffic from those in `reached` gets to over one more unlocked link. -/
def spread (s : State) (reached : List Nat) : List Nat :=
  quadLinks.foldl (fun r p =>
    if s.parts.locked.contains (p.1 * 8 + p.2) then r
    else if r.contains p.1 && !r.contains p.2 then p.2 :: r
    else if r.contains p.2 && !r.contains p.1 then p.1 :: r else r) reached

/-- `n` links further. -/
def spreads (s : State) : Nat → List Nat → List Nat
  | 0, l => l
  | n + 1, l => spreads s n (spread s l)

/-- The quadrants that traffic from `q` reaches: no path needs more than seven links. -/
def reachQuads (s : State) (q : Nat) : List Nat := if s.parts.locked = [] then List.range 8 else spreads s 7 [q]

/-- Is quadrant `b` on this side of every locked gate, seen from `a`? -/
def gateOpen (s : State) (a b : Nat) : Bool := (reachQuads s a).contains b

/-- Is the synchronisation engine of a stack's die on this side? It is a station of every quadrant of its die. -/
def syeOpen (s : State) (a stack : Nat) : Bool := (reachQuads s a).any (fun q => q / 4 == stack / 4)

/-- 05 R101. -/
def stackOf (pa : Nat) : Nat := pa / 2 ^ 36 % 8

def samePart (s : State) (a b : Nat) : Bool := s.parts.part.getD a 0 == s.parts.part.getD b 0

/-! Reachability (21 R352) -/

def nodeReach (s : State) (n : Nat) : Bool :=
  ((s.fab.reach.getD n 0).getLsbD 15) && (s.fab.farm == 0 || (s.fab.reachArmed.getD n 0).getLsbD 15)

/-! Context records (05 R104, 06 R138) -/

/-- A physical read under a slot: none where the slot holds no key or the address is no device memory. -/
def physRead (s : State) (slot a n : Nat) : Option Nat :=
  if a + n ≤ hbmSize then (keyVal s slot).map (fun kv => ofLe (plainBytes s kv a n)) else none

/-- Does the record's content break R104? The argument is the eight doublewords. A heap that ends at 0xFFFF_FFC0_0000
exactly counts as one that reaches it (DESIGN CHOICE, log 90). -/
def recBad (d : Nat → Nat) : Bool :=
  let root2 := fld (d 2) 47 12 * 4096
  let root1 := fld (d 0) 47 12 * 4096
  let hb := fld (d 3) 47 21 * 2 ^ 21
  let hl := fld (d 4) 47 21 * 2 ^ 21
  fld (d 0) 63 48 != 0 || fld (d 0) 11 0 != 0 || fld (d 1) 63 16 != 0 || fld (d 2) 63 48 != 0 || fld (d 2) 11 0 != 0 ||
  fld (d 3) 63 48 != 0 || fld (d 3) 20 0 != 0 || fld (d 4) 63 48 != 0 || fld (d 4) 20 0 != 0 || fld (d 5) 20 0 != 0 ||
  fld (d 6) 63 22 != 0 || d 7 != 0 || decide (hbmSize ≤ root2) || (root2 == 0 && decide (hbmSize ≤ root1)) ||
  decide (2 ^ 48 < hb + hl) || (hl != 0 && decide (winBase ≤ hb + hl))

/-- The record that memory holds now for a context: an entry that cannot be read or is not valid gives none. Bits of an entry
that 06 R138 has zero are not looked at (DESIGN CHOICE, log 98). -/
def readRec (s : State) (ctx : Nat) : CtxRec :=
  match physRead s 0 (s.ctxtab.toNat + 64 * ctx) 64 with
  | none => CtxRec.none
  | some e =>
    let e0 := fld e 63 0
    let e1 := fld e 127 64
    let e2 := fld e 191 128
    if bitOf e0 63 then
      match physRead s 0 (fld e0 47 6 * 64) 64 with
      | none => { CtxRec.none with valid := true, bad := true, vm := fld e1 5 0, irqcore := fld e1 24 16, cblk := fld e2 47 6 * 64 }
      | some x =>
        let d := fun i => fld x (64 * i + 63) (64 * i)
        ⟨true, fld (d 0) 47 12 * 4096, fld (d 1) 15 0, fld (d 2) 47 12 * 4096, fld (d 3) 47 21 * 2 ^ 21, fld (d 4) 47 21 * 2 ^ 21,
          fld (d 5) 63 21 * 2 ^ 21, fld (d 6) 21 16, fld (d 6) 15 0, fld e1 5 0, fld e1 24 16, fld e2 47 6 * 64, recBad d⟩
    else CtxRec.none

/-- The record an access uses: the loaded one, or, where memory now holds another, either (05 R104). -/
def useRec (s : State) (ctx : Nat) : CtxRec × State :=
  let cur := readRec s ctx
  match (getCtx s ctx).rec? with
  | none => (cur, updCtx s ctx (fun c => { c with rec? := some cur }))
  | some old => if old = cur then (old, s) else pickOf s old [old, cur]

/-! Walks (05 R105 to R108) -/

/-- Why a walk fails. -/
inductive WErr where
  | page (p : PageFault)
  | prot (toH : Bool)
  deriving DecidableEq, Repr

def vaIdx (lvl va : Nat) : Nat :=
  match lvl with
  | 0 => fld va 47 39
  | 1 => fld va 38 30
  | 2 => fld va 29 21
  | _ => fld va 20 16

def pageBits : Nat → Nat
  | 1 => 30
  | 2 => 21
  | _ => 16

/-- A well-formed non-leaf entry. -/
def nonLeafOk (e : Nat) : Bool := fld e 11 10 == 0 && fld e 8 1 == 0 && fld e 63 48 == 0

/-- A well-formed leaf at level `l`, in stage 1 or 2 (05 R106, R108). -/
def leafOk (stage2 : Bool) (l e : Nat) : Bool :=
  let home := fld e 6 5
  let remote := bitOf e 8
  let sync := bitOf e 7
  l != 0 && fld e 15 11 == 0 && (!bitOf e 2 || bitOf e 1) &&
  (l == 3 || fld e (pageBits l - 1) 16 == 0) &&
  (if stage2 then !remote && home == 0 && !sync && !bitOf e 4 && fld e 63 54 == 0
   else !bitOf e 10 && fld e 53 48 == 0 &&
     (remote || (if home = 2 then !bitOf e 63 else fld e 63 54 == 0)) &&
     (!(sync || remote) || home == 1) && (home != 2 || (l == 3 && fld e 17 16 != 3)))

/-- Stage-2 result: physical address, key slot, R W X, leaf address, size code. -/
structure S2 where
  pa : Nat
  key : Nat
  r : Bool
  w : Bool
  x : Bool
  leaf : Nat
  size : Nat
  deriving DecidableEq, Repr

/-! A walk may use, at each level, the entry that memory holds or one that a walk cache or a TLB still holds (05 R109): its
outcomes, each with the well-formed entries that it used; the one by memory alone comes first. -/

abbrev Walked (α : Type) := List (List WalkEnt × Except WErr α)

/-- Bits of the address below those that the entries of a level are found by. -/
def lvlBits (l : Nat) : Nat := if l = 0 then 39 else pageBits l

/-- Does a held entry belong to the walk of this address at this level? -/
def WalkEnt.covers (w : WalkEnt) (s2 : Bool) (own l a : Nat) : Bool :=
  w.s2 == s2 && (if s2 then w.vm else w.ctx) == own && w.lvl == l && w.pre == a / 2 ^ lvlBits l

/-- The entries of a level that a walk may use: that of memory, then held ones of another value. -/
def heldToo (s : State) (s2 : Bool) (own l a : Nat) (now : Walked WalkEnt) : Walked WalkEnt :=
  let same := fun (w : WalkEnt) => now.any (fun p => match p.2 with | .ok x => x.ent == w.ent | .error _ => false)
  now ++ (s.walks.filter (fun w => w.covers s2 own l a && !same w)).map (fun w => ([], .ok w))

def Walked.then {α β : Type} (l : Walked α) (f : α → Walked β) : Walked β :=
  l.flatMap (fun p => match p.2 with
    | .error e => [(p.1, .error e)]
    | .ok x => (f x).map (fun q => (p.1 ++ q.1, q.2)))

/-- What an entry of the walk leads to: a leaf, the next table, or the fault that `bad` builds; `far` says whether a table
address beyond device memory makes the entry malformed. -/
def useEntry {α : Type} (s2 far : Bool) (w : WalkEnt) (bad : Bool → WErr) (leaf : α) (next : Nat → Walked α) : Walked α :=
  let e := w.ent
  if !bitOf e 0 then [([], .error (bad false))]
  else if bitOf e 9 then (if leafOk s2 w.lvl e then [([w], .ok leaf)] else [([], .error (bad true))])
  else if w.lvl = 3 || !nonLeafOk e || (far && decide (hbmSize ≤ fld e 47 12 * 4096)) then [([], .error (bad true))]
  else (next (fld e 47 12 * 4096)).map (fun q => (w :: q.1, q.2))

/-- The stage-2 walk of a guest-physical address, from level `l` on, by fuel. -/
def walk2 (s : State) (vm gpa : Nat) : Nat → Nat → Nat → Walked S2
  | 0, _, _ => [([], .error (.prot true))]
  | f + 1, l, table =>
    let ea := table + 8 * vaIdx l gpa
    let now : Walked WalkEnt := match physRead s 0 ea 8 with
      | none => [([], .error (.prot true))]
      | some e => [([], .ok ⟨true, vm, 0, l, gpa / 2 ^ lvlBits l, ea, e⟩)]
    (heldToo s true vm l gpa now).then (fun w =>
      useEntry true true w (fun b => .page ⟨gpa / 65536, l, 1, 0, b⟩)
        ⟨fld w.ent 47 16 * 65536 + gpa % 2 ^ pageBits l, fld w.ent 53 48, bitOf w.ent 1, bitOf w.ent 2, bitOf w.ent 3, w.at_, 3 - l⟩
        (walk2 s vm gpa f (l + 1)))

/-- A guest-physical address to a place in device memory; without stage 2 it is physical, under the heap key (05 R113). -/
def gpaWalk (s : State) (r : CtxRec) (gpa : Nat) : Walked S2 :=
  if r.root2 = 0 then [([], .ok ⟨gpa, r.hkey, true, true, true, 0, 0⟩)] else walk2 s r.vm gpa 4 0 r.root2

/-- The first outcome: the walk by memory alone. -/
def Walked.now {α : Type} (l : Walked α) : Except WErr α := match l with | p :: _ => p.2 | [] => .error (.prot true)

def gpaTo (s : State) (r : CtxRec) (gpa : Nat) : Except WErr S2 := (gpaWalk s r gpa).now

/-- The stage-1 walk, reading its entries through stage 2. A table that its stage-2 leaf lets nobody read fails as a stage-2
denial (DESIGN CHOICE, log 98). -/
def walk1 (s : State) (ctx : Nat) (r : CtxRec) (va : Nat) : Nat → Nat → Nat → Walked (Nat × Nat)
  | 0, _, _ => [([], .error (.prot false))]
  | f + 1, l, table =>
    let now := (gpaWalk s r (table + 8 * vaIdx l va)).then (fun t =>
      if hbmSize ≤ t.pa || !t.r then [([], .error (.prot true))]
      else
        match physRead s t.key t.pa 8 with
        | none => [([], .error (.prot true))]
        | some e => [([], .ok ⟨false, r.vm, ctx, l, va / 2 ^ lvlBits l, t.pa, e⟩)])
    (heldToo s false ctx l va now).then (fun w =>
      useEntry false (r.root2 == 0) w (fun b => .page ⟨va / 65536, l, 0, 0, b⟩) (w.ent, l) (walk1 s ctx r va f (l + 1)))

/-- The translation of a page by the tables as they stand (05 R105 to R108). A home-10 page names a core store, which has
no guest-physical address: stage 2 does not apply to it (DESIGN CHOICE, log 90). -/
def walkPage (s : State) (ctx : Nat) (r : CtxRec) (vpage : Nat) : Walked Xl :=
  let va := vpage * 65536
  (walk1 s ctx r va 4 0 r.root1).then (fun p =>
    let e := p.1
    let l := p.2
    let out := fld e 47 16 * 65536 + va % 2 ^ pageBits l
    let mk := fun (pa key : Nat) (a b c : Bool) (gpa sz leaf deny : Nat) =>
      Xl.mk pa (fld e 63 54) (bitOf e 8) (bitOf e 7) (fld e 6 5) key (bitOf e 4) (bitOf e 1 && a) (bitOf e 2 && b) (bitOf e 3 && c)
        false gpa sz leaf deny (pageBits l)
    if bitOf e 8 || fld e 6 5 = 2 then [([], .ok (mk out r.hkey true true true 0 0 0 0))]
    else (gpaWalk s r out).then (fun t =>
      [([], .ok (mk t.pa t.key t.r t.w t.x out t.size t.leaf (b2n (!t.r) + 2 * b2n (!t.w) + 4 * b2n (!t.x))))]))

def sameOutcome {α : Type} [DecidableEq α] (a b : Except WErr α) : Bool :=
  match a, b with
  | .ok x, .ok y => x == y
  | .error x, .error y => x == y
  | _, _ => false

/-- Outcomes without those that came before. -/
def distinct {α : Type} [DecidableEq α] (l : Walked α) : Walked α :=
  l.foldl (fun r p => if r.any (fun q => sameOutcome q.2 p.2) then r else r ++ [p]) []

/-- A page's translation by an access of a context: by a walk, or by what a TLB holds of an earlier one (05 R109); it and the
entries that it used are held from then on. R109 does not list a raised permission among the changes that need a `tlbi`; the
model treats it as the listed ones (DESIGN CHOICE, log 90). -/
def pageOf (s : State) (ctx : Nat) (r : CtxRec) (vpage : Nat) : Except WErr Xl × State :=
  let old := (s.tlb.filter (fun t => t.ctx == ctx && t.vpage == vpage)).map (fun t => t.xl)
  let l := distinct (walkPage s ctx r vpage ++ old.map (fun x => ([], .ok x)))
  let p := pickOf s ([], .error (.prot true)) l
  let s1 := { p.2 with walks := p.1.1.foldl (fun w e => if w.contains e then w else e :: w) p.2.walks }
  match p.1.2 with
  | .error e => (.error e, s1)
  | .ok x => (.ok x, if old.contains x then s1 else { s1 with tlb := ⟨ctx, r.vm, vpage, x⟩ :: s1.tlb })

/-- Access kinds (06 R137): 1 read, 2 write, 4 fetch; 3 both. -/
abbrev Acc := Nat

def accTrap (va : Nat) (toH : Bool) (code : Nat) : Trap := { code := code, tval := BitVec.ofNat 64 va, toH := toH }

/-- The trap of a failed walk. -/
def walkTrap (va acc : Nat) : WErr → Trap
  | .page p => { code := 5, tval := BitVec.ofNat 64 va, toH := p.stage == 1, pages := [{ p with acc := acc }] }
  | .prot h => accTrap va h 6

/-- The allocation mask of a context's accesses (05 R119). -/
def CtxRec.ways (r : CtxRec) : Nat := r.cwm &&& r.vwm

/-- Checks of a translated page, in the order 17, 18, 6 (06 R133), and its place. With an empty allocation mask a page is
as one of home 01, but for hits, and but for pinned lines, which ignore the mask (05 R119). L1 holds lines of home 11 as
of home 00 (DESIGN CHOICE, log 90). Where both stages deny the access level H takes it, and at K is taken a data page beyond
device memory (DESIGN CHOICE, log 98). -/
def placeOf (s : State) (a : Agent) (va : Nat) (acc : Acc) (x : Xl) (ways : Nat := 65535) : Except Trap Loc :=
  let off := va % 65536
  let q := quadOf a.v
  let perm := (acc % 2 == 0 || x.r) && (acc / 2 % 2 == 0 || x.w) && (acc / 4 % 2 == 0 || x.x) && (a.lvl != .u || x.u)
  let deny := decide (x.s2deny &&& acc ≠ 0) && (a.lvl != .u || x.u)
  if x.remote then
    if !nodeReach s x.node then .error (accTrap va false 18)
    else if !perm then .error (accTrap va false 6)
    else .ok { at_ := x.pa + off, place := .remote, sync := x.sync, node := x.node }
  else if x.home = 2 then
    if !gateOpen s q (quadOf (x.node % 512)) then .error (accTrap va false 17)
    else if !perm then .error (accTrap va false 6)
    else .ok { at_ := coreStoreAt (x.node % 512) (x.pa / 65536 % 4 * 65536 + off), place := .pinned }
  else if x.pa < hbmSize && !(gateOpen s q (stackOf x.pa) && (!x.sync || syeOpen s q (stackOf x.pa))) then
    .error (accTrap va false 17)
  else if !perm then .error (accTrap va deny 6)
  else if hbmSize ≤ x.pa then .error (accTrap va false 6)
  else
    match keyVal s x.key with
    | none => .error (accTrap va true 6)
    | some kv =>
      .ok { at_ := x.pa + off, place := .hbm, cached := !x.sync && x.home != 1 && (ways != 0 || x.home == 3)
            hits := !x.sync && x.home != 1, sync := x.sync, slot := x.key, kv := kv,
            s2leaf := x.s2leaf, gpa := if x.s2leaf = 0 then 0 else x.gpa + off, s2size := x.s2size, heap := x.heap
            ways := ways, pin := x.home == 3 }

/-- The heap as a translation (05 R103). -/
def heapXl (r : CtxRec) (va : Nat) : Xl :=
  ⟨(va / 65536 * 65536 + r.hoff) % 2 ^ 48, 0, false, false, 0, r.hkey, true, true, true, false, true, 0, 0, 0, 0, 16⟩

/-- Is `va` in the tensor heap (05 R102)? -/
def inHeap (r : CtxRec) (va : Nat) : Bool := decide (r.hbase ≤ va) && decide (va < r.hbase + r.hlimit)

/-! Slices (05 R99, R107, R114, R119; log 101) -/

/-- Are two lines of one set of one slice? -/
def sameSet (a b : Nat) : Bool := a / 2 ^ 29 == b / 2 ^ 29 && Config.sliceSet a % 8192 == Config.sliceSet b % 8192

/-- A line enters its home slice, in a way that the mask allows and no pinned line holds; at most 4 lines of a set are pinned,
which ignore the mask. -/
def enterSlice (seed : Nat) (l : Loc) (ls : List SliceLine) : List SliceLine :=
  let line := l.at_ / 128
  let mates := ls.filter (fun e => sameSet e.line line)
  let pin := l.pin && decide ((mates.filter (fun e => e.pin)).length < 4)
  let ws := (List.range 16).filter (fun w => (pin || bitOf l.ways w) && !mates.any (fun e => e.way == w && e.pin))
  match ws with
  | [] => ls
  | w0 :: _ =>
    let w := (ws.find? (fun w => !mates.any (fun e => e.way == w))).getD (ws.getD (Config.sliceVictim line seed % ws.length) w0)
    ⟨line, w, l.slot, pin⟩ :: ls.filter (fun e => !(sameSet e.line line && e.way == w))

/-- An access to cached memory meets its home slice: a line that it holds under another slot is written back and leaves first
(05 R114). What the slice holds changes no value: memory here holds the bytes of both. -/
def meetSlice (l : Loc) (s : State) : State :=
  if l.place == .hbm && l.hits then
    { s with slices :=
        if s.slices.any (fun e => e.line == l.at_ / 128 && e.slot == l.slot) then s.slices
        else enterSlice s.fresh l (s.slices.filter (fun e => e.line != l.at_ / 128)) }
  else s

/-- A checked place, once the slice has been met. -/
def placed (r : Except Trap Loc) : M Loc :=
  match r with
  | .error t => raise t
  | .ok l => do
    modS (meetSlice l)
    pure l

/-- Paged translation alone (05 R105). -/
def pagedTo (a : Agent) (r : CtxRec) (va : Nat) (acc : Acc) : M Loc := do
  let p ← liftS (fun s => pageOf s a.ctx r (va / 65536))
  match p with
  | .error e => raise (walkTrap va acc e)
  | .ok x =>
    let s ← getS
    placed (placeOf s a va acc x r.ways)

/-- The place of a virtual address (05 R102). -/
def translate (a : Agent) (va : Nat) (acc : Acc) : M Loc := do
  let s ← getS
  if isWin va then pure (winLoc s a.v va)
  else
    let r ← liftS (fun s => useRec s a.ctx)
    if inHeap r va then
      placed (placeOf s a va acc (heapXl r va) r.ways)
    else pagedTo a r va acc

/-- 04 R89, at issue. -/
def checkTile (a : Agent) (va : Nat) (l : Loc) : M Unit := do
  let s ← getS
  guardT (l.place != .pad || ownerOk s a.v (ownerOf s (clusterOf a.v) (tileOf va))) (accTrap va false 8)

/-! Dirty log (05 R111, R112) -/

/-- What a write to a logged page does: nothing, an append (the new state), or a wait on a full ring. Where slot 0 gives no
key, or the ring does not lie in device memory, the write goes on unlogged (DESIGN CHOICE, log 91). -/
def dirtyLog (s : State) (ctx cl : Nat) (l : Loc) : Option State :=
  if l.s2leaf = 0 then some s
  else
    let base := fld (getX s ctx cl).dlog.toNat 47 12 * 4096
    match keyVal s 0 with
    | none => some s
    | some kv =>
      let leaf := ofLe (plainBytes s kv l.s2leaf 8)
      let cap := 2 ^ (8 + (getX s ctx cl).dlog.toNat % 16)
      if bitOf leaf 10 || base = 0 || decide (hbmSize < base + 64 + 8 * cap) then some s
      else
        let prod := ofLe (plainBytes s kv base 8)
        let cons := ofLe (plainBytes s kv (base + 8) 8)
        if (prod + 2 ^ 64 - cons) % 2 ^ 64 = cap then none
        else
          let pb := pageBits (3 - l.s2size)
          let page := l.gpa / 2 ^ pb * 2 ^ pb
          let e := ctx * 2 ^ 52 + page + l.s2size
          let s1 := homeWrite s none kv l.s2leaf (leBytes 8 (leaf + 1024))
          let s2 := homeWrite s1 none kv (base + 64 + 8 * (prod % cap)) (leBytes 8 e)
          some (homeWrite s2 none kv base (leBytes 8 ((prod + 1) % 2 ^ 64)))

/-- A core's write: a full ring leaves to level H with cause 23 (05 R112). -/
def logWrite (a : Agent) (l : Loc) : M Unit := fun s =>
  match dirtyLog s a.ctx (clusterOf a.v) l with
  | some s' => .ok ((), s')
  | none => .error { code := 23, tval := BitVec.ofNat 64 l.gpa, toH := true }

/-- The exit that a full dirty log makes for a write that no instruction of the core makes (05 R112). -/
def postExit (s : State) (v ctx : Nat) (gpa : Word) : State :=
  updCore s v (fun c => { c with pend := { c.pend with deferred := c.pend.deferred ++ [⟨23, 0, gpa, ctx, .h⟩] } })

/-- What the dirty log needs of a write by `a` at `l`, to log it when it is made. -/
def Loc.logAt (a : Agent) (l : Loc) : LogAt := ⟨a.ctx, clusterOf a.v, l.s2leaf, l.gpa, l.s2size⟩

/-- The dirty log of a write that waited (05 R111): none where the ring is full. -/
def logLater (s : State) (g : LogAt) : Option State :=
  dirtyLog s g.ctx g.cl { at_ := 0, place := .hbm, s2leaf := g.leaf, gpa := g.gpa, s2size := g.size }

/-! Reads and writes of places by the active core -/

/-- Bytes with the write buffer's stores laid over them, oldest first. -/
def overlay (a : Nat) (bytes : List Byte) (wb : List WbEnt) : List Byte :=
  wb.foldl (fun bs e =>
    if e.pa + e.bytes.length ≤ a || a + bs.length ≤ e.pa then bs
    else (List.range bs.length).map (fun i =>
      if e.pa ≤ a + i ∧ a + i < e.pa + e.bytes.length then e.bytes.getD (a + i - e.pa) 0 else bs.getD i 0)) bytes

/-- Does a buffered store of core `v` reach its home through open gates (05 R118)? -/
def WbEnt.passes (s : State) (v : Nat) (e : WbEnt) : Bool :=
  match e.slot with
  | none => gateOpen s (quadOf v) (quadOf ((e.pa - coreStoreAt 0 0) / 2 ^ 18))
  | some _ => gateOpen s (quadOf v) (stackOf e.pa) && (!e.sync || syeOpen s (quadOf v) (stackOf e.pa))

/-- A store leaves the write buffer and is performed at its home (23 R373). What its own core reads of it has changed at
issue. A store that meets a locked gate on its way is dropped there, and one whose slot has come to hold no key is not
performed: its core gets cause 20 with sub 17 or 6 (05 R114, R118; 06 R132). -/
def perform (s : State) (v : Nat) (e : WbEnt) : State :=
  let c := getCore s v
  if !e.passes s v then postDeferred s v 17 (BitVec.ofNat 64 e.pc) c.ctx.toNat
  else
    match (match e.slot with | none => some 0 | some k => keyVal s k) with
    | none => postDeferred s v 6 (BitVec.ofNat 64 e.pc) c.ctx.toNat
    | some kv => updCore (homeWrite s (some v) kv e.pa e.bytes) v (fun d => { d with l1 := c.l1, fbuf := c.fbuf })

/-- Drain the write buffer of core `v` in program order (05 R100). -/
def drainCore (s : State) (v : Nat) : State :=
  let c := getCore s v
  if c.wbuf.isEmpty then s
  else c.wbuf.foldl (fun st e => perform st v e) (setCore s v { c with wbuf := [] })

/-- Does an access of `n` bytes at `a` meet this store's location? On a sync page every access to the doubleword does (19
R330). -/
def WbEnt.meets (a n : Nat) (e : WbEnt) : Bool :=
  if e.sync then decide (e.pa / 8 * 8 < a + n) && decide (a < ceilDiv (e.pa + e.bytes.length) 8 * 8)
  else decide (e.pa < a + n) && decide (a < e.pa + e.bytes.length)

/-- Split a write buffer into the stores that are performed, given which must be, and those that stay: a store to the same
location as a later one that is performed is performed before it. -/
def splitWb (p : WbEnt → Bool) : List WbEnt → List WbEnt × List WbEnt
  | [] => ([], [])
  | e :: r =>
    let q := splitWb p r
    if p e || q.1.any (fun f => e.meets f.pa f.bytes.length) then (e :: q.1, q.2) else (q.1, e :: q.2)

/-- Perform the stores of core `v` that `p` names, in program order. -/
def drainSome (s : State) (v : Nat) (p : WbEnt → Bool) : State :=
  let c := getCore s v
  if c.wbuf.any p then
    let q := splitWb p c.wbuf
    q.1.foldl (fun st e => perform st v e) (setCore s v { c with wbuf := q.2 })
  else s

/-- Perform the core's own stores to a location before it accesses that location at its home (23 R369). -/
def drainAt (s : State) (v a n : Nat) : State := drainSome s v (WbEnt.meets a n)

/-- Every core's write buffer drains. -/
def drainAll (s : State) : State := (listedCores s).foldl (fun st p => drainCore st p.1) s

/-! L1 (05 R99, R100, R113, R114) -/

/-- How many lines L1 holds: 64 KiB. -/
def l1Lines : Nat := 512

/-- The line of L1 that serves an access under this slot. -/
def Core.l1Line (c : Core) (line slot : Nat) : Option L1Line := c.l1.find? (fun e => e.line == line && e.slot == slot)

/-- A line leaves L1. -/
def Core.dropLine (c : Core) (line : Nat) : Core := { c with l1 := c.l1.filter (fun e => e.line != line) }

/-- The line of a location enters L1 as its home holds it, with the core's own buffered stores to it; a copy of the line
leaves first, as does, of a full L1, some line (log 92). -/
def fillL1 (l : Loc) : M Unit := do
  let line := l.at_ / 128
  modC (fun c => c.dropLine line)
  let s ← getS
  let full := decide (l1Lines ≤ s.core.l1.length)
  let n ← if full then liftS (fun s => pick s l1Lines) else pure l1Lines
  modS (fun s =>
    let old := if s.core.wbuf.any (WbEnt.meets (line * 128) 128) then
        some (ofLe (overlay (line * 128) (plainBytes s l.kv (line * 128) 128) s.core.wbuf)) else none
    { s with core := { s.core with l1 := ⟨line, l.slot, l.kv, old⟩ :: (s.core.l1.eraseIdx n).take (l1Lines - 1) } })

/-- A store passes L1: a line that it holds under the store's slot is updated, one held under another slot leaves. -/
def Core.storeL1 (s : State) (l : Loc) (bytes : List Byte) (c : Core) : Core :=
  { c with l1 := (c.l1.filter (fun e => e.line != l.at_ / 128 || e.slot == l.slot)).map (fun e =>
      if e.line = l.at_ / 128 then
        { e with old := some (patchNat (e.old.getD (ofLe (plainBytes s e.kv (e.line * 128) 128))) (l.at_ % 128) bytes) }
      else e) }

/-- Read at the home, after the core's own stores to the location, and keep the line in L1 where the access allocates. -/
def loadMiss (l : Loc) (n : Nat) : M (List Byte) := do
  modS (fun s => drainAt s s.cur l.at_ n)
  if l.cached then fillL1 l else pure ()
  let s ← getS
  pure (homeRead s l.kv l.at_ n)

/-- Load `n` bytes inside one line at a place that is not remote. A line that L1 holds serves the load, unless L1 has
evicted it meanwhile; what it holds may have been overwritten by another agent since (05 R100). A load that L1 does not
serve returns what the home holds (23 R373). -/
def loadAt (l : Loc) (n : Nat) : M (List Byte) := do
  let s ← getS
  match (if l.hits then s.core.l1Line (l.at_ / 128) l.slot else none) with
  | none => loadMiss l n
  | some e =>
    match e.old with
    | none => pure (homeRead s l.kv l.at_ n)
    | some x =>
      let line := l.at_ / 128 * 128
      let held := leBytes n (x / 2 ^ (8 * (l.at_ % 128)))
      if x = ofLe (overlay line (plainBytes s l.kv line 128) s.core.wbuf) then pure held
      else do
        let k ← liftS (fun s => pick s 2)
        if k = 0 then pure held
        else do
          modC (fun c => c.dropLine (l.at_ / 128))
          loadMiss l n

/-- How many stores the write buffer holds before the oldest is performed (log 13). -/
def wbufDepth : Nat := 16

/-- Store bytes inside one line at a place that is not remote: memory and pinned pages are written through the write
buffer, the core's own core store and the scratchpad at once. -/
def storeAt (l : Loc) (bytes : List Byte) : M Unit := do
  let s ← getS
  if l.place == .hbm || l.place == .pinned then do
    modC (fun c => { (c.storeL1 s l bytes) with
      fbuf := c.fbuf.note s true l.kv l.at_ bytes.length
      wbuf := c.wbuf ++ [⟨l.at_, bytes, if l.place == .hbm then some l.slot else none, c.pc.toNat, l.cached, l.sync⟩] })
    let s ← getS
    match s.core.wbuf with
    | e :: r => if wbufDepth < s.core.wbuf.length then do modC (fun c => { c with wbuf := r }); modS (fun s => perform s s.cur e) else pure ()
    | [] => pure ()
  else modS (fun s => homeWrite (drainAt s s.cur l.at_ bytes.length) (some s.cur) l.kv l.at_ bytes)

def invalL1 (c : Core) : Core := { c with l1 := [] }

/-- The whole L1 of core `v` is invalidated. -/
def invalCore (s : State) (v : Nat) : State := updCore s v invalL1

/-! Accesses of engines and of the device in a context -/

/-- A cause that an access of an engine meets, as a code (05 R114, 18 R325). -/
abbrev EM (α : Type) := State → Except Nat α × State

/-- Run a meaning's access for an engine: a cause is its code. -/
def asEngine {α : Type} (m : M α) : EM α := fun s =>
  match m s with
  | .ok (x, s') => (.ok x, s')
  | .error t => (.error t.code, s)

/-- Does an access meet an uncorrectable error (25 R399)? -/
def eccHit (s : State) (a n : Nat) : Bool := s.ecc.any (fun x => decide (a / 128 ≤ x) && decide (x ≤ (a + n - 1) / 128))

/-- Read `n` doublewords at `va` through the paged translation of a context, as the device does for its own tables (10 R194);
code 20 where they hold an uncorrectable error. A table that lies where the windows are is looked up in the page tables too, as
10 R194 and 06 R140 have it for these tables (04 R85 says it of no address; DESIGN CHOICE, log 98). -/
def tableRead (v ctx : Nat) (va : Nat) : Nat → EM Nat
  | 0 => fun s => (.ok 0, s)
  | n + 1 => fun s =>
    let one : M Nat := do
      let r ← liftS (fun s => useRec s ctx)
      let l ← pagedTo ⟨v, ctx, .k⟩ r (va % 2 ^ 48) 1
      let s ← getS
      if l.place == .remote then raise (accTrap va false 6)
      else if eccHit s l.at_ 8 then raise (accTrap va false 20)
      else pure (ofLe (homeRead s l.kv l.at_ 8))
    match asEngine one s with
    | (.error c, s') => (.error c, s')
    | (.ok x, s') =>
      match tableRead v ctx (va + 8) n s' with
      | (.error c, s'') => (.error c, s'')
      | (.ok y, s'') => (.ok (x + 2 ^ 64 * y), s'')

/-- Write one doubleword as `tableRead` reads it; `w` is the core of whose cluster the dirty log applies (05 R112). -/
def tableWrite (v w ctx va : Nat) (x : Nat) : EM Unit :=
  asEngine (do
    let r ← liftS (fun s => useRec s ctx)
    let l ← pagedTo ⟨v, ctx, .k⟩ r (va % 2 ^ 48) 2
    if l.place == .remote then raise (accTrap va false 6)
    else do
      logWrite ⟨w, ctx, .k⟩ l
      modS (fun s => homeWrite s none l.kv l.at_ (leBytes 8 x)))

/-- Write doublewords from `va` on; the first cause stops it, with the address that met it. -/
def tableWrites (v w ctx va : Nat) : List Nat → State → (Option (Nat × Nat)) × State
  | [], s => (none, s)
  | x :: r, s =>
    match tableWrite v w ctx va x s with
    | (.error c, s') => (some (c, va), s')
    | (.ok _, s') => tableWrites v w ctx (va + 8) r s'

end Sys2Proof.Machine
end

