-- ==== Sys2Proof/Machine/Trace.lean ====
section
/-!
DEFINITION. Trace time, trace records and the trace writer (24 R375 to R388), and how an event is posted to a core (06 R134).
-/
namespace Sys2Proof.Machine

/-- The trace time of a die (24 R375). -/
def traceTime (s : State) (die : Nat) : Nat :=
  let c := if die = 0 then s.clock0 else s.clock1
  if c.locked then c.base else s.cycle.toNat * 160 / 19 + c.base

/-- The die of a trace source (24 R377). -/
def dieOfSrc (src : Nat) : Nat :=
  if src < 512 then src / 256 else if src < 576 then (src - 512) / 32 else if src < 640 then (src - 576) / 32
  else if src < 648 then (src - 640) / 4 else src % 2

/-- An interrupt is posted to a core (06 R134). -/
def postIntr (s : State) (v : Nat) (i : Intr) : State :=
  updCore s v (fun c => { c with pend := { c.pend with intrs := c.pend.intrs ++ [i] } })

/-- The core that takes a context's interrupts (06 R138). -/
def irqCore (s : State) (ctx : Nat) : Nat := (readRec s ctx).irqcore % 512

/-- The synchronisation engine of the die of a stack, as a trace source (24 R377). -/
def syeSrc (pa : Nat) : Nat := 648 + stackOf pa / 4

/-! Buffers (24 R382 to R384) -/

/-- The hypervisor's buffer among the buffers of a cluster's contexts. -/
def hbuf : Nat := 4096

/-- The word that names a buffer: `trctl`, or `htrdesc` (24 R382, R384). -/
def bufCtl (s : State) (k : Nat) : Nat := if k = hbuf then s.mgmt.htrdesc.toNat else (getX s (k % 64) (k / 64)).trctl.toNat

/-- The number of the buffer that `trctl` or `htrdesc` names now. -/
def bufNow (s : State) (k : Nat) : Nat := k + 8192 * fld (bufCtl s k) 47 6

/-- Of a buffer's number: its descriptor, its cluster, its context, and whether it is the hypervisor's. -/
def bufDesc (b : Nat) : Nat := b / 8192 * 64
def bufCl (b : Nat) : Nat := b / 64 % 64
def bufCtx (b : Nat) : Nat := b % 64
def isHbuf (b : Nat) : Bool := b % 8192 == hbuf
def bufAgent (b : Nat) : Agent := ⟨bufCl b * 8, bufCtx b, .k⟩
/-- The least level that may read the buffer, and its trace writer. -/
def bufLvl (b : Nat) : Nat := if isHbuf b then 2 else 1
def bufWriter (b : Nat) : Nat := 652 + bufCl b / 32 % 2

/-- Read and write the memory of a buffer: physical under slot 0 for the hypervisor's, else in the context (24 R383, R384). -/
def bufRead (s : State) (b va : Nat) : Option Nat × State :=
  if isHbuf b then (physRead s 0 va 8, s)
  else
    match asEngine (do
      let l ← translate (bufAgent b) va 1
      let st ← getS
      if l.place == .hbm then pure (ofLe (homeRead st l.kv l.at_ 8)) else raise (accTrap va false 6)) s with
    | (.ok x, s') => (some x, s')
    | (.error _, s') => (none, s')

def bufWrite (s : State) (b va : Nat) (bytes : List Byte) : Option State :=
  if isHbuf b then
    match keyVal s 0 with
    | some kv => if va + bytes.length ≤ hbmSize then some (homeWrite s none kv va bytes) else none
    | none => none
  else
    match asEngine (do
      let l ← translate (bufAgent b) va 2
      if l.place == .hbm then do
        logWrite (bufAgent b) l
        modS (fun st => homeWrite st none l.kv l.at_ bytes)
      else raise (accTrap va false 6)) s with
    | (.ok _, s') => some s'
    | (.error _, _) => none

/-- Six doublewords of a descriptor. -/
def readDesc (s : State) (b va : Nat) : Nat → Option (List Nat) × State
  | 0 => (some [], s)
  | n + 1 =>
    match bufRead s b va with
    | (none, s') => (none, s')
    | (some x, s') =>
      match readDesc s' b (va + 8) n with
      | (none, s'') => (none, s'')
      | (some l, s'') => (some (x :: l), s'')

def TraceBuf.at (t : TraceBuf) (i : Nat) : Nat := t.dw.getD i 0
def TraceBuf.set (t : TraceBuf) (i x : Nat) : TraceBuf := { t with dw := t.dw.set i (x % 2 ^ 64) }
def TraceBuf.on (t : TraceBuf) : Bool := bitOf (t.at 1) 63
def TraceBuf.lossless (t : TraceBuf) : Bool := bitOf (t.at 1) 62 && !t.lossy
def TraceBuf.stopped (t : TraceBuf) : Bool := bitOf (t.at 1) 61
def TraceBuf.ring (t : TraceBuf) : Nat := 2 ^ (12 + t.at 0 % 16)
def TraceBuf.num (t : TraceBuf) : Nat := t.at 1 % 65536
/-- Where byte `prod` of the ring goes. -/
def TraceBuf.place (t : TraceBuf) : Nat := fld (t.at 0) 47 12 * 4096 + t.at 2 % t.ring
/-- Of a buffer whose descriptor could not be read. -/
def TraceBuf.unread : TraceBuf := ⟨[0, 0, 0, 0, 0, 0], false, 0, 0, false, false⟩
/-- Does its descriptor not show all yet that it should? -/
def TraceBuf.owes (t : TraceBuf) : Bool := t.owed4 != 0 || t.owed5 != 0 || t.lossy || t.halt
def TraceBuf.paid (t : TraceBuf) : TraceBuf := { t with owed4 := 0, owed5 := 0 }
/-- `n` records more have been dropped; `n` cycles more of stall. -/
def TraceBuf.drop (t : TraceBuf) (n : Nat) : TraceBuf := { t.set 4 (t.at 4 + n) with owed4 := t.owed4 + n }
def TraceBuf.stall (t : TraceBuf) (n : Nat) : TraceBuf := { t.set 5 (t.at 5 + n) with owed5 := t.owed5 + n }

def modTrc (s : State) (f : TraceSt → TraceSt) : State := { s with trc := f s.trc }
def putBuf (s : State) (b : Nat) (t : TraceBuf) : State := modTrc s (fun x => { x with bufs := x.bufs.insert b t })
def getBuf (s : State) (b : Nat) : TraceBuf := s.trc.bufs.getD b .unread
/-- What is known of the buffer that `trctl` or `htrdesc` names now is read afresh (24 R383); what its descriptor should show
remains. -/
def forgetBuf (s : State) (k : Nat) : State :=
  let b := bufNow s k
  let t := getBuf s b
  if t.owes then putBuf s b { t with dw := TraceBuf.unread.dw, whole := false } else modTrc s (fun x => { x with bufs := x.bufs.erase b })
def paused (s : State) (b : Nat) : Bool := !isHbuf b && s.trpause.getLsbD (bufCtx b)

/-- A write of one doubleword of a descriptor; a failure is not reported again. -/
def bufPut (s : State) (b i x : Nat) : State := (bufWrite s b (bufDesc b + 8 * i) (leBytes 8 (x % 2 ^ 64))).getD s

/-- What is known of a buffer goes to dw4 and dw5 of its descriptor: while it is paused nothing is written, and it is owed
(24 R388). -/
def tellBuf (s : State) (b : Nat) (t : TraceBuf) : State :=
  if !t.whole || paused s b then putBuf s b t
  else bufPut (bufPut (putBuf s b t.paid) b 4 (t.at 4)) b 5 (t.at 5)

/-- dw1 with the end of the lossless mode and the stop. -/
def dw1With (lossy halt : Bool) (w : Nat) : Nat :=
  w - (if lossy && bitOf w 62 then 2 ^ 62 else 0) + (if halt && !bitOf w 61 then 2 ^ 61 else 0)

/-- The device changes its own bits of dw1: the owner's stand as memory has them now (24 R383). -/
def writeDw1 (s : State) (b : Nat) (t : TraceBuf) (lossy halt : Bool) : TraceBuf × State :=
  let r := bufRead s b (bufDesc b + 8)
  let w := dw1With lossy halt (r.1.getD (t.at 1))
  (t.set 1 w, bufPut r.2 b 1 w)

/-! Records (24 R376 to R381) -/

/-- dw0 of a record (24 R376). -/
def recHead (ev src ctx lvl seq payload : Nat) : Nat :=
  ev * 2 ^ 56 + src * 2 ^ 44 + ctx * 2 ^ 38 + lvl * 2 ^ 36 + seq % 4096 * 2 ^ 24 + payload % 2 ^ 24

def nextSeq (s : State) (src ctx : Nat) : Nat × State :=
  let k := src * 64 + ctx
  let n := s.trc.seqs.getD k 0
  (n.toNat, modTrc s (fun x => { x with seqs := x.seqs.insert k (n + 1) }))

/-- A stamp: the source's own time, never below its last stamp nor below `least` (24 R380). -/
def stampOf (s : State) (src least : Nat) : Nat × State :=
  let t := maxN (maxN (traceTime s (dieOfSrc src)) least) (s.trc.stamps.getD src 0)
  (t, modTrc s (fun x => { x with stamps := x.stamps.insert src t }))

/-- A source hears a message that was sent at `stamp`: what it records from then on comes later (24 R380, R381). -/
def hearFrom (s : State) (src stamp : Nat) : State :=
  if s.trc.stamps.getD src 0 ≤ stamp then modTrc s (fun x => { x with stamps := x.stamps.insert src (stamp + 1) }) else s

/-- The stamp of a message that a source sends now. -/
def sentAt (s : State) (src : Nat) : Nat := maxN (traceTime s (dieOfSrc src)) (s.trc.stamps.getD src 0)

/-- The least stamp of what unit `dst` records because of a message that `src` sends now: past the sender's where it comes
from the other die; on one die past the sender's last record where it would else sort before that (24 R380, R381). -/
def heardAt (s : State) (src dst : Nat) : Nat :=
  if dieOfSrc src = dieOfSrc dst then
    let last := s.trc.stamps.getD src 0
    let now := traceTime s (dieOfSrc dst)
    if last < now ∨ last = now ∧ src ≤ dst then 0 else last + 1
  else sentAt s src + 1

/-- Unit `dst` hears the message that `src` sends now. -/
def hears (s : State) (dst src : Nat) : State :=
  let t := heardAt s src dst
  if t = 0 then s else hearFrom s dst (t - 1)

/-- A record, numbered and stamped; the management controller receives every one (24 R384). -/
def makeRec (s : State) (src ctx ev lvl payload : Nat) (xs : Option (Nat × Nat)) (least : Nat) : List Byte × State :=
  let q := nextSeq s src ctx
  let t := stampOf q.2 src least
  let head := recHead ev src ctx lvl q.1 payload + 2 ^ 64 * t.1
  let bytes := match xs with
    | none => leBytes 16 head
    | some (x0, x1) => leBytes 32 (head + 2 ^ 128 * (x0 % 2 ^ 64) + 2 ^ 192 * (x1 % 2 ^ 64))
  (bytes, modTrc t.2 (fun x => { x with port := bytes :: x.port }))

/-! The ring (24 R383, R385) -/

/-- The pad record of the trace writer where 32 bytes would cross the end of the ring; what is known of the buffer is then
past it (24 R383). -/
def ringPad (s : State) (b : Nat) (t : TraceBuf) (n : Nat) : Option (TraceBuf × State) :=
  if n = 32 && t.at 2 % t.ring == t.ring - 16 then
    let q := makeRec s (bufWriter b) (bufCtx b) 0x7F (bufLvl b) 0 none 0
    (bufWrite q.2 b t.place q.1).map (fun s1 => (t.set 2 (t.at 2 + 16), s1))
  else some (t, s)

/-- Place bytes in the ring at prod, after a pad record where one is due, and advance prod (24 R383). -/
def ringPut (s : State) (b : Nat) (t : TraceBuf) (bytes : List Byte) : Option (TraceBuf × State) :=
  (ringPad s b t bytes.length).bind (fun p =>
    (bufWrite p.2 b p.1.place bytes).bind (fun s1 =>
      let t1 := p.1.set 2 (p.1.at 2 + bytes.length)
      (bufWrite s1 b (bufDesc b + 16) (leBytes 8 (t1.at 2))).map (fun s2 => (t1, s2))))

/-- Room for a record of `n` bytes (24 R385). -/
def TraceBuf.fits (t : TraceBuf) (n : Nat) : Bool := decide (n + 16 + (t.at 2 + 2 ^ 64 - t.at 3) % 2 ^ 64 ≤ t.ring)

/-- A drop record before the next one, where records have been dropped (24 R385, R387). -/
def dropFirst (s : State) (b : Nat) (t : TraceBuf) : Option (TraceBuf × State) :=
  let n := s.trc.drops.getD b 0
  if n = 0 then some (t, s)
  else
    (ringPad s b t.paid 32).bind (fun p =>
      let q := makeRec (tellBuf p.2 b t) (bufWriter b) (bufCtx b) 0x96 (bufLvl b) 0 (some (n, t.at 4)) 0
      (ringPut q.2 b p.1 q.1).map (fun r => (r.1, modTrc r.2 (fun x => { x with drops := x.drops.erase b }))))

/-- What is to be written once a pause has ended (24 R388). -/
def payOwed (s : State) (b : Nat) (t : TraceBuf) : TraceBuf × State :=
  if paused s b then (t, s)
  else
    let s1 := if t.owed4 != 0 || t.owed5 != 0 then tellBuf s b t else s
    if t.lossy || t.halt then writeDw1 s1 b { t.paid with lossy := false, halt := false } t.lossy t.halt
    else (t.paid, s1)

/-- What the writer knows of a buffer for a record of `n` bytes: all of it read at the first record after a write of
`trctl`; dw1 and cons afresh where the ring appears full or the buffer is stopped (24 R383). -/
def knowBuf (s : State) (b n : Nat) : Option TraceBuf × State :=
  let whole := fun (t : TraceBuf) =>
    match readDesc s b (bufDesc b) 6 with
    | (none, s1) => (none, s1)
    | (some l, s1) =>
      let t1 := { t with dw := l, whole := true }
      let t2 := ((t1.set 4 (t1.at 4 + t.owed4)).set 5 (t1.at 5 + t.owed5)).set 1 (dw1With false t.halt (t1.at 1))
      let r := payOwed s1 b t2
      (some r.1, r.2)
  match s.trc.bufs.find? b with
  | none => whole .unread
  | some t =>
    if !t.whole then whole t
    else if paused s b then (some t, s)
    else if t.stopped || t.owes || !t.fits n then
      match bufRead s b (bufDesc b + 8) with
      | (none, s1) => (none, s1)
      | (some w, s1) =>
        match bufRead s1 b (bufDesc b + 24) with
        | (none, s2) => (none, s2)
        | (some c, s2) =>
          let r := payOwed s2 b ((t.set 1 w).set 3 c)
          (some r.1, r.2)
    else (some t, s)

/-! Stalls, drops and stops (24 R385 to R388) -/

/-- An engine or core that waits for room starts nothing (24 R385). -/
def stalledSrc (s : State) (src : Nat) : Bool := s.trc.waiting.any (fun r => r.src == src)

/-- The stall of a source ends now (24 R386): its length counts for the context and for the source. -/
def endStall (s : State) (r : TraceRec) : State :=
  let len := s.cycle.toNat - r.since
  let s1 := updCtx s r.ctx (fun c => { c with stall := c.stall + len })
  if r.src < 512 then
    updCore s1 r.src (fun c => { c with stalls := (r.since, s.cycle.toNat) :: c.stalls, stallCycles := c.stallCycles + len })
  else { s1 with estall := s1.estall.insert r.src (s1.estall.getD r.src 0 + len) }

/-- The records that keep a source from going on: the first that waits of each. -/
def heads : List TraceRec → List TraceRec
  | [] => []
  | r :: l => r :: (heads l).filter (fun x => x.src != r.src)

/-- The cycles of stalls that have not ended, of those that `p` names (24 R389). -/
def stallsOn (s : State) (p : TraceRec → Bool) : Nat :=
  ((heads s.trc.waiting).filter p).foldl (fun n r => n + (s.cycle.toNat - r.since)) 0

/-- The next record of a source, if one waits, stalls it from now on. -/
def nextStall (s : State) (src : Nat) : State :=
  modTrc s (fun x => { x with waiting := x.waiting.map (fun r =>
    if r.src = src then { r with since := s.cycle.toNat, time := traceTime s (dieOfSrc src) } else r) })

/-- The records that wait on buffer `b` are lost and their sources go on; the stalls' length goes to dw5. -/
def releaseWaiters (s : State) (b : Nat) : State :=
  let mine := (heads s.trc.waiting).filter (fun r => r.buf == b)
  let len := mine.foldl (fun n r => n + (s.cycle.toNat - r.since)) 0
  let t := getBuf s b
  let s1 := putBuf (modTrc s (fun x => { x with waiting := x.waiting.filter (fun r => r.buf != b) })) b (t.stall len)
  mine.foldl (fun st r => nextStall (endStall st r) r.src) s1

def waitersIn (s : State) (b : Nat) : Nat := (s.trc.waiting.filter (fun r => r.buf == b)).length

/-- `n` records more are dropped. -/
def countDrops (s : State) (b n : Nat) : State :=
  let t := getBuf s b
  tellBuf (modTrc s (fun x => { x with drops := x.drops.insert b (x.drops.getD b 0 + n) })) b (t.drop n)

/-- "Trace buffer stopped" at the context's interrupt core, or at an H core (24 R387). -/
def raiseStop (s : State) (b : Nat) : State :=
  let x := BitVec.ofNat 64 (getBuf s b).num
  if isHbuf b then postIntr s 0 ⟨32, 0, x, 0, .h⟩ else postIntr s (irqCore s (bufCtx b)) ⟨32, 0, x, bufCtx b, .k⟩

/-- The buffer stops, once (24 R387): the records that wait and `n` more count as dropped, sources go on. -/
def stopBuf (s : State) (b n : Nat) : State :=
  let t := getBuf s b
  if t.stopped then countDrops s b n
  else
    let p := if paused s b then ({ t.set 1 (dw1With false true (t.at 1)) with halt := true }, s) else writeDw1 s b t false true
    raiseStop (countDrops (releaseWaiters (putBuf p.2 b p.1) b) b (waitersIn s b + n)) b

/-- The pages that the writer is about to write are logged (05 R111), at these addresses; where the log is full, the
guest-physical address that has no room. Another cause stops the buffer at the write itself. -/
def logPages (s : State) (b : Nat) : List Nat → Option Word × State
  | [] => (none, s)
  | va :: r =>
    match (do
      let l ← translate (bufAgent b) va 2
      logWrite (bufAgent b) l) s with
    | .ok (_, s1) => logPages s1 b r
    | .error t => (if t.code = 23 then some t.tval else none, s)

/-- Before a record of `n` bytes is placed: `true` where it must wait on a full dirty log, whose exit is posted once
(05 R112). -/
def logFirst (s : State) (b : Nat) (t : TraceBuf) (n : Nat) : Bool × State :=
  if isHbuf b then (false, s)
  else if s.dirtyHeld.contains (73, b) then (true, s)
  else
    let last := t.set 2 (t.at 2 + n + (if s.trc.drops.getD b 0 = 0 then 0 else 48) - 1)
    match logPages s b [t.place, last.place, bufDesc b] with
    | (none, s1) => (false, s1)
    | (some g, s1) => (true, { postExit s1 (irqCore s1 (bufCtx b)) (bufCtx b) g with dirtyHeld := s1.dirtyHeld ++ [(73, b)] })

/-- The writer places a record, after a drop record where one is due; none: the buffer has stopped. -/
def placeRec (s : State) (b : Nat) (t : TraceBuf) (bytes : List Byte) : Option State :=
  ((dropFirst s b t).bind (fun p => ringPut p.2 b p.1 bytes)).map (fun p => putBuf p.2 b p.1)

/-- A record for a buffer (24 R383, R385, R387): behind those of its source that wait for the same buffer. -/
def writeRec (s : State) (src ctx b : Nat) (bytes : List Byte) : State :=
  match knowBuf s b bytes.length with
  | (none, s1) => stopBuf s1 b 1
  | (some t, s1) =>
    let s2 := putBuf s1 b t
    let wait := fun (st : State) =>
      modTrc st (fun x => { x with waiting := x.waiting ++ [⟨src, b, ctx, bytes, s.cycle.toNat, traceTime s (dieOfSrc src)⟩] })
    if !t.on then s2
    else if t.stopped then countDrops s2 b 1
    else if !paused s b && decide (13 ≤ t.at 0 % 16) then stopBuf s2 b 1
    else if !paused s b && t.fits bytes.length && !s.trc.waiting.any (fun r => r.src == src && r.buf == b) then
      let p := logFirst s2 b t bytes.length
      if p.1 then wait p.2 else (placeRec p.2 b t bytes).getD (stopBuf p.2 b 1)
    else if t.lossless then wait s2
    else countDrops s2 b 1

/-- The buffer that a source's records of a context go to: that of its own cluster for cores, copy engines and
schedulers, else that of the context's interrupt core (24 R382). -/
def bufOf (s : State) (src ctx : Nat) : Nat :=
  let cl := if src < 512 then src / 8 else if src < 576 then src - 512 else if src < 640 then src - 576 else irqCore s ctx / 8
  xkey ctx cl

/-- Generate a record (24 R376 to R384). -/
def emit (s : State) (src ctx ev cls lvl payload : Nat) (xs : Option (Nat × Nat)) (least : Nat := 0) : State :=
  let q := makeRec s src ctx ev lvl payload xs least
  let k := if 2 ≤ lvl then hbuf else bufOf s src ctx
  let ctl := bufCtl s k
  if fld ctl 47 6 = 0 || !(cls = 10 || bitOf ctl (48 + cls)) || 3 ≤ lvl then q.2 else writeRec q.2 src ctx (bufNow s k) q.1

/-- A record of the active core. -/
def emitCore (s : State) (ev cls lvl payload : Nat) (xs : Option (Nat × Nat)) : State :=
  emit s s.cur s.core.ctx.toNat ev cls lvl payload xs

/-- The halt record (24 R379). -/
def haltRecord (s : State) (scope v ctx : Nat) (resume : Bool) : State :=
  let c := if scope < 2 then (getCore s v).ctx.toNat else if scope = 2 then ctx else 0
  emit s (652 + (if scope < 2 then dieOf v else 0)) c 0x92 8 1 (scope + 4 * b2n resume)
    (some (s.fab.own.toNat + 1024 * v + 2 ^ 19 * ctx, 0))

/-- The record that a source stalls on is written with its own stamp, and a stall record follows (24 R385); x0 is the
elapsed trace time (24 R379). -/
def writeStalled (s : State) (r : TraceRec) (t : TraceBuf) : State :=
  let s1 := endStall (nextStall (modTrc s (fun x => { x with waiting := x.waiting.erase r })) r.src) r
  match placeRec s1 r.buf t r.bytes with
  | none => stopBuf s1 r.buf 1
  | some s2 =>
    let len := s.cycle.toNat - r.since
    let q := makeRec s2 r.src r.ctx 0x95 0 0 (some (traceTime s (dieOfSrc r.src) - r.time, len)) 0
    match ringPut q.2 r.buf (getBuf q.2 r.buf) q.1 with
    | none => stopBuf q.2 r.buf 1
    | some (t1, s3) => tellBuf s3 r.buf (t1.stall len)

/-- The first waiting record of a source is looked at again: written where it fits now, dropped where its buffer has
become lossy, stopped or been switched off (24 R383, R385, R387). -/
def stallEnd (s : State) (src : Nat) : State :=
  match s.trc.waiting.find? (fun r => r.src == src) with
  | none => s
  | some r =>
    match knowBuf s r.buf r.bytes.length with
    | (none, s1) => stopBuf s1 r.buf 0
    | (some t, s1) =>
      let s2 := putBuf s1 r.buf t
      let gone := endStall (nextStall (modTrc s2 (fun x => { x with waiting := x.waiting.erase r })) src) r
      if !t.on then gone
      else if t.stopped then countDrops gone r.buf 1
      else if !paused s r.buf && decide (13 ≤ t.at 0 % 16) then stopBuf s2 r.buf 0
      else if t.fits r.bytes.length && !paused s r.buf then
        let p := logFirst s2 r.buf t (r.bytes.length + 32)
        if p.1 then p.2 else writeStalled p.2 r t
      else if t.lossless then s2
      else countDrops gone r.buf 1

/-- One stall reaches its limit: the buffer becomes lossy (24 R385). -/
def stallLimit (s : State) (src : Nat) : State :=
  match s.trc.waiting.find? (fun r => r.src == src) with
  | none => s
  | some r =>
    let t := getBuf s r.buf
    let maxst := fld (t.at 1) 47 32
    if maxst = 0 || s.cycle.toNat < r.since + maxst * 1024 then s
    else
      let n := waitersIn s r.buf
      let s1 := countDrops (releaseWaiters s r.buf) r.buf n
      let p := payOwed s1 r.buf { getBuf s1 r.buf with lossy := true }
      raiseStop (putBuf p.2 r.buf p.1) r.buf

end Sys2Proof.Machine
end

