-- ==== Sys2Proof/Machine/Net.lean ====
section
/-!
DEFINITION. Sending a request to another node (21 R355 to R359): channels, sequence numbers, send allowance, reply slots.
-/
namespace Sys2Proof.Machine

/-- Requests that hold a reply slot: of the future operations those that return a value (21 R358), by the numbers of the
task instructions. -/
def ReplyFor.slot : ReplyFor → Bool
  | .store _ _ => false
  | .row _ _ _ sl => sl
  | .task _ op _ _ _ _ => !(op == 4 || op == 5 || op == 6 || op == 12)
  | .grid _ _ => true
  | .fwd _ => false
  | _ => true

/-- The fabric interface that sends a request: that of the die of its core or copy engine (21 R349). Requests that stand for
another node's go through die 0's (log 37). -/
def ReplyFor.fiu : ReplyFor → Nat
  | .reg v _ _ _ _ => dieOf v
  | .vec v _ _ => dieOf v
  | .task v _ _ _ _ _ => dieOf v
  | .store v _ => dieOf v
  | .bard v _ _ => dieOf v
  | .pop v _ => dieOf v
  | .row cl _ _ _ => cl / 32
  | .grid q _ => q / 4
  | .fwd _ => 0

/-- The unit that hears an answer, as a trace source (24 R377, R380). -/
def ReplyFor.src : ReplyFor → Nat
  | .reg v _ _ _ _ => v
  | .vec v _ _ => v
  | .task v _ _ _ _ _ => v
  | .store v _ => v
  | .bard v _ _ => v
  | .pop v _ => v
  | .row cl _ _ _ => 512 + cl
  | .grid q _ => 640 + q
  | .fwd _ => 650

/-- Packets of this node to `dst` on `chan` that have no answer yet, and reply slots of an interface that are held. -/
def outstandingTo (s : State) (dst chan : Nat) : Nat :=
  (s.fab.outs.filter (fun o => o.dst == dst && o.chan == chan)).foldl (fun n o => n + o.left) 0
def slotsHeld (s : State) (fiu : Nat) : Nat := (s.fab.outs.filter (fun o => o.forw.slot && o.forw.fiu == fiu)).length

/-- May `n` requests of interface `fiu` to `dst` on `chan` be sent now: send allowance (21 R357) and reply slots (21 R358)? -/
def roomFor (s : State) (fiu dst chan : Nat) (slot : Bool) (n : Nat) : Bool :=
  decide (outstandingTo s dst chan + n ≤ 64) && (!slot || decide (slotsHeld s fiu + n ≤ 4096))

def canSend (s : State) (fiu dst chan : Nat) (slot : Bool) : Bool := roomFor s fiu dst chan slot 1

/-- The next number of an ordered channel; 0 on channel 0. -/
def takeSeq (s : State) (dst chan : Nat) : Nat × State :=
  if chan = 0 then (0, s)
  else
    let k := dst * 4 + chan
    let n := s.fab.sendSeq.getD k 0
    (n, { s with fab := { s.fab with sendSeq := s.fab.sendSeq.insert k ((n + 1) % 2 ^ 32) } })

def flits (n : Nat) : Nat := (n + 31) / 32

/-- Put a packet into the queue of packets to send. -/
def post (s : State) (p : Packet) : State := { s with fab := { s.fab with outbox := s.fab.outbox ++ [p] } }

/-- The tag of the next request: the next free reply slot of its interface, or, past the numbers of the slots, one that no
other request to its destination has (21 R358). -/
def nextTagOf (s : State) (dst : Nat) (forw : ReplyFor) : Nat :=
  let base := if forw.slot then forw.fiu * 4096 else 8192
  let size := if forw.slot then 4096 else 57344
  let tag := fun i => base + (s.fab.nextTag + i) % size
  let free := fun i => !s.fab.outs.any (fun o => o.tag == tag i && (forw.slot || o.dst == dst))
  tag ((firstBelow free size).getD 0)

/-- A request packet; `forw` says what its answer is for, `va` what tval holds where the answer carries a cause. Relay and
stamp take their values when it leaves. -/
def sendReq (s : State) (dst kind chan addr ctx sub : Nat) (data : List Byte) (va : Nat) (forw : ReplyFor) : State :=
  let tag := nextTagOf s dst forw
  let q := takeSeq s dst chan
  let p : Packet :=
    { dst := BitVec.ofNat 10 dst, src := s.fab.own, kind := BitVec.ofNat 4 kind, nflit := BitVec.ofNat 4 (flits data.length),
      chan := BitVec.ofNat 2 chan, cls := 0, seq := BitVec.ofNat 32 q.1, addr := BitVec.ofNat 64 addr, ctx := BitVec.ofNat 6 ctx,
      sub := BitVec.ofNat 10 sub, tag := BitVec.ofNat 16 tag, relay := s.fab.own, rz := 0, cause := 0,
      stamp := BitVec.ofNat 64 (traceTime s forw.fiu), data := data }
  let s1 := post q.2 p
  { s1 with fab := { s1.fab with outs := s1.fab.outs ++ [⟨tag, dst, chan, kind, addr, va, forw, 1, ctx⟩], nextTag := s1.fab.nextTag + 1 } }

/-- The answer to a request packet. -/
def sendReply (s : State) (p : Packet) (kind cause : Nat) (addr : Nat) (data : List Byte) : State :=
  post s { dst := p.src, src := s.fab.own, kind := BitVec.ofNat 4 kind, nflit := BitVec.ofNat 4 (flits data.length), chan := 0, cls := 1,
           seq := 0, addr := BitVec.ofNat 64 addr, ctx := p.ctx, sub := p.sub, tag := p.tag, relay := s.fab.own, rz := 0,
           cause := BitVec.ofNat 8 cause, stamp := BitVec.ofNat 64 (traceTime s (dieOf s.cur)), data := data }

/-- Does core `v` wait for the acknowledgement of a remote store, of any address or of this doubleword (23 R369)? -/
def storesOut (s : State) (v : Nat) (dw : Option (Nat × Nat)) : Bool :=
  s.fab.outs.any (fun o => match o.forw with
    | .store w _ => w == v && (match dw with | none => true | some (n, a) => o.dst == n && o.addr / 8 == a / 8)
    | _ => false)

/-! Exchange (07 R163, R164) -/

/-- The core of a live member with this rank. -/
def rankCore (s : State) (gid rank : Nat) : Option Nat :=
  (gangOf s gid).bind (fun g => (g.members.find? (fun m => m.rank == rank && !m.ended)).bind (fun m => m.core))

/-- The bank accepts an `xst`, and its core hears of it (24 R380); where its target has ended, it is discarded. -/
def xstWrite (s : State) (x : Xst) : State :=
  match rankCore s x.gid x.rank with
  | none => s
  | some w => hears (homeWrite s none 0 (bankAt w (!(getCore s w).live) x.off) x.bytes) w x.sender

/-- Accept the sender's writes in program order, those that `p` names. -/
def acceptXsts (s : State) (p : Xst → Bool) : State :=
  let l := s.xsts.filter p
  l.foldl xstWrite { s with xsts := s.xsts.filter (fun x => !p x) }

/-- Every earlier `xst` of core `v` is written at its target. -/
def flushXsts (s : State) (v : Nat) : State := acceptXsts s (fun x => x.sender == v)

/-- Which `xst` of core `v`, in program order, are accepted now and which stay: one stays while the window that it opened
is open, unless a later one to the same bank is accepted (02 R36; 07 R163, R164). -/
def splitXsts (c : Core) (v : Nat) : List Xst → List Xst × List Xst
  | [] => ([], [])
  | x :: r =>
    let q := splitXsts c v r
    let open_ := (c.wins.filter (fun w => w.xaddr == x.pc)).length
    let stays := (q.2.filter (fun y => y.sender == v && y.pc == x.pc)).length
    if x.sender == v && (decide (open_ ≤ stays) || q.1.any (fun y => y.gid == x.gid && y.rank == x.rank))
    then (x :: q.1, q.2) else (q.1, x :: q.2)

/-- The banks accept the active core's `xst` whose windows are behind it, before its next instruction issues (02 R36). -/
def settleXsts (s : State) : State :=
  let q := splitXsts s.core s.cur s.xsts
  q.1.foldl xstWrite { s with xsts := q.2 }

end Sys2Proof.Machine
end

