-- ==== Sys2Proof/Machine/Operands.lean ====
section
/-!
DEFINITION. What every instruction shares: repeats, the lookahead check, retiring, the trap it raises (02 R34 to R39,
06 R129, R132, R133), and the operand forms: pointers (04 R80 to R82), register fields under REP, immediates.
-/
namespace Sys2Proof.Machine

open Host (Outcome)

/-- What the frame of an instruction needs: its length, first body parcel, lookahead, repeat and stepped fields, and
the registers that one iteration reads, writes and holds as late sources, by its d and s fields. -/
structure Ins where
  size : Nat
  body1 : Nat
  la : Nat := 0
  rep : Option RepF := none
  kd : RK := .no
  ks : RK := .no
  mem : Bool := false
  /-- uses the vector unit or the array, which a scan may own (16 R305) -/
  units : Bool := false
  d : Nat := 0
  s : Nat := 0
  reads : Nat → Nat → List RegId := fun _ _ => []
  writes : Nat → Nat → List RegId := fun _ _ => []
  late : Nat → Nat → List RegId := fun _ _ => []

/-- The length of an encoding in bytes. -/
def rawSize (r : Raw) : Nat := 2 * r.parcels.length

/-- The frame of a raw encoding. -/
def Ins.of (r : Raw) : Ins := { size := rawSize r, body1 := r.b1 }

def illegal (x : Ins) : Trap := { code := 1, tval := BitVec.ofNat 64 x.body1 }
def privTrap (x : Ins) : Trap := { code := 2, tval := BitVec.ofNat 64 x.body1 }

/-- Registers of kind `k` with number `n` that a window compares: g0 never is (02 R37). -/
def regsOf (kind : RK) (n : Nat) : List RegId :=
  match kind with
  | .g => if n = 0 then [] else [.g n]
  | .v => [.v n]
  | _ => []

/-- The d and s fields of iteration `i` under a step mask (02 R34). -/
def stepD (x : Ins) (step i : Nat) : Nat := if bitOf step 0 then x.d + i else x.d
def stepS (x : Ins) (step i : Nat) : Nat := if bitOf step 1 then x.s + i else x.s
def stepM (step i : Nat) : Nat := if bitOf step 2 then i else 0

/-- Registers over all iterations from `i` to `last`. -/
def allRegs (x : Ins) (f : Nat → Nat → List RegId) (k : Option Cont) : List RegId :=
  match k with
  | none => f x.d x.s
  | some c => (List.range (c.last + 1 - c.i)).flatMap (fun j => f (stepD x c.step (c.i + j)) (stepS x c.step (c.i + j)))

/-- Registers over all repetitions of an instruction (02 R38). -/
def unionRegs (x : Ins) (f : Nat → Nat → List RegId) (k : Option Cont) : List RegId :=
  allRegs x f (k.map (fun c => { c with i := 0 }))

/-! Taking a trap -/

/-- The on-chip entry of the task that core `v` holds, as (cluster, slot). -/
def ownSlot (s : State) (v : Nat) : Option (Nat × Nat) :=
  match (getCore s v).task with
  | none => none
  | some r =>
    ((gangOf s r.gid).bind (fun g => (g.members.find? (fun m => m.rank == r.rank)).bind (fun m => m.slot))).map
      (fun k => (k / 1024, k % 1024))

def ownEntry (s : State) (v : Nat) : Option Entry :=
  (ownSlot s v).bind (fun k => (getCl s k.1).ft.find? k.2)

def updEntry (s : State) (cl slot : Nat) (f : Entry → Entry) : State :=
  updCl s cl (fun c => match c.ft.find? slot with | none => c | some e => { c with ft := c.ft.insert slot (f e) })

/-- The carried poison code of the task of core `v` (10 R224). -/
def setCarried (s : State) (v code : Nat) : State :=
  match ownSlot s v with
  | none => s
  | some k => updEntry s k.1 k.2 (fun e => { e with carried := code })

/-- Bytes that nothing is known of (log 7). -/
def freeBytes (s : State) (n : Nat) : List Byte × State :=
  ((List.range n).map (fun i => BitVec.ofNat 8 (Config.choose (s.fresh + i))), { s with fresh := s.fresh + n })

/-- The instruction of core `v` has read data in error: cause 20, and the task is poisoned (25 R399, 10 R224). -/
def eccTo (s : State) (v : Nat) : State :=
  setCarried (postDeferred s v 1 ((getCore s v).pc.setWidth 64) (getCore s v).ctx.toNat) v 20

def eccPost (bad : Bool) : M Unit := if bad then modS (fun s => eccTo s s.cur) else pure ()

/-- The same, where the core may have met the error already: it is reported once. -/
def eccOnce (bad : Bool) : M Unit := do
  let s ← getS
  eccPost (bad && !s.core.pend.deferred.any (fun i => i.code == 20 && i.sub == 1 && i.tval == s.core.pc.setWidth 64))

/-- One entry of a batch (06 R137). -/
def PageFault.word (p : PageFault) : Nat :=
  p.page * 65536 + p.lvl * 256 + p.stage * 128 + p.acc * 16 + b2n p.bad * 8

/-- The 17 doublewords of a batch. -/
def batchWords (ps : List PageFault) : List Nat :=
  (b2n (ps.any (fun p => p.stage == 1)) * 256 + ps.length) :: (ps.map PageFault.word ++ List.replicate (16 - ps.length) 0)

/-- A later meeting of the same page joins its entry; at most 16 entries (05 R110). -/
def addFault (ps : List PageFault) (p : PageFault) : List PageFault :=
  match ps with
  | [] => [p]
  | q :: r => if q.page = p.page ∧ q.stage = p.stage then { q with acc := q.acc ||| p.acc } :: r else q :: addFault r p

/-- The batch of the pages met, in order: nothing is met once the sixteenth has been collected. -/
def collect (ps : List PageFault) : List PageFault := ps.foldl (fun l p => if l.length = 16 then l else addFault l p) []

/-- The batch at its place; none where the write would fail. -/
def batchToH (s : State) (ps : List PageFault) : Option State :=
  let a := s.fbatchh.toNat
  match keyVal s 0 with
  | none => none
  | some kv => if a + 136 ≤ hbmSize then some (homeWrite s none kv a (leBytes 136 (ofLe ((batchWords ps).flatMap (leBytes 8))))) else none

/-- The K batch goes through stage 2 only: where it fails, the stage-2 entry of the `fbatch` page (06 R137). DESIGN CHOICE
(log 95): that entry is dropped where 16 pages have been collected, and a write that is denied or meets no key sends the trap
to H without an added entry. The write marks no page in the dirty log (DESIGN CHOICE, log 99). -/
def batchToK (s : State) (ps : List PageFault) : Except (List PageFault) State :=
  let ctx := s.core.ctx.toNat
  let r := (useRec s ctx).1
  let a := (getX s ctx (clusterOf s.cur)).fbatch.toNat
  match gpaTo s r a with
  | .error (.page p) => .error [{ p with acc := 2 }]
  | .error (.prot _) => .error []
  | .ok t =>
    match (if t.pa + 136 ≤ hbmSize && t.w then keyVal s t.key else none) with
    | none => .error []
    | some kv => .ok (homeWrite s none kv t.pa (leBytes 136 (ofLe ((batchWords ps).flatMap (leBytes 8)))))

/-- The device stops a core whose H batch cannot be written (06 R137); the management trace names it (25 R395). -/
def stopCore (s : State) : State :=
  { s with core := { s.core with mode := .stopped }, mgmt := { s.mgmt with stopped := true, named := s.cur :: s.mgmt.named } }

/-- Enter a handler of the active core, with the trap record (06 R135, 24 R379). -/
def enterAt (s : State) (lvl : Lvl) (code sub : Nat) (tv : Word) (intr : Bool) (pcE : Addr) : State :=
  let s1 := emitCore s 0x0D 5 lvl.num (code + 256 * sub) none
  { s1 with core := { s1.core.enter lvl code sub tv intr pcE with afterRett := false, skipBkpt := false } }

/-- Taking a synchronous cause (06 R132, R135, R137): windows close, a repeat under way is recorded, a cause-5 batch is
written, a carried code is left, and the handler is entered. -/
def takeTrap (s : State) (size : Nat) (t : Trap) : State :=
  let s1 := flushXsts { s with core := { s.core.suspend with wait := .none, retouch := false } } s.cur
  let pcE := if t.after then addrPlus s1.core.pc size else s1.core.pc
  let s2 := match t.carry with | some c => setCarried s1 s1.cur c | none => s1
  let lvl := trapLevel s2.core.priv t
  if t.code = 5 then
    let ps := collect t.pages
    let lvl5 := if ps.any (fun p => p.stage == 1) then .h else lvl
    let toH := fun (st : State) (ps : List PageFault) =>
      match batchToH st (collect ps) with
      | none => stopCore st
      | some st' => enterAt st' .h 5 0 t.tval false pcE
    match lvl5 with
    | .h => toH s2 ps
    | _ =>
      match batchToK s2 ps with
      | .ok s3 => enterAt s3 lvl5 5 0 t.tval false pcE
      | .error more => toH s2 (ps ++ more)
  else enterAt s2 lvl t.code t.sub t.tval false pcE

/-! Issue and retirement -/

/-- 06 R129: may a pending repeat resume on this instruction? -/
def resumeOk (x : Ins) (r : RepCsr) : Bool :=
  let last := r.index.toNat + r.remain.toNat - 1
  decide (r.index.toNat + r.remain.toNat ≤ 64) && stepOk x.kd x.ks x.mem x.d x.s last r.step.toNat

/-- The first window that this instruction breaks (02 R37): the address of its long instruction. -/
def violation (x : Ins) (k : Option Cont) (ws : List Win) : Option Nat :=
  match ws with
  | [] => none
  | _ =>
    let wr := allRegs x x.writes k
    let us := wr ++ allRegs x x.reads k
    (ws.find? (fun w => us.any (fun r => w.w.contains r) || wr.any (fun r => w.l.contains r))).map (fun w => w.xaddr)

/-- Start or continue the instruction: the repeat it runs under (02 R34, 06 R129) and the lookahead check (02 R37). An instruction
that raises cause 3 before its first iteration records no repeat (DESIGN CHOICE, log 99). -/
def begin_ (x : Ins) (s : State) : Except Trap State :=
  let c := s.core
  match c.cont with
  | some _ => .ok s
  | none =>
    let pending := c.afterRett && c.rep.remain != 0
    let start : Except Trap Core :=
      match x.rep with
      | none => .ok (if pending then { c with rep := ⟨0, 0, 0⟩ } else c)
      | some r =>
        if pending then
          if resumeOk x c.rep then
            .ok { c with cont := some ⟨c.rep.index.toNat, c.rep.index.toNat + c.rep.remain.toNat - 1, c.rep.step.toNat, true⟩ }
          else .error (illegal x)
        else .ok { c with cont := some ⟨0, r.cnt.toNat, r.step.toNat, false⟩ }
    match start with
    | .error t => .error t
    | .ok c1 =>
      match violation x c1.cont c1.wins with
      | some a => .error { code := 3, tval := BitVec.ofNat 64 a }
      | none => .ok { s with core := { c1 with afterRett := false, skipBkpt := false } }

/-- One position of every open window is used up; a window without positions left gives its results. -/
def Core.countWins (c : Core) : Core :=
  match c.wins with
  | [] => c
  | ws =>
    let ws1 := ws.map (fun w => { w with left := w.left - 1 })
    let c1 := (ws1.filter (fun w => w.left == 0)).foldl Core.applyWin c
    { c1 with wins := ws1.filter (fun w => w.left != 0) }

/-- A long instruction with LA > 0 opens its window; without a repeat its register results are written when it completes. -/
def Core.openWin (c old : Core) (x : Ins) (k : Option Cont) : Core :=
  if x.la = 0 then c
  else
    let w := unionRegs x x.writes k
    let gw := if x.rep.isSome then [] else w.filterMap (fun r => match r with | .g n => some (n, c.getG n) | .v _ => none)
    let vw := if x.rep.isSome then [] else w.filterMap (fun r => match r with | .v n => some (n, c.getV n) | .g _ => none)
    let c1 := gw.foldl (fun d p => d.setG p.1 (old.getG p.1)) c
    let c2 := vw.foldl (fun d p => d.setV p.1 (old.getV p.1)) c1
    { c2 with wins := c2.wins ++ [⟨old.pc.toNat, x.la, w, unionRegs x x.late k, gw, vw⟩] }

/-- An instruction that will complete when what it waits for comes opens its window then; its registers are written at
that moment (02 R36). -/
def opensLater (x : Ins) : M Unit :=
  modC (fun c => if x.la = 0 then c else
    { c with opening := some ⟨c.pc.toNat, x.la, unionRegs x x.writes c.cont, unionRegs x x.late c.cont, [], []⟩ })

/-- After the last iteration: windows count, and the instruction's own window opens. -/
def Core.done (c old : Core) (x : Ins) : Core :=
  if c.cont.isSome then c else (c.countWins).openWin old x old.cont

/-- What the flow of an effect makes of the state; `s0` is the state at issue. -/
def finish (x : Ins) (s0 : State) (f : Flow) (s : State) : State :=
  match f with
  | .seq => { s with core := Core.done (s.core.retire x.size) s0.core x }
  | .jump a => { s with core := Core.done { s.core with pc := a, cont := none } s0.core x }
  | .hold => s
  | .leave => { s with core := Core.countWins s.core }

/-- Pages that the later iterations of a repeat meet (05 R110), and whether the run-ahead goes on behind them: they are
translated and discarded, an iteration that reads a discarded result is left out, and a trap of another cause ends the
run-ahead. -/
def laterPages (x : Ins) (body : Nat → Nat → Nat → M Flow) (k : Cont) (s : State) : Nat → Nat → List RegId → List PageFault × Bool
  | 0, _, _ => ([], true)
  | f + 1, j, lost =>
    let d := stepD x k.step j
    let sf := stepS x k.step j
    let next := laterPages x body k s f (j + 1) (lost ++ x.writes d sf)
    if (x.reads d sf).any (fun r => lost.contains r) then next
    else
      match body d sf (stepM k.step j) s with
      | .ok _ => next
      | .error t => if t.code = 5 then (t.pages ++ next.1, next.2) else ([], false)

/-- The trap of an effect, with the pages of the run-ahead where it is a translation fault: those of the later
iterations, and those of the instructions behind. -/
def withRunAhead (x : Ins) (body : Nat → Nat → Nat → M Flow) (s : State) (t : Trap) : Trap :=
  if t.code = 5 then
    match s.core.cont with
    | some k =>
      let q := laterPages x body k s (k.last - k.i) (k.i + 1) (x.writes (stepD x k.step k.i) (stepS x k.step k.i))
      { t with pages := t.pages ++ q.1 ++ (if q.2 then s.ahead else []) }
    | none => { t with pages := t.pages ++ s.ahead }
  else t

/-- Wait at issue. -/
def holdIssue : M Flow := fun s => .ok (.hold, { s with core := { s.core with wait := .issue } })

/-- Does the active core know these registers: does no open window's instruction write one? A check of causes 1 or 2 rests on
known registers alone; of the others the lookahead check raises cause 3 (02 R37, R39). -/
def Core.knows (c : Core) (rs : List RegId) : Bool := !c.wins.any (fun w => rs.any (fun r => w.w.contains r))

/-- An instruction issues: its checks of causes 1 and 2, then the lookahead check, then its effect on the registers that the
iteration names (06 R133). The effect is given the d and s fields and the memory step of the iteration. With a repeat pending, an
instruction without one that traps in its effect has ended it, and one that raises causes 1, 2 or 3 has not (DESIGN CHOICE,
log 99). -/
def issueNow (x : Ins) (pre : State → Option Trap) (body : Nat → Nat → Nat → M Flow) (s : State) :
    Outcome State Fault Refusal :=
  match pre s with
  | some t => .next (takeTrap s x.size t)
  | none =>
    match begin_ x s with
    | .error t => .next (takeTrap s x.size t)
    | .ok s1 =>
      let i := (s1.core.cont.map (fun k => k.i)).getD 0
      let st := (s1.core.cont.map (fun k => k.step)).getD 0
      match body (stepD x st i) (stepS x st i) (stepM st i) s1 with
      | .error t => .next (takeTrap s1 x.size (withRunAhead x body s1 t))
      | .ok (f, s2) => .next (finish x s1 f s2)

/-- An instruction: it waits, without a trap, while a scan owns a unit that it uses (16 R305); what the windows behind it
leave outstanding is done before it issues (02 R36). -/
def issue (x : Ins) (pre : State → Option Trap) (body : Nat → Nat → Nat → M Flow) (s : State) :
    Outcome State Fault Refusal :=
  if x.units && s.core.ssb.isSome then .next { s with core := { s.core with wait := .issue } }
  else issueNow x pre body (settleXsts s)

/-- No check of its own. -/
def noPre : State → Option Trap := fun _ => none

/-! Pointers (04 R80 to R82) -/

def ptrVa (p : Word) : Nat := p.toNat % 2 ^ 48
def ptrFmt (p : Word) : Nat := fld p.toNat 63 58
def ptrLbl (p : Word) : Nat := fld p.toNat 57 54

/-- 04 R81: format codes that name a format. -/
def fmtKnown (f : Nat) : Bool := (decide (1 ≤ f) && decide (f ≤ 5)) || (decide (8 ≤ f) && decide (f ≤ 13))

/-- Element size in bytes (CB4: two elements a byte, given as 0). -/
def fmtSize (f : Nat) : Nat :=
  match f with
  | 1 => 1
  | 2 => 1
  | 3 => 2
  | 4 => 4
  | 5 => 8
  | 8 => 4
  | 9 => 2
  | 10 => 2
  | 11 => 1
  | 12 => 1
  | _ => 0

/-- Length of an alignment block (04 R80). -/
def lblLen (l : Nat) : Nat := if l = 3 then 8 else if l = 4 then 16 else 32

def ptrOk (typed : Bool) (p : Word) : Bool :=
  fld p.toNat 53 48 == 0 &&
  (!typed || (fmtKnown (ptrFmt p) && (ptrLbl p == 0 || (decide (3 ≤ ptrLbl p) && decide (ptrLbl p ≤ 5)))))

def ptrTrap (p : Word) : Trap := { code := 7, tval := p }
def checkPtr (typed : Bool) (p : Word) : M Unit := guardT (ptrOk typed p) (ptrTrap p)

/-- An address plus a signed offset, modulo 2^48. -/
def vaAdd (va : Nat) (off : Int) : Nat := wrapN 48 ((va : Int) + off)

def misalign (a : Nat) : Trap := { code := 4, tval := BitVec.ofNat 64 a }
def checkAlign (ok : Bool) (a : Nat) : M Unit := guardT ok (misalign a)

/-- The agent that the active core is. -/
def me (s : State) : Agent := ⟨s.cur, s.core.ctx.toNat, s.core.priv⟩

/-- Does the task of core `v` declare the array, the state-space block (10 R195, 25 R394)? -/
def taskType (s : State) (v : Nat) : Option TaskType :=
  (getCore s v).task.bind (fun r => (gangOf s r.gid).bind (fun g => g.ty))
def declArr (s : State) : Bool := ((taskType s s.cur).map (fun t => t.arr)).getD false
def declSsb (s : State) : Bool := ((taskType s s.cur).map (fun t => t.ssb)).getD false

end Sys2Proof.Machine
end

