-- ==== Sys2Proof/Machine/Cycle.lean ====
section
/-!
DEFINITION. What happens between instructions: time and its counters (01 R14, 10 R228, 24 R375, R389), pending
events at a boundary (06 R134), breakpoints (24 R390), and the fetch of an instruction's parcels (02 R57, 07 R147).
-/
namespace Sys2Proof.Machine

open Host (Outcome)

/-! Time -/

def apart (a b : Nat) : Nat := maxN a b - minN a b

/-- The servo's rate for a die in cycle `c`, in 1/190000 of a sixteenth: off the nominal 160/19 sixteenths by at most 1 part in
10^4 (24 R375, log 10). -/
def servoRate (die c : Nat) : Nat := 1599840 + Config.servo die c % 321

/-- The time at the servo's rate after one more cycle. -/
def TraceClock.run (k : TraceClock) (rate : Nat) : TraceClock := if k.locked then { k with ideal := k.ideal + rate } else k

/-- May a counter advance by `x` sixteenths: to within one sixteenth of the time at its rate? An unlocked counter is no count of
the servo's. -/
def TraceClock.mayStep (k : TraceClock) (x : Nat) : Bool :=
  if k.locked then (x == 8 || x == 9) && decide (apart ((k.base + x) * 190000) k.ideal ≤ 190000) else x == 0

def TraceClock.stepBy (k : TraceClock) (x : Nat) : TraceClock := { k with base := k.base + x }

/-- Both clocks after cycle `c`: each advances by 8 or 9 sixteenths, as the servo has it and near the time at its rate, and those
that hold lock stay within 2 ns of each other (24 R375). -/
def clocksTick (k : TraceClock × TraceClock) (c : Nat) : TraceClock × TraceClock :=
  let both := k.1.held && k.2.held
  let p := k.1.run (servoRate 0 c)
  let q := k.2.run (servoRate 1 c)
  let q := if both && decide (32 * 190000 < apart p.ideal q.ideal) then k.2.run (servoRate 0 c) else q
  let ok := fun (x : Nat × Nat) => p.mayStep x.1 && q.mayStep x.2 && (!both || decide (apart (p.base + x.1) (q.base + x.2) ≤ 32))
  let want := (if p.locked then 8 + b2n (Config.longTick 0 c) else 0, if q.locked then 8 + b2n (Config.longTick 1 c) else 0)
  let x := (([want, (8, 8), (8, 9), (9, 8), (9, 9), (8, 0), (9, 0), (0, 8), (0, 9)].find? ok).getD (8, 8))
  (p.stepBy x.1, q.stepBy x.2)

def clocksRun (k : TraceClock × TraceClock) (c : Nat) : Nat → TraceClock × TraceClock
  | 0 => k
  | n + 1 => clocksRun (clocksTick k c) (c + 1) n

/-- Contexts that hold a core of cluster `cl` (10 R228). -/
def ctxsOfCluster (s : State) (cl : Nat) : List Nat :=
  ((listedCores s).filter (fun p => p.1 / 8 == cl && p.2.task.isSome)).foldl
    (fun l p => if l.contains p.2.ctx.toNat then l else p.2.ctx.toNat :: l) []

/-- Can core `v` take a task: started, and it holds none (25 R394)? -/
def freeCore (s : State) (v : Nat) : Bool :=
  let c := getCore s v
  (c.mode == .idle || c.mode == .run) && c.task.isNone && !c.halted && !stalledSrc s v

/-- The cores of a cluster. -/
def coresOf (cl : Nat) : List Nat := (List.range 8).map (fun i => cl * 8 + i)

/-- Is a ready queue of cluster `cl` not empty? -/
def anyReady (s : State) (cl : Nat) : Bool := s.gangs.any (fun g => g.cluster == some cl && g.st == .ready && !g.aside)

/-- Clusters that hold a task and search for work (10 R228). -/
def searching (s : State) : List Nat :=
  let cls := (listedCores s).foldl (fun (l : List Nat) p => if p.2.task.isSome && !l.contains (p.1 / 8) then (p.1 / 8) :: l else l) []
  cls.filter (fun cl => (coresOf cl).any (freeCore s) && !anyReady s cl)

def tickCore (dt : Nat) (c : Core) : Core := if c.task.isSome then { c with holdCycles := c.holdCycles + dt } else c

/-- The run and search counters of the contexts (10 R228). A core that stalls on the record of a task that it holds no longer runs
(24 R386). -/
def tickCtxs (s : State) (dt : Nat) : State :=
  let run := fun (st : State) (x : Nat) => updCtx st x (fun c => { c with run := c.run + dt })
  let s0 := (listedCores s).foldl (fun st p => if p.2.task.isSome then run st p.2.ctx.toNat else st) s
  let s1 := ((heads s.trc.waiting).filter (fun r => decide (r.src < 512) && (getCore s r.src).task.isNone)).foldl (fun st r => run st r.ctx) s0
  (searching s).foldl (fun st cl =>
    let l := ctxsOfCluster s cl
    l.foldl (fun st2 x => updCtx st2 x (fun c => { c with search := c.search + dt * (840 / l.length) })) st) s1

/-! A context that stands still (10 R225) -/

/-- Does a core wait in a full/empty access, in `gbar` or in `bard`? -/
def waitsOn : Wait → Bool
  | .fe _ _ => true
  | .gbar _ _ => true
  | .bard _ _ => true
  | _ => false

/-- The context of a request without its answer. -/
def Out.ofCtx (ctx : Nat) (o : Out) : Bool :=
  match o.forw with
  | .fwd p => p.ctx.toNat == ctx
  | _ => o.ctx == ctx

/-- Do all tasks of a context wait, with no engine operation, request, prefetch or record of it anywhere, and no trace stall (24
R386)? -/
def standsStill (s : State) (ctx : Nat) : Bool :=
  let mine := s.gangs.filter (fun g => g.ctx == ctx)
  !mine.isEmpty &&
  mine.all (fun g => g.st == .parked || (g.st == .running && g.members.all (fun m => if m.ended then !m.writing else
    match m.core with
    | some v => waitsOn (getCore s v).wait && (getCore s v).ssb.isNone
    | none => false))) &&
  !s.clusters.any (fun p => p.2.copies.any (fun q => q.ctx == ctx)) &&
  !s.grids.any (fun g => g.ctx == ctx && (!g.started || decide (g.next < g.total))) &&
  !s.fab.outs.any (Out.ofCtx ctx) && !s.trc.waiting.any (fun r => r.ctx == ctx)

def watchStall (s : State) (x : Nat) (c : Ctx) : Ctx :=
  if standsStill s x then { c with stallSince := some (c.stallSince.getD s.cycle.toNat) } else { c with stallSince := none, stallOnset := false }

/-- Engine sources that have an operation in progress (24 R377, R389; log 85). -/
def busySources (s : State) : List Nat :=
  (s.clusters.filter (fun p => !p.2.copies.isEmpty)).map (fun p => 512 + p.1) ++
  (s.gangs.foldl (fun (l : List Nat) g =>
    match g.cluster with
    | some cl => if (g.st == .prefetch || g.st == .ending) && !l.contains (576 + cl) then (576 + cl) :: l else l
    | none => l) []) ++
  (s.bqes.filter (fun p => !p.2.tasks.isEmpty || !p.2.grids.isEmpty)).map (fun p => 640 + p.1) ++
  [0, 1].flatMap (fun d =>
    (if s.bards.any (fun r => r.pa / 2 ^ 38 % 2 == d) then [648 + d] else []) ++
    (if s.fab.outs.any (fun o => o.forw.fiu == d) then [650 + d] else []) ++
    (if s.trc.waiting.any (fun r => bufWriter r.buf == 652 + d) then [652 + d] else []))

/-- Of the next `n` cycles from `c` on, those in which back-pressure keeps a source from going on (24 R389). -/
def heldCycles (src c : Nat) : Nat → Nat
  | 0 => 0
  | n + 1 => b2n (Config.heldUp src c) + heldCycles src (c + 1) n

/-- `dt` cycles pass. -/
def tick (s : State) (dt : Nat) : State :=
  let k := (s.clock0, s.clock1)
  let k1 := if s.clock0.locked || s.clock1.locked then clocksRun k s.cycle.toNat dt else k
  let s1 := tickCtxs s dt
  { s1 with
    cycle := s.cycle + BitVec.ofNat 64 dt
    ctxs := s1.ctxs.map (fun p => (p.1, watchStall s p.1 p.2))
    clock0 := k1.1
    clock1 := k1.2
    core := tickCore dt s1.core
    others := s1.others.map (fun p => (p.1, tickCore dt p.2))
    busy := (busySources s).foldl (fun b e => b.insert e (b.getD e 0 + dt)) s.busy
    estall := ((busySources s).filter (fun e => !stalledSrc s e)).foldl
      (fun b e => b.insert e (b.getD e 0 + heldCycles e s.cycle.toNat dt)) s.estall }

/-! Events at an instruction boundary (06 R134) -/

inductive Due where
  | deferred (i : Intr)
  | halt
  | intr (i : Intr)
  | preempt
  deriving DecidableEq, Repr

/-- May the active core take an event of this level and context now? -/
def takeable (s : State) (i : Intr) : Bool :=
  let c := s.core
  match i.lvl, c.priv with
  | .k, .h => false
  | .k, p =>
    c.mode == .idle ||
    ((i.ctx == c.ctx.toNat || (readRec s i.ctx).vm == (readRec s c.ctx.toNat).vm) && (p == .u || c.status.kie))
  | _, .h => c.status.hie
  | _, _ => true

/-- The interrupt of the least cause that may be taken. -/
def leastIntr (s : State) : List Intr → Option Intr
  | [] => none
  | i :: r =>
    match leastIntr s r with
    | none => if takeable s i then some i else none
    | some j => if takeable s i && decide (i.code ≤ j.code) then some i else some j

/-- The event that the active core takes at a boundary, in the order of 06 R134. -/
def dueEvent (s : State) : Option Due :=
  let c := s.core
  match c.pend.deferred.find? (takeable s) with
  | some i => some (.deferred i)
  | none =>
    if c.pend.halt then some .halt
    else
      match leastIntr s c.pend.intrs with
      | some i => some (.intr i)
      | none =>
        if c.task.isSome && c.pend.preempt && c.wait != .stopped && c.wait != .drain && (c.priv == .u || (c.priv == .k && c.status.kie)) then some .preempt
        else none

/-- Can the active core take events at all, and is it at a boundary? A trace stall admits none (24 R385); the wait of a
`tend` or a park admits all but a pre-emption (16 R309). -/
def atBoundary (s : State) : Bool :=
  let c := s.core
  (c.mode == .run || c.mode == .idle || c.mode == .irq) && !c.halted && !stalledSrc s s.cur &&
  (match c.wait with
   | .none => true
   | .issue => true
   | .bank _ _ => true
   | .engine _ _ => true
   | .gbar _ _ => true
   | .sleep _ _ _ => true
   | .stopped => true
   | .drain => true
   | _ => false)

/-- Leave the instruction under way for an event (02 R39, 06 R129). A member that has stopped for its gang's save stops
again at the next boundary that admits it (04 R98). -/
def leaveFor (s : State) : State :=
  let c := s.core.suspend
  flushXsts { s with core := { c with wait := .none, retouch := false, pend := { c.pend with preempt := c.pend.preempt || c.wait == .stopped } } } s.cur

/-- Take an interrupt or a deferred error: an idle core enters the handler of the context that the event targets, at its own
`tvec.k` (DESIGN CHOICE, log 95: 06 R134 does not say whose, and 06 R124 gives `tvec.k` to the core). -/
def takeIntr (s : State) (i : Intr) (intr : Bool) : State :=
  let s1 := leaveFor s
  let c := s1.core
  let s2 :=
    if c.mode = .idle then
      { s1 with core := { c with mode := .irq, ctx := if i.lvl = .k then BitVec.ofNat 6 i.ctx else c.ctx, priv := .u, lastCtx := none } }
    else s1
  let lvl := match s2.core.priv, i.lvl with
    | .h, _ => .h
    | _, l => l
  enterAt s2 lvl i.code i.sub i.tval intr s2.core.pc

/-- The active core halts at its boundary (24 R391); a scan stops at the end of its chunk (16 R308). -/
def haltActive (s : State) : State :=
  let c := s.core.suspend
  flushXsts { s with core := { c with
      wait := .none, halted := true, pend := { c.pend with preempt := c.pend.preempt || s.core.wait == .stopped }
      ssb := c.ssb.map Scan.ask, afterRett := c.afterRett || s.core.cont.isSome } } s.cur

/-- The active core halts where it stands, and a halt record says so; one that stalls on a trace record halts when its stall ends
(24 R385, R391). -/
def haltHere (s : State) : State :=
  haltRecord (if stalledSrc s s.cur then { s with core := { s.core with pend := { s.core.pend with halt := true } } } else haltActive s)
    0 s.cur 0 false

/-- Take the event. -/
def takeDue (s : State) (d : Due) : State :=
  match d with
  | .deferred i =>
    takeIntr { s with core := { s.core with pend := { s.core.pend with deferred := s.core.pend.deferred.erase i } } } i false
  | .halt =>
    haltActive { s with core := { s.core with pend := { s.core.pend with halt := false } } }
  | .intr i => takeIntr { s with core := { s.core with pend := { s.core.pend with intrs := s.core.pend.intrs.erase i } } } i true
  | .preempt =>
    let c := s.core.suspend
    flushXsts { s with core := { c with
        wait := .stopped, pend := { c.pend with preempt := false },
        afterRett := c.afterRett || s.core.cont.isSome } } s.cur

/-! Breakpoints (24 R390) -/

/-- The lowest breakpoint entry that matches the instruction about to issue. -/
def bkptHit (s : State) : Option Nat :=
  let c := s.core
  if c.skipBkpt || c.cont.isSome || c.task.isNone || c.priv == .h then none
  else
    firstBelow (fun n =>
      let e := (s.mgmt.bkpts.getD n 0).toNat
      bitOf e 63 && fld e 53 48 == c.ctx.toNat && fld e 47 1 * 2 == c.pc.toNat) 16

/-- What the breakpoint does; the halt emits a halt record (24 R391). -/
def atBkpt (s : State) (n : Nat) : State :=
  let stops := bitOf (s.mgmt.bkpts.getD n 0).toNat 62
  let s1 := emitCore s 0x13 8 1 (n + 16 * b2n stops) none
  if stops then haltHere { s1 with core := { s1.core with skipBkpt := true } }
  else takeTrap s1 0 { code := 16, tval := BitVec.ofNat 64 n }

/-! Fetch (02 R57, 07 R147) -/

/-- One parcel at `va`, through the fetch buffer: a byte that another agent wrote after the buffer took its block, or that
the core itself wrote since its last `isync`, may still be the old one. Of one in error nothing is known (25 R399). -/
def fetchParcel (va : Nat) : M Nat := do
  let s ← getS
  let a := me s
  let l ← translate a va 4
  checkTile a va l
  guardT (l.place != .remote) (accTrap va false 6)
  let b := l.at_ / 64
  let s ← getS
  let old := if s.core.fbuf.block = some b then s.core.fbuf.old else []
  let own := s.core.fbuf.own
  modC (fun c => { c with fbuf := ⟨some b, l.kv, old, own⟩ })
  let bad := eccHit s l.at_ 2
  eccOnce bad
  let cur ← if bad then liftS (fun s => freeBytes s 2) else loadAt l 2
  let was := (List.range 2).map (fun i => (own.find? (l.at_ + i)).getD ((old.find? (l.at_ + i)).getD (cur.getD i 0)))
  if was = cur then pure (ofLe cur)
  else do
    let n ← liftS (fun st => pick st 2)
    pure (ofLe (if n = 0 then was else cur))

/-- Fetch and decode from parcel `n` on: `acc` holds the parcels met. -/
inductive Fetched where
  | ok (i : Instr) (s : State)
  | trap (t : Trap) (s : State)

noncomputable def fetchFrom (s : State) (acc : List Nat) : Nat → Fetched
  | 0 => .trap { code := 1 } s
  | f + 1 =>
    match fetchParcel ((s.core.pc.toNat + 2 * acc.length) % 2 ^ 48) s with
    | .error t =>
      match pfxRule acc with
      | some p => .trap { code := 1, tval := BitVec.ofNat 64 p } s
      | none => .trap t s
    | .ok (p, s1) =>
      match decodeParcels (acc ++ [p]) with
      | .more => fetchFrom s1 (acc ++ [p]) f
      | .bad t => .trap { code := 1, tval := BitVec.ofNat 64 t } s1
      | .ok i _ => .ok i s1

/-- The instruction at the pc of the active core: at most four prefixes and ten parcels (02 R21, R29). -/
noncomputable def fetch (s : State) : Fetched := fetchFrom s [] 14

/-- A device whose cores and engines a thermal trip has stopped (25 R400). -/
def tripped (s : State) : Bool := s.mgmt.phase == 0xFE

/-- The bytes of parcels, in memory order (02 R21). -/
def bytesOfParcels (ps : List Nat) : List Byte := ps.flatMap (leBytes 2)

end Sys2Proof.Machine
end

