-- ==== Sys2Proof/Machine/Access.lean ====
section
/-!
DEFINITION. Loads and stores of a core at a virtual address, with their order and scope (07 R153, R154; 21 R357 to
R359; 23 R369 to R373), and the completion of an instruction that waited for another unit.
-/
namespace Sys2Proof.Machine

open Host (Outcome)

/-- Scopes, numbered as `fence` does (02 R40): 0 core, 1 cluster, 2 device, 3 system. -/
abbrev Scope := Nat

/-- The scope field of a memory access names cluster, device, system (02 R49). -/
def memScope (x : BitVec 2) : Scope := x.toNat + 1

/-- An instruction that waited completes: its registers are written, one iteration retires, and where it was the last
the windows of earlier instructions count it and its own opens (02 R36, R37). -/
def Core.complete (c : Core) (size : Nat) : Core :=
  let d := { c.retire size with wait := .none, opening := none }
  if d.cont.isSome then d
  else
    let e := d.countWins
    match c.opening with
    | none => e
    | some w => { e with wins := e.wins ++ [w] }

/-- What a release of this scope makes the core perform first: its stores, but at cluster scope not those to cached memory
and at core scope only those to pinned pages, and past core scope the writes of `xst` (05 R100, 07 R146). -/
def releaseBefore (scope : Scope) : M Unit :=
  if scope = 0 then modS (fun s => drainSome s s.cur (fun e => e.slot.isNone))
  else if scope = 1 then modS (fun s => drainSome (flushXsts s s.cur) s.cur (fun e => !e.cached))
  else modS (fun s => drainCore (flushXsts s s.cur) s.cur)

/-- What an acquire of this scope does after the access. -/
def acquireAfter (scope : Scope) : M Unit := if 2 ≤ scope then modC invalL1 else pure ()

/-- A release past core scope, which orders never-cached accesses at least, waits for the acknowledgements of the core's remote
stores (07 R146, 21 R359). -/
def ackWait (rel : Bool) (scope : Scope) : M Bool := fun s => .ok (rel && decide (1 ≤ scope) && storesOut s s.cur none, s)

/-- A seq-cst load waits for them too: it comes after the core's earlier seq-cst stores in their one order (07 R154). -/
def orderWait (s : State) (order : Nat) : Bool := order == 2 && storesOut s s.cur none

/-- The kind-specific field of a load or store packet: bytes - 1, order, scope. -/
def accSub (n order scope : Nat) : Nat := (n - 1) % 64 + 64 * (order % 4) + 256 * (scope % 4)

/-- The channel of a load or store (21 R357). -/
def chanOf (sync : Bool) (order : Nat) : Nat := if sync || order != 0 then 1 else 0

/-- Is a remote place in a multicast window (21 R360, R363)? -/
def mcast (s : State) (l : Loc) : Bool :=
  if l.node = s.fab.own.toNat then
    let w := ((s.fab.windows.getD (l.at_ / 2 ^ 42 % 64) []).getD 0 0).toNat
    bitOf w 63 && fld w 62 60 == 2
  else Config.multicastWindow l.node (l.at_ / 2 ^ 42 % 64)

/-- The channel of a remote store (21 R357). -/
def storeChan (s : State) (l : Loc) (order : Nat) : Nat := if mcast s l then 3 else chanOf l.sync order

/-- A store waits while one of this core to the same remote doubleword, on another channel, has no acknowledgement: two
plain stores alone may be performed in either order (23 R369). -/
def orderedBehind (s : State) (l : Loc) (order : Nat) : Bool :=
  s.fab.outs.any (fun o => match o.forw with
    | .store w _ => w == s.cur && o.dst == l.node && o.addr / 8 == l.at_ / 8 && o.chan != storeChan s l order
    | _ => false)

/-- Send a remote store of the active core: a multicast store to a multicast window (21 R363). -/
def sendStore (s : State) (l : Loc) (order scope va : Nat) (bytes : List Byte) : State :=
  sendReq s l.node (if mcast s l then 8 else 1) (storeChan s l order) l.at_ s.core.ctx.toNat
    (if mcast s l then (bytes.length - 1) % 64 else accSub bytes.length order scope) bytes va (.store s.cur s.core.pc.toNat)

/-- Ask a remote node for `n` bytes; false where the request must wait at issue. -/
def askRemote (l : Loc) (va n order scope : Nat) (forw : ReplyFor) : M Bool := do
  let s ← getS
  let chan := chanOf l.sync order
  if storesOut s s.cur (some (l.node, l.at_)) || orderWait s order || !canSend s (dieOf s.cur) l.node chan true then pure false
  else do
    modS (fun s => sendReq s l.node 0 chan l.at_ s.core.ctx.toNat (accSub n order scope) [] va forw)
    pure true

/-- Bytes that hold an uncorrectable error become bytes that nothing is known of (25 R399). -/
def garble (s : State) (kv a n : Nat) : State :=
  if eccHit s a n then
    let f := freeBytes s n
    homeWrite f.2 none kv a f.1
  else s

/-- An access of the active core, performed at its home, meets bytes in error there: it is reported, and goes on with values that
nothing is known of (25 R399). -/
def meetEcc (kv a n : Nat) : M Unit := do
  let s ← getS
  eccPost (eccHit s a n)
  modS (fun s => garble s kv a n)

/-- Load at a place of this device: a seq-cst load that its scope orders reads its home. -/
def loadHome (l : Loc) (n order : Nat) (scope : Scope) : M (List Byte) :=
  if order == 2 && (!l.cached || 2 ≤ scope) then do
    modS (fun s => drainAt s s.cur l.at_ n)
    let s ← getS
    pure (homeRead s l.kv l.at_ n)
  else loadAt l n

/-- The bytes read, and whether they are in error: then nothing is known of them. -/
def readLoc (l : Loc) (n order : Nat) (scope : Scope) : M (List Byte × Bool) := do
  let b ← loadHome l n order scope
  let s ← getS
  if eccHit s l.at_ n then do
    let f ← liftS (fun s => freeBytes s n)
    pure (f, true)
  else pure (b, false)

def loadLoc (l : Loc) (n order : Nat) (scope : Scope) : M (List Byte) := do
  let q ← readLoc l n order scope
  eccPost q.2
  pure q.1

/-- Store at a place of this device, after the release before it: a seq-cst store that its scope orders is performed at
once. -/
def storeLoc (l : Loc) (bytes : List Byte) (order : Nat) (scope : Scope) : M Unit :=
  if order == 2 && (!l.cached || 2 ≤ scope) then
    modS (fun s => homeWrite (drainAt { s with core := s.core.storeL1 s l bytes } s.cur l.at_ bytes.length) (some s.cur) l.kv l.at_ bytes)
  else storeAt l bytes

/-! Banks of the scratchpad (19 R331, R338) -/

/-- The bank of an address of the scratchpad. -/
def bankOf (va : Nat) : Nat := fld va 9 6

/-- Does core `v` come before core `u` in bank `b`'s turn, which counts upward from the core after its last winner? -/
def bankBefore (s : State) (cl b v u : Nat) : Bool :=
  let w := (getCl s cl).winners.getD b 7
  decide ((v + 15 - w) % 8 < (u + 15 - w) % 8)

/-- Has this wait been presented to bank `b` in an earlier cycle? -/
def Wait.presented (w : Wait) (b now : Nat) : Bool :=
  match w with
  | .bank bs t => bs.contains b && decide (t < now)
  | _ => false

/-- Does bank `b` accept the access of the active core now: it was presented in an earlier cycle, so that all that were presented
in that cycle are known, the bank has accepted none in this one, and no core of the cluster that comes before waits for it? -/
def bankFree (s : State) (b : Nat) : Bool :=
  let cl := clusterOf s.cur
  (match s.core.asked with | some t => decide (t < s.cycle.toNat) | none => false) &&
  (getCl s cl).accepts.getD b 0 != s.cycle.toNat + 1 &&
  !(List.range 8).any (fun u => u != s.cur % 8 && (getCore s (cl * 8 + u)).wait.presented b s.cycle.toNat && bankBefore s cl b u (s.cur % 8))

/-- The bank accepts the access of core `v`. -/
def bankTake (s : State) (v b : Nat) : State :=
  updCl s (clusterOf v) (fun c => { c with winners := c.winners.insert b (v % 8), accepts := c.accepts.insert b (s.cycle.toNat + 1) })

/-- Is an access one that the bank ALUs order: of a gang member to a gang-shared tile? -/
def gangShared (s : State) (v va : Nat) (l : Loc) : Bool :=
  l.place == .pad && (let o := ownerOf s (clusterOf v) (tileOf va); decide (0x10 ≤ o) && decide (o < 0x18))

/-- The active core's accesses to these banks are accepted, all at once; false where one is not: the core waits for them. -/
def takeBanks (l : List Nat) : M Bool := do
  let s ← getS
  if l.all (bankFree s) then do
    modS (fun s => l.foldl (fun st b => bankTake st s.cur b) s)
    pure true
  else do
    modC (fun c => { c with wait := .bank l (c.asked.getD s.cycle.toNat) })
    pure false

/-- Does a trace stall, or a result that one has held back, keep a synchronisation engine from starting an access (24 R385)? -/
def syeBusy (s : State) (src : Nat) : Bool := stalledSrc s src || s.bards.any (fun r => r.told && syeSrc r.pa == src)

/-- Is it one that performs accesses to this place? -/
def syeStalled (s : State) (l : Loc) : Bool := l.place == .hbm && l.sync && syeBusy s (syeSrc l.at_)

/-- The turn of an access where it is performed: at its bank, where it is one to a gang-shared tile, or at a synchronisation engine. -/
def bankTurn (va : Nat) (l : Loc) : M Bool := do
  let s ← getS
  if gangShared s s.cur va l then takeBanks [bankOf va]
  else if syeStalled s l then do
    modC (fun c => { c with wait := .issue })
    pure false
  else pure true

/-! Scalar accesses -/

/-- Load `n` bytes inside one line by a core: order 0 plain, 1 acquire, 2 seq-cst. None: the instruction waits for the
reply, or at issue. -/
def loadVa (va n order : Nat) (scope : Scope) (forw : Nat → ReplyFor) : M (Option (List Byte)) := do
  let s ← getS
  let a := me s
  let l ← translate a va 1
  checkTile a va l
  if l.place == .remote then do
    let tag := nextTagOf s l.node (forw s.cur)
    let sent ← askRemote l va n order scope (forw s.cur)
    modC (fun c => { c with wait := if sent then .reply tag else .issue })
    pure none
  else if orderWait s order then do
    modC (fun c => { c with wait := .issue })
    pure none
  else do
    let ok ← bankTurn va l
    if ok then do
      let b ← loadLoc l n order scope
      if order == 0 then pure () else acquireAfter scope
      pure (some b)
    else pure none

/-- Store bytes inside one line by a core: order 0 plain, 1 release, 2 seq-cst. False: the instruction waits at issue. -/
def storeVa (va : Nat) (bytes : List Byte) (order : Nat) (scope : Scope) : M Bool := do
  let s ← getS
  let a := me s
  let l ← translate a va 2
  checkTile a va l
  let w ← ackWait (order != 0) scope
  let hold : M Bool := do
    modC (fun c => { c with wait := .issue })
    pure false
  if w then hold
  else if l.place == .remote then
    if !canSend s (dieOf s.cur) l.node (storeChan s l order) false || orderedBehind s l order then hold
    else do
      if order == 0 then pure () else releaseBefore scope
      modS (fun s => sendStore s l order scope va bytes)
      pure true
  else do
    let ok ← bankTurn va l
    if ok then do
      logWrite a l
      if order == 0 then pure () else releaseBefore scope
      storeLoc l bytes order scope
      pure true
    else pure false

/-- The value that a load of `n` bytes gives its register (07 R153). -/
def loadValue (sx : Bool) (n : Nat) (bs : List Byte) : Word := if sx then sextW (ofLe bs) (8 * n) else BitVec.ofNat 64 (ofLe bs)

/-- The gang of core `v`. -/
def gangOfCore (s : State) (v : Nat) : Option Gang := (getCore s v).task.bind (fun r => gangOf s r.gid)

end Sys2Proof.Machine
end

