-- ==== Sys2Proof/Machine/Scalar.lean ====
section
/-!
DEFINITION. Scalar arithmetic: majors 0x1 to 0x3 and page 5 (07 R148 to R151). No instruction of this file raises a cause
of its own.
-/
namespace Sys2Proof.Machine

open Host (Outcome)

/-- Shift amounts are the low six bits (07 R149). -/
def sh6 (b : Word) : Nat := b.toNat % 64

/-- Quotient truncated toward zero, with the cases that 07 R150 decides. -/
def sdivW (a b : Word) : Word := if b = 0 then BitVec.allOnes 64 else BitVec.ofInt 64 (a.toInt.tdiv b.toInt)
def sremW (a b : Word) : Word := if b = 0 then a else BitVec.ofInt 64 (a.toInt.tmod b.toInt)
def udivW (a b : Word) : Word := if b = 0 then BitVec.allOnes 64 else BitVec.ofNat 64 (a.toNat / b.toNat)
def uremW (a b : Word) : Word := if b = 0 then a else BitVec.ofNat 64 (a.toNat % b.toNat)

/-- Leading and trailing zero bits of a 64-bit number (07 R150). -/
def clz64 (x : Nat) : Nat := 64 - bitLen x

def ctzAux : Nat → Nat → Nat
  | 0, _ => 0
  | f + 1, x => if x % 2 = 1 then 0 else 1 + ctzAux f (x / 2)

def ctz64 (x : Nat) : Nat := ctzAux 64 x

/-- Bit i moved to bit n - 1 - i. -/
def brevAux : Nat → Nat → Nat → Nat
  | 0, r, _ => r
  | f + 1, r, x => brevAux f (2 * r + x % 2) (x / 2)

/-- The bits of `a` that `b` selects, packed at the low end (07 R150). -/
def bextAux : Nat → Nat → Nat → Nat
  | 0, _, _ => 0
  | f + 1, a, b => if b % 2 = 1 then a % 2 + 2 * bextAux f (a / 2) (b / 2) else bextAux f (a / 2) (b / 2)

def boolW (b : Bool) : Word := if b then 1 else 0

/-- The frame of a register-register instruction (07 R148). -/
def rrIns (r : Raw) (unary : Bool) (o : RR) : Ins :=
  { Ins.of r with
    rep := o.rep, kd := .g, ks := .g, d := o.d.toNat, s := o.s.toNat
    reads := fun d s => regsOf .g s ++ (if unary then [] else match o.t with | none => regsOf .g d | some t => regsOf .g t.toNat)
    writes := fun d _ => regsOf .g d }

/-- The operands a and b of a binary instruction (07 R148). -/
def rrOps (o : RR) (d s : Nat) (c : Core) : Word × Word :=
  match o.t with
  | none => (c.getG d, c.getG s)
  | some t => (c.getG s, c.getG t.toNat)

def binRR (r : Raw) (o : RR) (f : Word → Word → Word) (s : State) : Outcome State Fault Refusal :=
  issue (rrIns r false o) noPre (fun d sf _ => do
    let st ← getS
    let p := rrOps o d sf st.core
    wG d (f p.1 p.2)
    pure .seq) s

def unRR (r : Raw) (o : RR) (f : Word → Word) (s : State) : Outcome State Fault Refusal :=
  issue (rrIns r true o) noPre (fun d sf _ => do
    let a ← rG sf
    wG d (f a)
    pure .seq) s

/-- The frame of an immediate instruction: it reads g(d) unless `li`. -/
def riIns (r : Raw) (rd : Bool) (o : RI) : Ins :=
  { Ins.of r with
    rep := o.rep, kd := .g, d := o.d.toNat
    reads := fun d _ => if rd then regsOf .g d else []
    writes := fun d _ => regsOf .g d }

def opRI (r : Raw) (o : RI) (f : Word → Word) (s : State) : Outcome State Fault Refusal :=
  issue (riIns r true o) noPre (fun d _ _ => do
    let a ← rG d
    wG d (f a)
    pure .seq) s

/-- A signed immediate as a word (02 R30). -/
def immW (w : Nat) (x : ImmF) : Word := BitVec.ofInt 64 (x.sval w)
/-- A shift immediate (07 R151). -/
def immSh (x : ImmF) : Nat := x.raw % 64

/-- `add` (07 R149). -/
def execAdd (o : RR) (s : State) : Outcome State Fault Refusal :=
  binRR (encRR none 0 o) o (fun a b => a + b) s

/-- `sub` (07 R149). -/
def execSub (o : RR) (s : State) : Outcome State Fault Refusal :=
  binRR (encRR none 1 o) o (fun a b => a - b) s

/-- `and` (07 R149). -/
def execAnd (o : RR) (s : State) : Outcome State Fault Refusal :=
  binRR (encRR none 2 o) o (fun a b => a &&& b) s

/-- `or` (07 R149). -/
def execOr (o : RR) (s : State) : Outcome State Fault Refusal :=
  binRR (encRR none 3 o) o (fun a b => a ||| b) s

/-- `xor` (07 R149). -/
def execXor (o : RR) (s : State) : Outcome State Fault Refusal :=
  binRR (encRR none 4 o) o (fun a b => a ^^^ b) s

/-- `sll` (07 R149). -/
def execSll (o : RR) (s : State) : Outcome State Fault Refusal :=
  binRR (encRR none 5 o) o (fun a b => a <<< sh6 b) s

/-- `srl` (07 R149). -/
def execSrl (o : RR) (s : State) : Outcome State Fault Refusal :=
  binRR (encRR none 6 o) o (fun a b => a >>> sh6 b) s

/-- `sra` (07 R149). -/
def execSra (o : RR) (s : State) : Outcome State Fault Refusal :=
  binRR (encRR none 7 o) o (fun a b => a.sshiftRight (sh6 b)) s

/-- `mul` (07 R149). -/
def execMul (o : RR) (s : State) : Outcome State Fault Refusal :=
  binRR (encRR none 8 o) o (fun a b => a * b) s

/-- `mulhu` (07 R149). -/
def execMulhu (o : RR) (s : State) : Outcome State Fault Refusal :=
  binRR (encRR none 9 o) o (fun a b => BitVec.ofNat 64 (a.toNat * b.toNat / 2 ^ 64)) s

/-- `min` (07 R149). -/
def execMin (o : RR) (s : State) : Outcome State Fault Refusal :=
  binRR (encRR none 10 o) o (fun a b => if a.toInt ≤ b.toInt then a else b) s

/-- `max` (07 R149). -/
def execMax (o : RR) (s : State) : Outcome State Fault Refusal :=
  binRR (encRR none 11 o) o (fun a b => if a.toInt ≤ b.toInt then b else a) s

/-- `minu` (07 R149). -/
def execMinu (o : RR) (s : State) : Outcome State Fault Refusal :=
  binRR (encRR none 12 o) o (fun a b => if a.toNat ≤ b.toNat then a else b) s

/-- `maxu` (07 R149). -/
def execMaxu (o : RR) (s : State) : Outcome State Fault Refusal :=
  binRR (encRR none 13 o) o (fun a b => if a.toNat ≤ b.toNat then b else a) s

/-- `slt` (07 R149). -/
def execSlt (o : RR) (s : State) : Outcome State Fault Refusal :=
  binRR (encRR none 14 o) o (fun a b => boolW (decide (a.toInt < b.toInt))) s

/-- `sltu` (07 R149). -/
def execSltu (o : RR) (s : State) : Outcome State Fault Refusal :=
  binRR (encRR none 15 o) o (fun a b => boolW (decide (a.toNat < b.toNat))) s

/-- `div` (07 R150). -/
def execDiv (o : RR) (s : State) : Outcome State Fault Refusal :=
  binRR (encRR (some 5) 0 o) o sdivW s

/-- `divu` (07 R150). -/
def execDivu (o : RR) (s : State) : Outcome State Fault Refusal :=
  binRR (encRR (some 5) 1 o) o udivW s

/-- `rem` (07 R150). -/
def execRem (o : RR) (s : State) : Outcome State Fault Refusal :=
  binRR (encRR (some 5) 2 o) o sremW s

/-- `remu` (07 R150). -/
def execRemu (o : RR) (s : State) : Outcome State Fault Refusal :=
  binRR (encRR (some 5) 3 o) o uremW s

/-- `clz` (07 R150). -/
def execClz (o : RR) (s : State) : Outcome State Fault Refusal :=
  unRR (encRR (some 5) 4 o) o (fun a => BitVec.ofNat 64 (clz64 a.toNat)) s

/-- `ctz` (07 R150). -/
def execCtz (o : RR) (s : State) : Outcome State Fault Refusal :=
  unRR (encRR (some 5) 5 o) o (fun a => BitVec.ofNat 64 (ctz64 a.toNat)) s

/-- `popc` (07 R150). -/
def execPopc (o : RR) (s : State) : Outcome State Fault Refusal :=
  unRR (encRR (some 5) 6 o) o (fun a => BitVec.ofNat 64 (popCount 64 a.toNat)) s

/-- `brev` (07 R150). -/
def execBrev (o : RR) (s : State) : Outcome State Fault Refusal :=
  unRR (encRR (some 5) 7 o) o (fun a => BitVec.ofNat 64 (brevAux 64 0 a.toNat)) s

/-- `mulh` (07 R150). -/
def execMulh (o : RR) (s : State) : Outcome State Fault Refusal :=
  binRR (encRR (some 5) 8 o) o (fun a b => BitVec.ofInt 64 (a.toInt * b.toInt / (2 ^ 64 : Int))) s

/-- `bext` (07 R150). -/
def execBext (o : RR) (s : State) : Outcome State Fault Refusal :=
  binRR (encRR (some 5) 9 o) o (fun a b => BitVec.ofNat 64 (bextAux 64 a.toNat b.toNat)) s

/-- `ptag` (07 R150). -/
def execPtag (o : RR) (s : State) : Outcome State Fault Refusal :=
  unRR (encRR (some 5) 10 o) o (fun a => BitVec.ofNat 64 (a.toNat / 2 ^ 48)) s

/-- `pset` (07 R150). -/
def execPset (o : RR) (s : State) : Outcome State Fault Refusal :=
  binRR (encRR (some 5) 11 o) o (fun a b => BitVec.ofNat 64 (a.toNat % 2 ^ 48 + b.toNat % 2 ^ 16 * 2 ^ 48)) s

/-- `addi` (07 R151). -/
def execAddi (o : RI) (s : State) : Outcome State Fault Refusal :=
  opRI (encAddi o) o (fun a => a + immW 8 o.imm) s

/-- `slli` (07 R151). -/
def execSlli (o : RI) (s : State) : Outcome State Fault Refusal :=
  opRI (encRS 0 o) o (fun a => a <<< immSh o.imm) s

/-- `srli` (07 R151). -/
def execSrli (o : RI) (s : State) : Outcome State Fault Refusal :=
  opRI (encRS 1 o) o (fun a => a >>> immSh o.imm) s

/-- `srai` (07 R151). -/
def execSrai (o : RI) (s : State) : Outcome State Fault Refusal :=
  opRI (encRS 2 o) o (fun a => a.sshiftRight (immSh o.imm)) s

/-- `andi` (07 R151). -/
def execAndi (o : RI) (s : State) : Outcome State Fault Refusal :=
  opRI (encRS 3 o) o (fun a => a &&& immW 5 o.imm) s

/-- `ori` (07 R151). -/
def execOri (o : RI) (s : State) : Outcome State Fault Refusal :=
  opRI (encRS 4 o) o (fun a => a ||| immW 5 o.imm) s

/-- `xori` (07 R151). -/
def execXori (o : RI) (s : State) : Outcome State Fault Refusal :=
  opRI (encRS 5 o) o (fun a => a ^^^ immW 5 o.imm) s

/-- `li` (07 R151). -/
def execLi (o : RI) (s : State) : Outcome State Fault Refusal :=
  issue (riIns (encRS 6 o) false o) noPre (fun d _ _ => do
    wG d (immW 5 o.imm)
    pure .seq) s

/-- `mov` (07 R151). -/
def execMov (o : MovOp) (s : State) : Outcome State Fault Refusal :=
  issue
    { Ins.of (encMov o) with
      rep := o.rep, kd := .g, ks := .g, d := o.d.toNat, s := o.s.toNat
      reads := fun _ sf => regsOf .g sf
      writes := fun d _ => regsOf .g d } noPre (fun d sf _ => do
    let a ← rG sf
    wG d a
    pure .seq) s

end Sys2Proof.Machine
end

