-- ==== Sys2Proof/Machine/Control.lean ====
section
/-!
DEFINITION. System instructions of major 0x0, the return stack, jumps and branches (07 R144 to R147, R152; 06 R131, R136).
-/
namespace Sys2Proof.Machine

open Host (Outcome)

/-! The return stack (06 R131) -/

def stackTrap (sub va : Nat) : Trap := { code := 13, sub := sub, tval := BitVec.ofNat 64 va }

/-- Push a return address; false where the spill store waits at issue. -/
def pushRet (a : Addr) : M Bool := fun s =>
  let c := s.core
  match c.rstack with
  | [] => .ok (true, { s with core := { c with rstack := [a] } })
  | old :: rest =>
    if rest.length + 1 < 16 then .ok (true, { s with core := { c with rstack := c.rstack ++ [a] } })
    else if c.spilled.toNat = 65535 then .error (stackTrap 0 c.rsp.toNat)
    else
      match storeVa c.rsp.toNat (leBytes 8 old.toNat) 0 0 s with
      | .error t => .error (stackTrap t.code c.rsp.toNat)
      | .ok (false, s1) => .ok (false, s1)
      | .ok (true, s1) =>
        .ok (true, { s1 with core := { s1.core with
          rstack := rest ++ [a], rsp := addrPlus c.rsp 8, spilled := c.spilled + 1 } })

/-- What a `ret` does with the address it found: none of the entry is removed where the address is odd. -/
def popTo (a : Addr) (refilled : Bool) : M Flow := do
  guardT (!a.getLsbD 0) (misalign a.toNat)
  modC (fun c =>
    if refilled then { c with rsp := c.rsp - 8, spilled := c.spilled - 1 }
    else { c with rstack := c.rstack.dropLast })
  pure (.jump a)

def popRet (size : Nat) : M Flow := fun s =>
  let c := s.core
  match c.rstack.getLast? with
  | some a => popTo a false s
  | none =>
    if c.spilled = 0 then .error (stackTrap 0 0)
    else
      let va := (c.rsp - 8).toNat
      match loadVa va 8 0 0 (fun v => .pop v size) s with
      | .error t => .error (stackTrap t.code va)
      | .ok (none, s1) => .ok (.hold, s1)
      | .ok (some bs, s1) => popTo (BitVec.ofNat 48 (ofLe bs)) true s1

/-! Fences (07 R146) -/

def fenceBody (kind : Nat) (scope : Scope) : M Flow :=
  if kind = 3 then do
    modS (fun s => flushXsts s s.cur)
    pure .seq
  else do
    let rel := kind != 1
    let w ← ackWait rel scope
    if w then holdIssue
    else do
      if rel then releaseBefore scope else pure ()
      if kind != 2 then acquireAfter scope else pure ()
      pure .seq

/-! Instructions -/

def zIns (sub imm8 : Nat) : Ins := Ins.of (encZ sub imm8)
/-- The frame of an instruction that reads or writes the register in imm8. -/
def zdIns (sub : Nat) (d : BitVec 6) : Ins := { zIns sub d.toNat with writes := fun _ _ => regsOf .g d.toNat }
def zsIns (sub : Nat) (x : BitVec 6) : Ins := { zIns sub x.toNat with reads := fun _ _ => regsOf .g x.toNat }

/-- An instruction that only reads a counter or a number into g(d). -/
def readInto (sub : Nat) (d : BitVec 6) (f : State → Word) (s : State) : Outcome State Fault Refusal :=
  issue (zdIns sub d) noPre (fun _ _ _ => do
    let st ← getS
    wG d.toNat (f st)
    pure .seq) s

/-- `nop` (07 R144). -/
def execNop (s : State) : Outcome State Fault Refusal := issue (zIns 0 0) noPre (fun _ _ _ => pure .seq) s

/-- `fence` (07 R146). -/
def execFence (o : FenceOp) (s : State) : Outcome State Fault Refusal :=
  issue (zIns 1 (o.scope.toNat * 64 + o.kind.toNat * 16)) noPre (fun _ _ _ => fenceBody o.kind.toNat o.scope.toNat) s

/-- `trap` (07 R144). -/
def execTrap (o : BitVec 8) (s : State) : Outcome State Fault Refusal :=
  issue (zIns 2 o.toNat) noPre (fun _ _ _ => raise { code := 15, tval := BitVec.ofNat 64 o.toNat, after := true }) s

/-- `brk` (07 R144, R145): in a context with capture armed it halts the task, which goes on behind it (log 14). -/
def execBrk (o : BitVec 8) (s : State) : Outcome State Fault Refusal :=
  issue (zIns 3 o.toNat) noPre (fun _ _ _ => do
    let st ← getS
    if (getCtx st st.core.ctx.toNat).capture && st.core.task.isSome then do
      modS (fun st => emitCore st 0x13 8 1 16 none)
      modC (fun c => { c.retire 2 with skipBkpt := true })
      modS haltHere
      pure .leave
    else raise { code := 16, tval := BitVec.ofNat 64 o.toNat }) s

/-- `ret` (06 R131). -/
def execRet (s : State) : Outcome State Fault Refusal := issue (zIns 4 0) noPre (fun _ _ _ => popRet 2) s

/-- `rett` (06 R136). -/
def execRett (s : State) : Outcome State Fault Refusal :=
  issue (zIns 5 0) (fun st => if st.core.priv = .u then some (privTrap (zIns 5 0)) else none) (fun _ _ _ => do
    modC Core.rett
    pure .leave) s

/-- `isync` (07 R147). -/
def execIsync (s : State) : Outcome State Fault Refusal :=
  issue (zIns 6 0) noPre (fun _ _ _ => do
    modC (fun c => { c with fbuf := .empty })
    pure .seq) s

/-- `rdcyc` (01 R14). -/
def execRdcyc (o : BitVec 6) (s : State) : Outcome State Fault Refusal := readInto 7 o (fun st => st.cycle) s
/-- `rdtime` (24 R375). -/
def execRdtime (o : BitVec 6) (s : State) : Outcome State Fault Refusal :=
  readInto 8 o (fun st => BitVec.ofNat 64 (traceTime st (dieOf st.cur))) s
/-- `rdvc` (07 R144). -/
def execRdvc (o : BitVec 6) (s : State) : Outcome State Fault Refusal := readInto 9 o (fun st => BitVec.ofNat 64 st.cur) s
/-- `rdctx` (07 R144). -/
def execRdctx (o : BitVec 6) (s : State) : Outcome State Fault Refusal :=
  readInto 12 o (fun st => BitVec.ofNat 64 st.core.ctx.toNat) s

/-- The checks of an indirect transfer: pointer, then alignment (07 R144). -/
def jumpTarget (n : Nat) : M Addr := do
  let p ← rG n
  checkPtr false p
  checkAlign (!p.getLsbD 0) (ptrVa p)
  pure (BitVec.ofNat 48 (ptrVa p))

/-- `jr` (07 R144). -/
def execJr (o : BitVec 6) (s : State) : Outcome State Fault Refusal :=
  issue (zsIns 10 o) noPre (fun _ _ _ => do
    let a ← jumpTarget o.toNat
    pure (.jump a)) s

/-- `callr` (07 R144). -/
def execCallr (o : BitVec 6) (s : State) : Outcome State Fault Refusal :=
  issue (zsIns 11 o) noPre (fun _ _ _ => do
    let a ← jumpTarget o.toNat
    let s ← getS
    let ok ← pushRet (addrPlus s.core.pc 2)
    if ok then pure (.jump a) else holdIssue) s

/-- The target of a relative transfer (02 R42). -/
def relTarget (pc : Addr) (off : Int) : Addr := BitVec.ofNat 48 (vaAdd pc.toNat (2 * off))

/-- `j` (07 R152). -/
def execJ (o : ImmF) (s : State) : Outcome State Fault Refusal :=
  issue (Ins.of (encJ 0 o)) noPre (fun _ _ _ => do
    let s ← getS
    pure (.jump (relTarget s.core.pc (o.sval 11)))) s

/-- `call` (07 R152). -/
def execCall (o : ImmF) (s : State) : Outcome State Fault Refusal :=
  issue (Ins.of (encJ 1 o)) noPre (fun _ _ _ => do
    let s ← getS
    let ok ← pushRet (addrPlus s.core.pc (rawSize (encJ 1 o)))
    if ok then pure (.jump (relTarget s.core.pc (o.sval 11))) else holdIssue) s

/-- A one-register branch. -/
def branch1 (cond : Nat) (o : Br1) (f : Word → Bool) (s : State) : Outcome State Fault Refusal :=
  issue { Ins.of (encBr1 cond o) with reads := fun _ _ => regsOf .g o.s.toNat } noPre (fun _ _ _ => do
    let a ← rG o.s.toNat
    let s ← getS
    pure (if f a then .jump (relTarget s.core.pc (o.off.sval 6)) else .seq)) s

/-- A two-register branch. -/
def branch2 (cond : Nat) (o : Br2) (f : Word → Word → Bool) (s : State) : Outcome State Fault Refusal :=
  issue { Ins.of (encBr2 cond o) with reads := fun _ _ => regsOf .g o.s.toNat ++ regsOf .g o.t.toNat } noPre (fun _ _ _ => do
    let a ← rG o.s.toNat
    let b ← rG o.t.toNat
    let s ← getS
    pure (if f a b then .jump (relTarget s.core.pc (o.off.sval 6)) else .seq)) s

/-- `beqz` (07 R152). -/
def execBeqz (o : Br1) (s : State) : Outcome State Fault Refusal := branch1 0 o (fun a => a == 0) s
/-- `bnez` (07 R152). -/
def execBnez (o : Br1) (s : State) : Outcome State Fault Refusal := branch1 1 o (fun a => a != 0) s
/-- `bltz` (07 R152). -/
def execBltz (o : Br1) (s : State) : Outcome State Fault Refusal := branch1 2 o (fun a => a.msb) s
/-- `bgez` (07 R152). -/
def execBgez (o : Br1) (s : State) : Outcome State Fault Refusal := branch1 3 o (fun a => !a.msb) s
/-- `beq` (07 R152). -/
def execBeq (o : Br2) (s : State) : Outcome State Fault Refusal := branch2 0 o (fun a b => a == b) s
/-- `bne` (07 R152). -/
def execBne (o : Br2) (s : State) : Outcome State Fault Refusal := branch2 1 o (fun a b => a != b) s
/-- `blt` (07 R152). -/
def execBlt (o : Br2) (s : State) : Outcome State Fault Refusal := branch2 2 o (fun a b => decide (a.toInt < b.toInt)) s
/-- `bge` (07 R152). -/
def execBge (o : Br2) (s : State) : Outcome State Fault Refusal := branch2 3 o (fun a b => decide (b.toInt ≤ a.toInt)) s

end Sys2Proof.Machine
end

