-- ==== Sys2Proof/Machine/Flags.lean ====
section
/-!
DEFINITION. Number formats, rounding, flags, conversions, the stochastic generator, codebooks and the special
functions (03). A value is exact: a sign, an integer and an exponent; an inexact one holds the integer below it.
-/
namespace Sys2Proof.Machine

/-- A floating-point format (03 R58): bits, fraction bits, bias, the largest finite value as significand and exponent,
whether subnormal operands read as zero, and whether it has no infinities (E4M3). -/
structure FFmt where
  w : Nat
  m : Nat
  bias : Nat
  maxK : Nat
  maxQ : Int
  flush : Bool
  e4m3 : Bool
  deriving DecidableEq, Repr

def fp32 : FFmt := ⟨32, 23, 127, 2 ^ 24 - 1, 104, false, false⟩
def fp16 : FFmt := ⟨16, 10, 15, 2 ^ 11 - 1, 5, false, false⟩
def bf16 : FFmt := ⟨16, 7, 127, 2 ^ 8 - 1, 120, true, false⟩
def fE4m3 : FFmt := ⟨8, 3, 7, 14, 5, false, true⟩
def fE5m2 : FFmt := ⟨8, 2, 15, 7, 13, false, false⟩

/-- An exact value. A finite one is (-1)^neg (n + d) 2^e with d = 0, or, where `st`, some 0 < d < 1. -/
inductive FVal where
  | nan
  | inf (neg : Bool)
  | fin (neg : Bool) (n : Nat) (e : Int) (st : Bool)
  deriving DecidableEq, Repr

def FVal.zero (neg : Bool) : FVal := .fin neg 0 0 false

def FVal.isNan : FVal → Bool
  | .nan => true
  | _ => false

/-- Bits of the exponent field. -/
def FFmt.eb (f : FFmt) : Nat := f.w - 1 - f.m
/-- Exponent of the least significant bit of a subnormal. -/
def FFmt.qmin (f : FFmt) : Int := 1 - (f.bias : Int) - f.m

/-- The value that an encoding stands for (03 R58, R59). -/
def FFmt.dec (f : FFmt) (x : Nat) : FVal :=
  let neg := bitOf x (f.w - 1)
  let e := fld x (f.w - 2) f.m
  let fr := x % 2 ^ f.m
  let ones := 2 ^ f.eb - 1
  if e = ones ∧ f.e4m3 = false then (if fr = 0 then .inf neg else .nan)
  else if e = ones ∧ fr = 7 then .nan
  else if e = 0 then .fin neg (if f.flush then 0 else fr) f.qmin false
  else .fin neg (2 ^ f.m + fr) ((e : Int) - f.bias - f.m) false

/-- The canonical NaN (03 R58). -/
def FFmt.cnan (f : FFmt) : Nat := if f.e4m3 then 0x7F else (2 ^ f.eb - 1) * 2 ^ f.m + 2 ^ (f.m - 1)

def FFmt.infBits (f : FFmt) (neg : Bool) : Nat := b2n neg * 2 ^ (f.w - 1) + (2 ^ f.eb - 1) * 2 ^ f.m

/-- The encoding of k 2^q, a grid point of the format. -/
def FFmt.enc (f : FFmt) (neg : Bool) (sig : Nat) (q : Int) : Nat :=
  let sgn := b2n neg * 2 ^ (f.w - 1)
  let p := if sig = 2 ^ (f.m + 1) then (2 ^ f.m, q + 1) else (sig, q)
  if p.1 < 2 ^ f.m then sgn + p.1 else sgn + (p.2 + f.m + f.bias).toNat * 2 ^ f.m + (p.1 - 2 ^ f.m)

def flNV : Nat := 16
def flDZ : Nat := 8
def flOF : Nat := 4
def flUF : Nat := 2
def flNX : Nat := 1

/-- Rounding modes (03 R65). -/
inductive RMode where
  | rne | rtz | rdn | rup | sr
  deriving DecidableEq, Repr

def RMode.of (n : Nat) : RMode :=
  match n with
  | 1 => .rtz
  | 2 => .rdn
  | 3 => .rup
  | 4 => .sr
  | _ => .rne

/-- Round the magnitude (n + d) 2^e to a multiple of 2^q: the multiple and whether it is exact. `r` is the draw. -/
def roundAt (mode : RMode) (neg : Bool) (n : Nat) (e : Int) (st : Bool) (q : Int) (r : Nat) : Nat × Bool :=
  if q ≤ e then (n * 2 ^ (e - q).toNat, !st)
  else
    let sh := (q - e).toNat
    let sig := n / 2 ^ sh
    let low := n % 2 ^ sh
    let half := 2 ^ (sh - 1)
    let exact := low == 0 && !st
    let up :=
      match mode with
      | .rne => decide (half < low) || (low == half && (st || sig % 2 == 1))
      | .rtz => false
      | .rdn => neg && !exact
      | .rup => !neg && !exact
      | .sr => !exact && decide (2 ^ 32 ≤ low * 2 ^ 32 / 2 ^ sh + r)
    (sig + b2n up, exact)

/-- The result of an overflow (03 R66). -/
def FFmt.ovf (f : FFmt) (mode : RMode) (sat neg : Bool) : Nat :=
  let mx := f.enc neg f.maxK f.maxQ
  if sat || f.e4m3 then mx
  else
    match mode with
    | .rtz => mx
    | .rdn => if neg then f.infBits true else mx
    | .rup => if neg then mx else f.infBits false
    | _ => f.infBits neg

/-- Round an exact value to a format: bits and flags (03 R61, R65 to R67, R70). -/
def FFmt.round (f : FFmt) (mode : RMode) (sat : Bool) (r : Nat) (v : FVal) : Nat × Nat :=
  match v with
  | .nan => (f.cnan, 0)
  | .inf neg => if f.e4m3 then (f.cnan, flNV) else (f.infBits neg, 0)
  | .fin neg n e st =>
    if n = 0 ∧ st = false then (b2n neg * 2 ^ (f.w - 1), 0)
    else
      let qu := (bitLen n : Int) - 1 + e - f.m
      let q := if qu < f.qmin then f.qmin else qu
      let p := roundAt mode neg n e st q r
      if f.maxQ < q ∨ (f.maxQ = q ∧ f.maxK < p.1) then (f.ovf mode sat neg, flOF + flNX)
      else
        let tiny :=
          if q = qu then false
          else
            let u := roundAt mode neg n e st qu r
            u.1 != 0 && decide (u.1 < 2 ^ (f.m + 1) ∨ qu + 1 < f.qmin)
        (f.enc neg p.1 q, if p.2 then 0 else flNX + (if tiny then flUF else 0))

def rne (f : FFmt) (v : FVal) : Nat × Nat := f.round .rne false 0 v

/-! Arithmetic on exact values: the value and the flags that it raises before rounding (03 R61, R70) -/

/-- A finite value as an integer at exponent `e0`, which is not above its own. -/
def scaled (neg : Bool) (n : Nat) (e e0 : Int) : Int :=
  let x : Int := (n * 2 ^ (e - e0).toNat : Nat)
  if neg then -x else x

def minI (a b : Int) : Int := if a ≤ b then a else b

def ofScaled (x : Int) (e0 : Int) (zneg : Bool) : FVal :=
  if x = 0 then .zero zneg else .fin (decide (x < 0)) x.natAbs e0 false

def fadd (a b : FVal) : FVal × Nat :=
  match a, b with
  | .nan, _ => (.nan, 0)
  | _, .nan => (.nan, 0)
  | .inf s, .inf t => if s = t then (.inf s, 0) else (.nan, flNV)
  | .inf s, _ => (.inf s, 0)
  | _, .inf t => (.inf t, 0)
  | .fin s n e _, .fin t k d _ =>
    let e0 := minI e d
    (ofScaled (scaled s n e e0 + scaled t k d e0) e0 (s && t && n == 0 && k == 0), 0)

def FVal.negate : FVal → FVal
  | .nan => .nan
  | .inf s => .inf (!s)
  | .fin s n e st => .fin (!s) n e st

def FVal.absolute : FVal → FVal
  | .nan => .nan
  | .inf _ => .inf false
  | .fin _ n e st => .fin false n e st

def fmul (a b : FVal) : FVal × Nat :=
  match a, b with
  | .nan, _ => (.nan, 0)
  | _, .nan => (.nan, 0)
  | .inf s, .inf t => (.inf (s != t), 0)
  | .inf s, .fin t n _ _ => if n = 0 then (.nan, flNV) else (.inf (s != t), 0)
  | .fin s n _ _, .inf t => if n = 0 then (.nan, flNV) else (.inf (s != t), 0)
  | .fin s n e _, .fin t k d _ => (.fin (s != t) (n * k) (e + d) false, 0)

/-- a + b c, exact; a NaN addend raises nothing (03 R70). -/
def ffma (a b c : FVal) : FVal × Nat :=
  if a.isNan then (.nan, 0)
  else
    let p := fmul b c
    let r := fadd a p.1
    (r.1, p.2 ||| r.2)

/-- Numeric comparison of two values that are not NaN: -1, 0, 1. -/
def fcmp (a b : FVal) : Int :=
  match a, b with
  | .inf s, .inf t => if s = t then 0 else if s then -1 else 1
  | .inf s, _ => if s then -1 else 1
  | _, .inf t => if t then 1 else -1
  | .fin s n e _, .fin t k d _ =>
    let e0 := minI e d
    let x := scaled s n e e0
    let y := scaled t k d e0
    if x < y then -1 else if x = y then 0 else 1
  | _, _ => 0

def FVal.neg? : FVal → Bool
  | .nan => false
  | .inf s => s
  | .fin s _ _ _ => s

/-- 08 R178: -0 is below +0; a NaN operand gives NaN. -/
def fmin (a b : FVal) : FVal :=
  if a.isNan || b.isNan then .nan
  else if fcmp a b < 0 then a else if fcmp b a < 0 then b else if a.neg? then a else b

def fmax (a b : FVal) : FVal :=
  if a.isNan || b.isNan then .nan
  else if fcmp a b < 0 then b else if fcmp b a < 0 then a else if a.neg? then b else a

/-! Special functions (03 R75) -/

/-- 1/x. -/
def frcp (a : FVal) : FVal × Nat :=
  match a with
  | .nan => (.nan, 0)
  | .inf s => (.zero s, 0)
  | .fin s n e _ =>
    if n = 0 then (.inf s, flDZ)
    else
      let b := bitLen n + 80
      (.fin s (2 ^ b / n) (-e - b) (2 ^ b % n != 0), 0)

/-- 1/sqrt(x). -/
def frsq (a : FVal) : FVal × Nat :=
  match a with
  | .nan => (.nan, 0)
  | .inf s => if s then (.nan, flNV) else (.zero false, 0)
  | .fin s n e _ =>
    if n = 0 then (.inf s, flDZ)
    else if s then (.nan, flNV)
    else
      let odd := e % 2 = 1
      let n1 := if odd then 2 * n else n
      let h := (if odd then e - 1 else e) / 2
      let b := bitLen n1 + 80
      let r := isqrt (2 ^ (2 * b) / n1)
      (.fin false r (-h - b) (r * r * n1 != 2 ^ (2 * b)), 0)

/-- Fraction bits of the fixed point below. -/
def fxP : Nat := 240
/-- The integer below ln 2 times 2^240. -/
def ln2Fx : Nat := 1224685061431752149387114016819916847747660333428801675508466606222838698

/-- The exponential series: sum from term `t` on (the k-th), by fuel; stops at a term of 0. -/
def expAux (x : Nat) : Nat → Nat → Nat → Nat
  | 0, _, _ => 0
  | f + 1, i, t => if t = 0 then 0 else t + expAux x f (i + 1) (t * x / 2 ^ fxP / (i + 1))

/-- 2^f for f in [0, 1) as fixed point. -/
def exp2Fx (x : Nat) : Nat := expAux (x * ln2Fx / 2 ^ fxP) 80 0 (2 ^ fxP)

/-- 2^x. -/
def fexp2 (a : FVal) : FVal × Nat :=
  match a with
  | .nan => (.nan, 0)
  | .inf s => if s then (.zero false, 0) else (.inf false, 0)
  | .fin s n e _ =>
    if n = 0 then (.fin false 1 0 false, 0)
    else if 12 < (bitLen n : Int) + e then (.fin false 1 (if s then -4096 else 4096) true, 0)
    else
      -- x in units of 2^-240, exact: no operand has bits below 2^-240
      let x := scaled s n e (-(fxP : Int))
      let i := x / (2 ^ fxP : Nat)
      let fr := (x % ((2 ^ fxP : Nat) : Int)).toNat
      if fr = 0 then (.fin false 1 i false, 0) else (.fin false (exp2Fx fr) (i - fxP) true, 0)

/-- The series of atanh: sum of z^(2k+1)/(2k+1). -/
def atanhAux (z2 : Nat) : Nat → Nat → Nat → Nat
  | 0, _, _ => 0
  | f + 1, i, p => if p = 0 then 0 else p / i + atanhAux z2 f (i + 2) (p * z2 / 2 ^ fxP)

/-- log2(y) for y = n / 2^b in [1, 2) as fixed point, rounded down or close below. -/
def log2Fx (n b : Nat) : Nat :=
  let z := (n - 2 ^ b) * 2 ^ fxP / (n + 2 ^ b)
  2 * atanhAux (z * z / 2 ^ fxP) 100 1 z * 2 ^ fxP / ln2Fx

/-- log2(x). -/
def flog2 (a : FVal) : FVal × Nat :=
  match a with
  | .nan => (.nan, 0)
  | .inf s => if s then (.nan, flNV) else (.inf false, 0)
  | .fin s n e _ =>
    if n = 0 then (.inf true, flDZ)
    else if s then (.nan, flNV)
    else
      let b := bitLen n - 1
      let i : Int := e + b
      if n = 2 ^ b then (ofScaled i 0 false, 0)
      else
        let v : Int := i * (2 ^ fxP : Nat) + log2Fx n b
        if v < 0 then (.fin true (-v - 1).toNat (-(fxP : Int)) true, 0) else (.fin false v.toNat (-(fxP : Int)) true, 0)

/-! Integers (03 R69) -/

/-- A value to an integer in [lo, hi]: the integer and the flags. -/
def toInt (mode : RMode) (r : Nat) (lo hi : Int) (v : FVal) : Int × Nat :=
  match v with
  | .nan => (0, flNV)
  | .inf s => (if s then lo else hi, flNV)
  | .fin s n e st =>
    let p := roundAt mode s n e st 0 r
    let x : Int := if s then -(p.1 : Int) else p.1
    if x < lo then (lo, flNV) else if hi < x then (hi, flNV) else (x, if p.2 then 0 else flNX)

/-- The value of an integer. DESIGN CHOICE (log 95): the zero of an integer is +0 under every rounding mode, RDN included,
where 03 R61 speaks of the sign of a zero that a conversion keeps and an integer 0 has none. -/
def ofInt (x : Int) : FVal := ofScaled x 0 false

/-! The stochastic generator (03 R73) -/

def rotr32 (x n : Nat) : Nat := (x / 2 ^ n + x * 2 ^ (32 - n)) % 2 ^ 32

/-- A draw: the number and the next state. -/
def drawOf (g : Word) (v : Nat) : Nat × Word :=
  let x := ((g >>> 18 ^^^ g) >>> 27).toNat % 2 ^ 32
  (rotr32 x (g >>> 59).toNat, g * 6364136223846793005 + BitVec.ofNat 64 (2 * v + 1))

/-! Codebooks (03 R62, R63) -/

/-- The sixteen entries of a codebook register. -/
def cbEntry (cb : BitVec 256) (i : Nat) : FVal := bf16.dec (fld cb.toNat (16 * i + 15) (16 * i))

/-- The best candidate among entries of which `p` holds, by `better`; ties go to the lower index. -/
def bestEntry (cb : BitVec 256) (p : FVal → Bool) (better : FVal → FVal → Bool) : Option (Nat × FVal) :=
  (List.range 16).foldl (fun (b : Option (Nat × FVal)) i =>
    let v := cbEntry cb i
    if v.isNan || !p v then b
    else
      match b with
      | none => some (i, v)
      | some (_, w) => if better v w then some (i, v) else b) none

/-- A finite value at exponent e0; an infinity never gets here. -/
def FVal.at (e0 : Int) : FVal → Int
  | .fin s n e _ => scaled s n e e0
  | _ => 0

def FVal.expo : FVal → Int
  | .fin _ _ e _ => e
  | _ => 0

def FVal.isInf : FVal → Bool
  | .inf _ => true
  | _ => false

/-- Quantise to an index (03 R63): index and flags; `r` is the draw of SR. -/
def quantCb (cb : BitVec 256) (mode : RMode) (r : Nat) (x : FVal) : Nat × Nat :=
  if x.isNan then (0, flNV)
  else
    let lo := bestEntry cb (fun v => fcmp v x ≤ 0) (fun v w => 0 < fcmp v w)
    let hi := bestEntry cb (fun v => 0 ≤ fcmp v x) (fun v w => fcmp v w < 0)
    match lo, hi with
    | none, none => (0, flNV)
    | none, some (j, _) => (j, flNX)
    | some (i, _), none => (i, flNX)
    | some (i, a), some (j, b) =>
      if fcmp a x = 0 then (i, 0)
      else
        let e0 := minI (minI a.expo b.expo) x.expo
        let dl := x.at e0 - a.at e0
        let dh := b.at e0 - x.at e0
        -- an infinite one is farther than a finite one; two are equally far
        let near := fun (n : Nat) =>
          if a.isInf && b.isInf then minN i j else if a.isInf then j else if b.isInf then i else n
        let n :=
          match mode with
          | .rne => near (if dl < dh then i else if dh < dl then j else minN i j)
          | .rtz => if x.neg? then j else i
          | .rdn => i
          | .rup => j
          | .sr => near (if (2 ^ 32 : Int) ≤ dl * 2 ^ 32 / (dl + dh) + r then j else i)
        (n, flNX)

end Sys2Proof.Machine
end

