-- ==== Sys2Proof/Machine/Vector.lean ====
section
/-!
DEFINITION. Elements and masks of vector instructions, and what all of them share (08 R172 to R176; 03 R72, R73).
-/
namespace Sys2Proof.Machine

open Host (Outcome)

/-- Element `i` of width `w` (08 R172). -/
def elem (w : Nat) (x : VReg) (i : Nat) : Nat := x.toNat / 2 ^ (w * i) % 2 ^ w

/-- A number from elements of width `w`, element 0 lowest. -/
def packNat (w : Nat) : List Nat → Nat
  | [] => 0
  | x :: r => x % 2 ^ w + 2 ^ w * packNat w r

/-- Replace elements `base`, `base` + 1, ... of width `w` by those given. -/
def setElems (w : Nat) (x : VReg) (base : Nat) (l : List Nat) : VReg :=
  BitVec.ofNat 512 (packNat w ((List.range (512 / w)).map (fun j => if j < base then elem w x j else (l[j - base]?).getD (elem w x j))))

/-- The mask of an instruction: bit i is 1 where element i is active (08 R173). -/
def maskBits (m : Option MaskF) (c : Core) : Nat :=
  match m with
  | none => 2 ^ 64 - 1
  | some x => (c.getK x.k.toNat).toNat

def zeroing (m : Option MaskF) : Bool := (m.map (fun x => x.z)).getD false
/-- The rounding mode that a prefix names (02 R32). -/
def maskMode (m : Option MaskF) : RMode := RMode.of ((m.map (fun x => x.rnd.toNat)).getD 0)

/-- Lane results under a mask (08 R173). -/
def mergeElems (mk : Nat) (z : Bool) (old new : List Nat) : List Nat :=
  (List.range new.length).map (fun i => if bitOf mk i then new.getD i 0 else if z then 0 else old.getD i 0)

/-- Flags of active elements join `fflags`, or trap (03 R72). -/
def raiseFlags (fl : Nat) : M Unit := do
  let s ← getS
  guardT (fl &&& s.core.fenable.toNat == 0) { code := 14, tval := BitVec.ofNat 64 fl }
  modC (fun c => { c with fflags := BitVec.ofNat 5 (c.fflags.toNat ||| fl) })

/-- The registers that a form reads and writes (08 R175). -/
def vReads (h : Shp) (t : Option (BitVec 5)) (readsD : Bool) (d s : Nat) : List RegId :=
  regsOf h.s s ++ (match t with | some x => regsOf h.t x.toNat | none => []) ++ (if readsD || (t.isNone && h.t == .v) then regsOf h.d d else [])

/-- The frame of a vector instruction. -/
def vIns (r : Raw) (h : Shp) (readsD : Bool) (o : VR) : Ins :=
  { Ins.of r with
    units := true, rep := o.rep, kd := h.d, ks := h.s, d := o.d.toNat, s := o.s.toNat
    reads := fun d s => vReads h o.t readsD d s
    writes := fun d _ => regsOf h.d d }

/-- Operands a and b of a binary form (08 R175). -/
def vOps (o : VR) (d s : Nat) (c : Core) : VReg × VReg :=
  match o.t with
  | none => (c.getV d, c.getV s)
  | some t => (c.getV s, c.getV t.toNat)

/-- Draws for the active elements, in ascending order (03 R73): element draws and the generator after them. -/
def draws (v : Nat) (mk : Nat) : Nat → Nat → Word → List Nat × Word
  | 0, _, g => ([], g)
  | n + 1, i, g =>
    let p := if bitOf mk i then drawOf g v else (0, g)
    let r := draws v mk n (i + 1) p.2
    (p.1 :: r.1, r.2)

/-- The draws of an instruction of `n` elements in a mode; none are taken but under SR. -/
def takeDraws (mode : RMode) (mk n : Nat) : M (List Nat) := do
  let s ← getS
  if mode = .sr then do
    let p := draws s.cur mk n 0 s.core.sgen
    modC (fun c => { c with sgen := p.2 })
    pure p.1
  else pure (List.replicate n 0)

/-- The flags of active elements. -/
def orFlags (mk : Nat) (l : List (Nat × Nat)) : Nat :=
  ((List.range l.length).zip l).foldl (fun f p => if bitOf mk p.1 then f ||| p.2.2 else f) 0

/-- Write `n` elements of width `w` from element `base` of v(d), under the mask, with their flags. -/
def putElems (o : VR) (w base d : Nat) (l : List (Nat × Nat)) : M Unit := do
  let s ← getS
  let mk := maskBits o.mask s.core
  raiseFlags (orFlags mk l)
  let old := s.core.getV d
  let new := mergeElems mk (zeroing o.mask) ((List.range l.length).map (fun i => elem w old (base + i))) (l.map (fun p => p.1))
  wV d (setElems w old base new)

/-- All elements of width `w`, `n` of them from `base` on. -/
def elemsOf (w base n : Nat) (x : VReg) : List Nat := (List.range n).map (fun i => elem w x (base + i))

/-- The result bits of a compare (08 R174). -/
def cmpBits (mk n : Nat) (old : Nat) (p : Nat → Bool) : Nat :=
  (List.range n).foldl (fun x i => if (if bitOf mk i then p i else bitOf old i) then x + 2 ^ i else x) 0

end Sys2Proof.Machine
end

