-- ==== Sys2Proof/Machine/VectorCvt.lean ====
section
/-!
DEFINITION. Vector conversions (08 R184, R185; 03 R65 to R69, R73).
-/
namespace Sys2Proof.Machine

open Host (Outcome)

def p4Shp (fn : Nat) : Shp := (shP4 fn).getD shUn
/-- The frame of a conversion; one that writes a part of vd reads the rest of it. -/
def p4Ins (fn : Nat) (readsD : Bool) (o : VR) : Ins := vIns (encVR 6 (some 4) fn o) (p4Shp fn) readsD o

def tNum (o : VR) : Nat := (o.t.map (fun t => t.toNat)).getD 0

/-- A conversion of `n` elements: element i of the result, of width `w` from element `base` of vd on, comes from the
operands by `f`, in the mode and with the draw of the element. -/
def convertIf (pre : State → Option Trap) (x : Ins) (o : VR) (w n base : Nat) (f : RMode → Nat → Core → Nat → Nat → Nat × Nat)
    (s : State) : Outcome State Fault Refusal :=
  issue x pre (fun d sf _ => (do
    let st ← getS
    let mode := maskMode o.mask
    let mk := maskBits o.mask st.core
    let dr ← takeDraws mode mk n
    putElems o w base d ((List.range n).map (fun i => if bitOf mk i then f mode (dr.getD i 0) st.core sf i else (0, 0)))
    pure .seq)) s

/-- A conversion without a check of its own. -/
def convert (x : Ins) (o : VR) (w n base : Nat) (f : RMode → Nat → Core → Nat → Nat → Nat × Nat) (s : State) :
    Outcome State Fault Refusal := convertIf noPre x o w n base f s

/-- An exact widening to FP32 lanes: element `from_` + i of width `g.w`. -/
def widen (fn : Nat) (g : FFmt) (from_ : Nat) (o : VR) (s : State) : Outcome State Fault Refusal :=
  convert (p4Ins fn false o) o 32 16 0 (fun _ _ c sf i => rne fp32 (g.dec (elem g.w (c.getV sf) (from_ + i)))) s

/-- A narrowing of two registers to 16-bit elements. -/
def narrow2 (fn : Nat) (g : FFmt) (o : VR) (s : State) : Outcome State Fault Refusal :=
  convert (p4Ins fn false o) o 16 32 0 (fun mode r c sf i =>
    g.round mode false r (fp32.dec (if i < 16 then elem 32 (c.getV sf) i else elem 32 (c.getV (tNum o)) (i - 16)))) s

/-- A narrowing to one quarter of bytes. -/
def narrow1 (fn : Nat) (g : FFmt) (o : VR) (s : State) : Outcome State Fault Refusal :=
  convert (p4Ins fn true o) o 8 16 (16 * (tNum o % 4)) (fun mode r c sf i =>
    g.round mode (bitOf (tNum o) 2) r (fp32.dec (elem 32 (c.getV sf) i))) s

/-- `vcvt_f32_bf16_lo` (08 R184). -/
def execVcvtF32Bf16Lo (o : VR) (s : State) : Outcome State Fault Refusal := widen 0 bf16 0 o s

/-- `vcvt_f32_bf16_hi` (08 R184). -/
def execVcvtF32Bf16Hi (o : VR) (s : State) : Outcome State Fault Refusal := widen 1 bf16 16 o s

/-- `vcvt_f32_f16_lo` (08 R184). -/
def execVcvtF32F16Lo (o : VR) (s : State) : Outcome State Fault Refusal := widen 2 fp16 0 o s

/-- `vcvt_f32_f16_hi` (08 R184). -/
def execVcvtF32F16Hi (o : VR) (s : State) : Outcome State Fault Refusal := widen 3 fp16 16 o s

/-- `vcvt_bf16_f32` (08 R184). -/
def execVcvtBf16F32 (o : VR) (s : State) : Outcome State Fault Refusal := narrow2 4 bf16 o s

/-- `vcvt_f16_f32` (08 R184). -/
def execVcvtF16F32 (o : VR) (s : State) : Outcome State Fault Refusal := narrow2 5 fp16 o s

/-- `vcvt_e4m3_f32` (08 R184). -/
def execVcvtE4m3F32 (o : VR) (s : State) : Outcome State Fault Refusal := narrow1 6 fE4m3 o s

/-- `vcvt_e5m2_f32` (08 R184). -/
def execVcvtE5m2F32 (o : VR) (s : State) : Outcome State Fault Refusal := narrow1 7 fE5m2 o s

/-- `vcvt_f32_e4m3` (08 R184). -/
def execVcvtF32E4m3 (o : VR) (s : State) : Outcome State Fault Refusal := widen 8 fE4m3 (16 * (tNum o % 4)) o s

/-- `vcvt_f32_e5m2` (08 R184). -/
def execVcvtF32E5m2 (o : VR) (s : State) : Outcome State Fault Refusal := widen 9 fE5m2 (16 * (tNum o % 4)) o s

/-- `vcvt_i32_f32` (08 R184). -/
def execVcvtI32F32 (o : VR) (s : State) : Outcome State Fault Refusal :=
  convert (p4Ins 10 false o) o 32 16 0 (fun mode r c sf i =>
    let p := toInt mode r (-2 ^ 31) (2 ^ 31 - 1) (fp32.dec (elem 32 (c.getV sf) i))
    (wrapN 32 p.1, p.2)) s

/-- `vcvt_f32_i32` (08 R184). -/
def execVcvtF32I32 (o : VR) (s : State) : Outcome State Fault Refusal :=
  convert (p4Ins 11 false o) o 32 16 0 (fun mode r c sf i =>
    fp32.round mode false r (ofInt (sextI (elem 32 (c.getV sf) i) 32))) s

/-- The codebook register that a selector names. -/
def cbOf (a : ArrState) (n : Nat) : BitVec 256 :=
  match n with
  | 0 => a.cb0
  | 1 => a.cb1
  | 2 => a.cb2
  | _ => a.cb3

/-- The codebook conversions need a task that declares the array (08 R176). -/
def needArr (x : Ins) (s : State) : Option Trap := if declArr s then none else some (illegal x)

/-- As `convert`, with the check of 08 R176, which is made before the first iteration of a repeat, as every check of cause 1
is (02 R56; log 26). -/
def convertCb (x : Ins) (o : VR) (w base : Nat) (f : RMode → Nat → Core → Nat → Nat → Nat × Nat) (s : State) :
    Outcome State Fault Refusal := convertIf (needArr x) x o w 16 base f s

/-- `vqcb` (03 R63). -/
def execVqcb (o : VR) (s : State) : Outcome State Fault Refusal :=
  convertCb (p4Ins 12 true o) o 4 (16 * (tNum o % 8)) (fun mode r c sf i =>
    quantCb (cbOf c.arr (tNum o / 8)) mode r (fp32.dec (elem 32 (c.getV sf) i))) s

/-- `vxcb` (08 R184). -/
def execVxcb (o : VR) (s : State) : Outcome State Fault Refusal :=
  convertCb (p4Ins 13 false o) o 32 0 (fun _ _ c sf i =>
    rne fp32 (cbEntry (cbOf c.arr (tNum o / 8)) (elem 4 (c.getV sf) (16 * (tNum o % 8) + i)))) s

end Sys2Proof.Machine
end

