-- ==== Sys2Proof/Machine/VectorMem.lean ====
section
/-!
DEFINITION. Vector loads and stores (08 R187 to R191): two phases, first every active element is checked, then all are
accessed.
-/
namespace Sys2Proof.Machine

open Host (Outcome)

/-- The format of an element of FMT `f` as floating point. -/
def fmtOf (f : Nat) : Option FFmt :=
  match f with
  | 8 => some fp32
  | 9 => some fp16
  | 10 => some bf16
  | 11 => some fE4m3
  | 12 => some fE5m2
  | _ => none

/-- Formats that `vldf` and `vstf` accept (08 R188). -/
def vfmtOk (f : Nat) : Bool := (decide (1 ≤ f) && decide (f ≤ 4)) || (decide (8 ≤ f) && decide (f ≤ 12))

/-- A lane from an element (08 R188); FMT 0 stands for the untyped 32-bit lane. -/
def laneOfElem (f x : Nat) : Nat :=
  match fmtOf f with
  | some g => (rne fp32 (g.dec x)).1
  | none =>
    match f with
    | 1 => wrapN 32 (sextI x 8)
    | 3 => wrapN 32 (sextI x 16)
    | _ => x

/-- An element from a lane, and its flags (08 R188). -/
def elemOfLane (f x : Nat) : Nat × Nat :=
  match fmtOf f with
  | some g => rne g (fp32.dec x)
  | none => (if f = 0 then x else x % 2 ^ (8 * fmtSize f), 0)

/-- What an access of one element is: lane, virtual address, and, once translated, its place. -/
structure ElemAt where
  lane : Nat
  va : Nat
  loc : Loc

/-- The turn of the elements where they are performed (19 R338): those in one bank count as one access (DESIGN CHOICE, log 103). -/
def elemTurns (es : List ElemAt) : M Bool := do
  let s ← getS
  if es.any (fun e => syeStalled s e.loc) then do
    modC (fun c => { c with wait := .issue })
    pure false
  else takeBanks (es.foldl (fun l e => if gangShared s s.cur e.va e.loc && !l.contains (bankOf e.va) then bankOf e.va :: l else l) [])

/-- Translate elements in ascending order: those that passed, the first trap with its lane, and the pages of every
cause 5. -/
def transElems (a : Agent) (acc : Nat) : List (Nat × Nat) → State → List ElemAt × Option Trap × List PageFault × State
  | [], s => ([], none, [], s)
  | (i, va) :: r, s =>
    match translate a va acc s with
    | .ok (l, s1) =>
      let q := transElems a acc r s1
      (⟨i, va, l⟩ :: q.1, q.2.1, q.2.2.1, q.2.2.2)
    | .error t =>
      let q := transElems a acc r s
      (q.1, some t, t.pages ++ q.2.2.1, q.2.2.2)

/-- The first phase: alignment, translation, tiles (08 R189). -/
def checkElems (acc al : Nat) (es : List (Nat × Nat)) : M (List ElemAt) := do
  match es.find? (fun p => p.2 % al != 0) with
  | some p => raise (misalign p.2)
  | none => pure ()
  let s ← getS
  let a := me s
  let q := transElems a acc es s
  match q.2.1 with
  | some t => raise (if t.code = 5 then { t with pages := q.2.2.1, toH := false } else t)
  | none => do
    modS (fun _ => q.2.2.2)
    let s ← getS
    match q.1.find? (fun e => e.loc.place == .pad && !ownerOk s a.v (ownerOf s (clusterOf a.v) (tileOf e.va))) with
    | some e => raise (accTrap e.va false 8)
    | none => pure q.1

/-- The elements of an instruction: op, base pointer, immediate, step of the iteration, stride or offsets (08 R187). -/
def elemVas (op : Nat) (p : Word) (imm : Int) (m : Nat) (t : Word) (tv : VReg) (i : Nat) : Nat :=
  let b := ptrVa p
  match op / 2 with
  | 0 => vaAdd b (64 * (imm + m) + 4 * i)
  | 1 => vaAdd b (4 * imm + i * t.toInt)
  | 2 => vaAdd b (4 * imm + elem 32 tv i)
  | _ => vaAdd b ((16 * (imm + m) + i) * fmtSize (ptrFmt p))

/-- The frame of a vector access. -/
def vmemIns (op : Nat) (o : VMem) : Ins :=
  let t := (o.t.map (fun x => x.toNat)).getD 0
  let st := op % 2 = 1
  { Ins.of (encVMem op o) with
    units := true, la := o.la.toNat, rep := o.rep, kd := .v, ks := .g, mem := !vmemT op, d := o.v.toNat, s := o.b.toNat
    reads := fun d b => regsOf .g b ++ (if op / 2 = 1 then regsOf .g t else if op / 2 = 2 then regsOf .v t else []) ++ (if st then regsOf .v d else [])
    writes := fun d _ => if st then [] else regsOf .v d
    late := fun d _ => if st then regsOf .v d else [] }

/-- The format and the active elements, after the check of the pointer. -/
def vmemElems (op : Nat) (o : VMem) (b m : Nat) : M (Nat × Nat × List (Nat × Nat)) := do
  let s ← getS
  let p := s.core.getG b
  checkPtr (decide (6 ≤ op)) p
  let fmt := if 6 ≤ op then ptrFmt p else 0
  guardT (decide (op < 6) || vfmtOk fmt) (ptrTrap p)
  let t := (o.t.map (fun x => x.toNat)).getD 0
  let mk := maskBits o.mask s.core
  let vas := (List.range 16).filterMap (fun i =>
    if bitOf mk i then some (i, elemVas op p (o.imm.sval 9) m (s.core.getG t) (s.core.getV t) i) else none)
  pure (fmt, mk, vas)

def elemSize (fmt : Nat) : Nat := if fmt = 0 then 4 else fmtSize fmt

/-- May the remote elements of a vector access be sent now? -/
def remoteRoom (s : State) (es : List ElemAt) (order : Nat) (slot : Bool) : Bool :=
  es.all (fun e => roomFor s (dieOf s.cur) e.loc.node (if slot then chanOf e.loc.sync order else storeChan s e.loc order) slot es.length)

/-- Write the lanes read, under the mask (08 R173). -/
def putRead (d mk : Nat) (z : Bool) (got : List (Nat × Nat)) (c : Core) : Core :=
  let old := c.getV d
  c.setV d (setElems 32 old 0 (mergeElems mk z (elemsOf 32 0 16 old) ((List.range 16).map (fun i => ((got.find? (fun p => p.1 == i)).map (fun p => p.2)).getD 0))))

/-- Read the elements of this device, in ascending order: bytes by element, and the elements in error. -/
def readElems (n order : Nat) (scope : Scope) : List ElemAt → M (List (Nat × List Byte) × List Nat)
  | [] => pure ([], [])
  | e :: r => do
    let b ← readLoc e.loc n order scope
    let q ← readElems n order scope r
    pure ((e.lane, b.1) :: q.1, if b.2 then e.lane :: q.2 else q.2)

/-- Ask for remote elements in order, as far as there is room (21 R357, R358): how many have been asked for. -/
def askElems (s : State) (id order : Nat) (scope : Scope) (n : Nat) : List ElemAt → Nat × State
  | [] => (0, s)
  | e :: r =>
    if canSend s (dieOf s.cur) e.loc.node (chanOf e.loc.sync order) true then
      let q := askElems (sendReq s e.loc.node 0 (chanOf e.loc.sync order) e.loc.at_ s.core.ctx.toNat (accSub n order scope) [] e.va
        (.vec s.cur id e.lane)) id order scope n r
      (q.1 + 1, q.2)
    else (0, s)

def vecLoad (op : Nat) (o : VMem) (s : State) : Outcome State Fault Refusal :=
  let x := vmemIns op o
  let order := o.order.toNat
  let scope := memScope o.scope
  issue x noPre (fun d b m => (do
    let q ← vmemElems op o b m
    let fmt := q.1
    let mk := q.2.1
    let es ← checkElems 1 (elemSize fmt) q.2.2
    let far := es.filter (fun e => e.loc.place == .remote)
    let s ← getS
    if far.any (fun e => storesOut s s.cur (some (e.loc.node, e.loc.at_))) || orderWait s order
        || !remoteRoom s far order true then holdIssue
    else do
     let ok ← elemTurns es
     if !ok then pure .hold
     else do
      let near ← readElems (elemSize fmt) order scope (es.filter (fun e => e.loc.place != .remote))
      eccPost (!near.2.isEmpty)
      let got := near.1.map (fun p => (p.1, laneOfElem fmt (ofLe p.2)))
      if far.isEmpty then do
        modC (putRead d mk (zeroing o.mask) got)
        if order == 0 then pure () else acquireAfter scope
        pure .seq
      else do
        let s ← getS
        let id := s.fab.nextTag
        modS (fun s => (askElems s id order scope (elemSize fmt) far).2)
        modC (fun c => { c with wait := .vec id d fmt mk (zeroing o.mask) (if order == 0 then 0 else scope) far.length got [] x.size })
        pure .hold)) s

/-- Log the pages of the elements that are written (05 R111). -/
def logElems : List ElemAt → M Unit
  | [] => pure ()
  | e :: r => do
    let s ← getS
    if e.loc.place == .remote then pure () else logWrite (me s) e.loc
    logElems r

/-- Remote elements for which no higher one goes to the same bytes: plain stores are not ordered on the way, and the highest
remains (08 R190). -/
def lastOf (s : State) (order : Nat) : List ElemAt → List ElemAt
  | [] => []
  | e :: r =>
    if e.loc.place == .remote && storeChan s e.loc order == 0 &&
      r.any (fun f => f.loc.place == .remote && f.loc.node == e.loc.node && f.loc.at_ == e.loc.at_)
    then lastOf s order r else e :: lastOf s order r

/-- Store the elements in ascending order, so that the highest lane remains (08 R190). -/
def writeElems (order : Nat) (scope : Scope) (bytes : Nat → List Byte) : List ElemAt → M Unit
  | [] => pure ()
  | e :: r => do
    if e.loc.place == .remote then
      modS (fun s => sendStore s e.loc order scope e.va (bytes e.lane))
    else storeLoc e.loc (bytes e.lane) order scope
    writeElems order scope bytes r

def vecStore (op : Nat) (o : VMem) (s : State) : Outcome State Fault Refusal :=
  let order := o.order.toNat
  let scope := memScope o.scope
  issue (vmemIns op o) noPre (fun d b m => (do
    let q ← vmemElems op o b m
    let fmt := q.1
    let es ← checkElems 2 (elemSize fmt) q.2.2
    let far := es.filter (fun e => e.loc.place == .remote)
    let data ← rV d
    let out := (List.range 16).map (fun i => if bitOf q.2.1 i then elemOfLane fmt (elem 32 data i) else (0, 0))
    let s ← getS
    let w ← ackWait (order != 0) scope
    if w || !remoteRoom s far order false || far.any (fun e => orderedBehind s e.loc order) then holdIssue
    else do
     let ok ← elemTurns es
     if !ok then pure .hold
     else do
      raiseFlags (orFlags q.2.1 out)
      logElems es
      if order == 0 then pure () else releaseBefore scope
      let s ← getS
      writeElems order scope (fun i => leBytes (elemSize fmt) (out.getD i (0, 0)).1) (lastOf s order es)
      pure .seq)) s

/-- `vld` (08 R187). -/
def execVld (o : VMem) (s : State) : Outcome State Fault Refusal := vecLoad 0 o s
/-- `vst` (08 R187). -/
def execVst (o : VMem) (s : State) : Outcome State Fault Refusal := vecStore 1 o s
/-- `vlds` (08 R187). -/
def execVlds (o : VMem) (s : State) : Outcome State Fault Refusal := vecLoad 2 o s
/-- `vsts` (08 R187). -/
def execVsts (o : VMem) (s : State) : Outcome State Fault Refusal := vecStore 3 o s
/-- `vgath` (08 R187). -/
def execVgath (o : VMem) (s : State) : Outcome State Fault Refusal := vecLoad 4 o s
/-- `vscat` (08 R187). -/
def execVscat (o : VMem) (s : State) : Outcome State Fault Refusal := vecStore 5 o s
/-- `vldf` (08 R188). -/
def execVldf (o : VMem) (s : State) : Outcome State Fault Refusal := vecLoad 6 o s
/-- `vstf` (08 R188). -/
def execVstf (o : VMem) (s : State) : Outcome State Fault Refusal := vecStore 7 o s

end Sys2Proof.Machine
end

