-- ==== Sys2Proof/Machine/Array.lean ====
section
/-!
DEFINITION. The squarer array (13) and the instructions of major 0xB (14). A pair of integers is squared and corrected
as the array does it; every integer is exact.
-/
namespace Sys2Proof.Machine

open Host (Outcome)

/-! Formats and classes (13 R255, R256) -/

/-- Class of a format: 8, 16 or 32; none where the array does not accept it. -/
def classOf (fmt : Nat) : Option Nat :=
  match fmt with
  | 8 => some 32
  | 9 => some 16
  | 10 => some 16
  | 11 => some 8
  | 12 => some 8
  | 13 => some 8
  | _ => none

/-- Fraction bits of the aligned integers of a class. -/
def classF (cls : Nat) : Int := if cls = 8 then 10 else if cls = 16 then 22 else 46

/-- The automatic anchor's headroom (13 R262). -/
def classShift (cls : Nat) : Int := if cls = 32 then 8 else 48

/-- The format whose values the elements have: CB4 entries are BF16. -/
def elemFmt (fmt : Nat) : FFmt := (fmtOf fmt).getD bf16

/-- e_min (13 R257). -/
def FFmt.emin (f : FFmt) : Int := 1 - (f.bias : Int)

/-! Slots (13 R268, R269) -/

def WbSlot.fmt (w : WbSlot) : Nat := fld w.desc.toNat 63 58
def WbSlot.lbl (w : WbSlot) : Nat := fld w.desc.toNat 57 54
def WbSlot.nblk (w : WbSlot) : Nat := fld w.desc.toNat 53 49
def WbSlot.valid (w : WbSlot) : Bool := bitOf w.desc.toNat 48
def WbSlot.len (w : WbSlot) : Nat := lblLen w.lbl
def WbSlot.cls (w : WbSlot) : Nat := (classOf w.fmt).getD 8

/-- Panel element (k, j) as a value; the elements of a column that was in error are NaN (14 R277). -/
def WbSlot.at (w : WbSlot) (k j : Nat) : FVal :=
  let e := 32 * k + j
  if w.nan.getLsbD (j % 32) then .nan
  else if w.fmt = 13 then cbEntry w.cb ((w.bytes.getD (e / 2) 0).toNat / 16 ^ (e % 2) % 16)
  else
    let n := fmtSize w.fmt
    (elemFmt w.fmt).dec (ofLe ((w.bytes.drop (n * e)).take n))

def ArrState.slot (a : ArrState) (n : Nat) : WbSlot :=
  match n with
  | 0 => a.wb0
  | 1 => a.wb1
  | 2 => a.wb2
  | _ => a.wb3

def ArrState.setSlot (a : ArrState) (n : Nat) (w : WbSlot) : ArrState :=
  match n with
  | 0 => { a with wb0 := w }
  | 1 => { a with wb1 := w }
  | 2 => { a with wb2 := w }
  | _ => { a with wb3 := w }

def ArrState.setCb (a : ArrState) (n : Nat) (x : BitVec 256) : ArrState :=
  match n with
  | 0 => { a with cb0 := x }
  | 1 => { a with cb1 := x }
  | 2 => { a with cb2 := x }
  | _ => { a with cb3 := x }

def ArrState.acc (a : ArrState) (n : Bool) : AccSet := if n then a.acc1 else a.acc0
def ArrState.setAcc (a : ArrState) (n : Bool) (x : AccSet) : ArrState := if n then { a with acc1 := x } else { a with acc0 := x }

def Cell.zero : Cell := ⟨0, 0⟩
def AccSet.cell (x : AccSet) (i j : Nat) : Cell := x.cells.getD (32 * i + j) Cell.zero

/-- Cells as the map that lists what is not 0 and finite; the list is in ascending order of keys. -/
def packCells (l : List (Nat × Cell)) : SMap Cell := l.filter (fun p => p.2 != Cell.zero)

/-- Every cell of a set, changed by `f`. -/
def AccSet.mapCells (x : AccSet) (f : Nat → Nat → Cell → Cell) : AccSet :=
  { x with cells := packCells ((List.range 1024).map (fun n => (n, f (n / 32) (n % 32) (x.cells.getD n Cell.zero)))) }

def AccSet.row (x : AccSet) (i : Nat) : BitVec 128 := x.rcorr.getD i 0

/-! Alignment and the block product (13 R257 to R259) -/

/-- e(x). -/
def expOf (emin : Int) : FVal → Int
  | .fin _ n e _ => if n = 0 then emin else max emin ((bitLen n : Int) - 1 + e)
  | _ => emin

/-- The greatest of e_min and the exponents of `l`. -/
def blockExp (emin : Int) (l : List FVal) : Int := l.foldl (fun m x => max m (expOf emin x)) emin

/-- align(x, E). -/
def alignTo (f ex : Int) : FVal → Int
  | .fin s n e _ =>
    let m := ((roundAt .rne s n e false (ex - f) 0).1 : Int)
    if s then -m else m
  | _ => 0

def sumSq (l : List Int) : Int := l.foldl (fun t x => t + x * x) 0

/-- P(i, j): the bead's sum of squares less both corrections, halved. -/
def blockProduct (a b : List Int) : Int := (sumSq ((a.zip b).map (fun p => p.1 + p.2)) - sumSq a - sumSq b) / 2

/-! Accumulation (13 R261) -/

def accMax : Int := 2 ^ 127 - 1

/-- A product of weight 2^g as a multiple of 2^eacc. -/
def atWeight (p g eacc : Int) : Int :=
  let m := ((roundAt .rne (decide (p < 0)) p.natAbs (g - eacc) false 0 0).1 : Int)
  if p < 0 then -m else m

/-- value + q, saturated: the value and whether it saturated. -/
def addCell (value q : Int) : Int × Bool :=
  let v := value + q
  if accMax < v then (accMax, true) else if v < -accMax then (-accMax, true) else (v, false)

/-! Special values (13 R265, R266): 0 none or finite, 1 +inf, 2 -inf, 3 NaN -/

def isZeroV : FVal → Bool
  | .fin _ n _ _ => n == 0
  | _ => false

def pairSpec (a b : FVal) : Nat :=
  if a.isNan || b.isNan then 3
  else if (a.isInf && isZeroV b) || (isZeroV a && b.isInf) then 3
  else if a.isInf || b.isInf then (if a.neg? != b.neg? then 2 else 1)
  else 0

/-- Merge: different non-zero states give NaN. -/
def mergeSpec (x y : Nat) : Nat := x ||| y

/-- The outcome of a block over its active pairs. -/
def blockSpec (l : List (Option FVal × FVal)) : Nat :=
  l.foldl (fun t p => match p.1 with | some a => mergeSpec t (pairSpec a p.2) | none => t) 0

/-! Reading elements (14 R276) -/

/-- The elements that have been received from other nodes. -/
def gotFar (c : Core) : List (Nat × List Byte) :=
  match c.wait with
  | .far _ _ got _ _ => got
  | _ => []

/-- Those of them that were in error. -/
def badFar (c : Core) : SMap (Nat × Nat) :=
  match c.wait with
  | .far _ _ _ bad _ => bad
  | _ => []

/-- Read elements of `n` bytes, and say which are in error; none: the instruction waits for elements of other nodes, or to
ask for them. -/
def readArr (es : List ElemAt) (n size : Nat) : M (Option (List (Nat × List Byte) × List Nat)) := do
  let s ← getS
  let got := gotFar s.core
  let bad := badFar s.core
  let miss := es.filter (fun e => e.loc.place == .remote && !got.any (fun p => p.1 == e.lane))
  if miss.isEmpty then do
   let ok ← elemTurns (es.filter (fun e => e.loc.place != .remote))
   if !ok then do
    modC (fun c => if got.isEmpty then c else { c with wait := .far 0 0 got bad size })
    pure none
   else do
    let near ← readElems n 0 0 (es.filter (fun e => e.loc.place != .remote))
    let wrong := near.2 ++ bad.map (fun p => p.1)
    eccPost (!wrong.isEmpty)
    modC (fun c => { c with wait := .none })
    pure (some (near.1 ++ got, wrong))
  else do
    let now := if miss.any (fun e => storesOut s s.cur (some (e.loc.node, e.loc.at_))) then [] else miss
    let id := s.fab.nextTag
    let asked ← liftS (fun s => askElems s id 0 0 n now)
    modC (fun c => { c with wait := if asked = 0 then (if got.isEmpty then .issue else .far 0 0 got bad size) else .far id asked got bad size })
    pure none

/-- The elements that the store under way has still to send, with which it goes on; none: it has not passed its checks. -/
def underWay (c : Core) : Option (List ElemAt) :=
  match c.wait with
  | .post rest => some (rest.map (fun f => ⟨f.lane, f.va, { at_ := f.at_, place := .remote, node := f.node, sync := f.sync }⟩))
  | _ => none

def ElemAt.far (e : ElemAt) : FarElem := ⟨e.lane, e.va, e.loc.at_, e.loc.node, e.loc.sync⟩

/-- The elements of an array store: every check comes before the first of them is stored, and none after (14 R277). -/
def storeElems (al : Nat) (es : List (Nat × Nat)) : M (List ElemAt) := do
  let s ← getS
  match underWay s.core with
  | some l => pure l
  | none => checkElems 2 al es

/-- Send remote elements in order, as far as there is room (21 R357): how many have been sent. -/
def sendElems (s : State) (bytes : Nat → List Byte) : List ElemAt → Nat × State
  | [] => (0, s)
  | e :: r =>
    if canSend s (dieOf s.cur) e.loc.node (storeChan s e.loc 0) false then
      let q := sendElems (sendStore s e.loc 0 0 e.va (bytes e.lane)) bytes r
      (q.1 + 1, q.2)
    else (0, s)

/-- Store the elements of an array instruction, those of this device with the first remote ones; false: remote ones still
wait to be sent, or the first for a store that must come before it. -/
def storeArr (bytes : Nat → List Byte) (es : List ElemAt) : M Bool := do
  let s ← getS
  let going := (underWay s.core).isSome
  let near := if going then [] else es.filter (fun e => e.loc.place != .remote)
  let next := if going then es else (lastOf s 0 es).filter (fun e => e.loc.place == .remote)
  if next.any (fun e => orderedBehind s e.loc 0) ||
    (!going && (match next with | e :: _ => !canSend s (dieOf s.cur) e.loc.node (storeChan s e.loc 0) false | [] => false)) then do
    modC (fun c => { c with wait := if going then c.wait else .issue })
    pure false
  else do
    let ok ← elemTurns near
    if !ok then pure false
    else do
      logElems near
      writeElems 0 0 bytes near
      let n ← liftS (fun s => sendElems s bytes next)
      modC (fun c => { c with wait := if n = next.length then .none else .post ((next.drop n).map ElemAt.far) })
      pure (n == next.length)

def bytesAt (l : List (Nat × List Byte)) (i : Nat) : List Byte := ((l.find? (fun p => p.1 == i)).map (fun p => p.2)).getD []

/-! Frames and checks -/

/-- The frame of an array instruction (14 R276). -/
def arrIns (r : Raw) (la : BitVec 4) (reads writes : List RegId) : Ins :=
  { Ins.of r with la := la.toNat, units := true, reads := fun _ _ => reads, writes := fun _ _ => writes }

/-- Cause 1 without a task that declares the array, and for what `bad` names (14 R274). -/
def arrPre (x : Ins) (bad : Core → Bool) (s : State) : Option Trap :=
  if !declArr s || bad s.core then some (illegal x) else none

def arrOp (x : Ins) (bad : Core → Bool) (m : M Flow) (s : State) : Outcome State Fault Refusal :=
  issue x (arrPre x bad) (fun _ _ _ => m) s

def modArr (f : ArrState → ArrState) : M Unit := modC (fun c => { c with arr := f c.arr })

/-- A block of consecutive bytes that the instruction accesses (14 R276). -/
def checkRun (va n : Nat) : M Unit := checkAlign (winFits va n) va

/-! mzero (14 R278) -/

def msetIns (op x : Nat) (o : MSet) (wr : Bool) : Ins :=
  arrIns (encMSet op x o) o.la (if wr then [] else regsOf .g o.a.toNat) (if wr then regsOf .g o.a.toNat else [])

/-- `mzero` (14 R278). -/
def execMzero (o : MSet) (s : State) : Outcome State Fault Refusal :=
  arrOp (msetIns 0 0 o false) (fun c => c.knows (regsOf .g o.a.toNat) && decide ((c.getG o.a.toNat).toInt < -1024 ∨ 1023 < (c.getG o.a.toNat).toInt)) (do
    let e ← rG o.a.toNat
    modArr (fun a => a.setAcc o.set { AccSet.reset with eacc := e.toInt, anch := true })
    pure .seq) s

/-- `mzero.a` (14 R278). -/
def execMzeroA (o : MSet) (s : State) : Outcome State Fault Refusal :=
  arrOp (arrIns (encMSet 0 16384 o) o.la [] []) (fun _ => false) (do
    modArr (fun a => a.setAcc o.set AccSet.reset)
    pure .seq) s

/-! mldb, mldcb (14 R279, R280) -/

/-- Bytes of a panel of `n` blocks. -/
def panelBytes (fmt lbl n : Nat) : Nat := if fmt = 13 then n * lblLen lbl * 16 else n * lblLen lbl * 32 * fmtSize fmt

/-- Element accesses of a panel: bytes where the format is CB4. -/
def panelElems (fmt bytes va : Nat) : List (Nat × Nat) :=
  let n := if fmt = 13 then 1 else fmtSize fmt
  (List.range (bytes / n)).map (fun i => (i, vaAdd va ((i * n : Nat) : Int)))

def descOf (p : Word) (nb cbr : Nat) : Word :=
  BitVec.ofNat 64 (ptrFmt p * 2 ^ 58 + ptrLbl p * 2 ^ 54 + nb * 2 ^ 49 + 2 ^ 48 + ptrVa p / 64 * 64 + (if ptrFmt p = 13 then cbr * 16 else 0))

/-- The checks of a panel pointer. -/
def checkPanel (p : Word) (n : Nat) : M Unit := do
  checkPtr true p
  guardT ((classOf (ptrFmt p)).isSome) (ptrTrap p)
  guardT (decide (panelBytes (ptrFmt p) (ptrLbl p) n ≤ 32768)) (ptrTrap p)
  checkAlign (ptrVa p % 64 == 0) (ptrVa p)
  checkRun (ptrVa p) (panelBytes (ptrFmt p) (ptrLbl p) n)

/-- The columns of elements in error; a byte of a CB4 panel holds two elements (14 R277). -/
def nanCols (fmt : Nat) (bad : List Nat) : BitVec 32 :=
  bad.foldl (fun (m : BitVec 32) i =>
    if fmt = 13 then m ||| BitVec.ofNat 32 (2 ^ (2 * i % 32)) ||| BitVec.ofNat 32 (2 ^ (2 * i % 32 + 1)) else m ||| BitVec.ofNat 32 (2 ^ (i % 32))) 0

/-- `mldb` (14 R279). -/
def execMldb (o : MLdb) (s : State) : Outcome State Fault Refusal :=
  let x := arrIns (encMLdb o) o.la (regsOf .g o.a.toNat) []
  arrOp x (fun c => o.cbr != 0 && ptrFmt (c.getG o.a.toNat) != 13 && c.knows (regsOf .g o.a.toNat)) (do
    let p ← rG o.a.toNat
    checkPanel p (o.nb.toNat + 1)
    let fmt := ptrFmt p
    let total := panelBytes fmt (ptrLbl p) (o.nb.toNat + 1)
    let es ← checkElems 1 1 (panelElems fmt total (ptrVa p))
    let r ← readArr es (if fmt = 13 then 1 else fmtSize fmt) x.size
    match r with
    | none => pure .hold
    | some (l, bad) => do
      modArr (fun a => a.setSlot o.slot.toNat
        ⟨descOf p o.nb.toNat o.cbr.toNat, (List.range es.length).flatMap (bytesAt l), if fmt = 13 then cbOf a o.cbr.toNat else 0,
          nanCols fmt bad⟩)
      pure .seq) s

/-- `mldcb` (14 R280); entries in error are the canonical NaN (14 R277). -/
def execMldcb (o : MLdcb) (s : State) : Outcome State Fault Refusal :=
  let x := arrIns (encMLdcb o) o.la (regsOf .g o.a.toNat) []
  arrOp x (fun _ => false) (do
    let p ← rG o.a.toNat
    checkPtr false p
    checkAlign (ptrVa p % 32 == 0) (ptrVa p)
    let es ← checkElems 1 2 ((List.range 16).map (fun i => (i, vaAdd (ptrVa p) ((2 * i : Nat) : Int))))
    let r ← readArr es 2 x.size
    match r with
    | none => pure .hold
    | some (l, bad) => do
      modArr (fun a => a.setCb o.cb.toNat
        (BitVec.ofNat 256 (ofLe ((List.range 16).flatMap (fun i => if bad.contains i then leBytes 2 0x7FC0 else bytesAt l i)))))
      pure .seq) s

/-! mmul (14 R281) -/

/-- Is k′ active: bits of mk rule the last block. -/
def kActive (kp len n k : Nat) : Bool := decide (k + len < n * len) || bitOf kp (k % len)

/-- The active elements of A, row-major: index 1024 i + k′ and address. -/
def aElems (rows kp len n va sz : Nat) (stride : Int) : List (Nat × Nat) :=
  (List.range 32).flatMap (fun i =>
    if bitOf rows i then
      (List.range (n * len)).filterMap (fun k =>
        if kActive kp len n k then some (1024 * i + k, vaAdd va ((i : Int) * stride + ((k * sz : Nat) : Int))) else none)
    else [])

/-- A block's exponents, integers and values of one row or column. -/
structure Line where
  n : Nat
  ex : Int
  ints : List Int
  vals : List (Option FVal)
  deriving Repr

def lineOf (f emin : Int) (n : Nat) (l : List (Option FVal)) : Line :=
  let v := l.map (fun x => x.getD (.zero false))
  let ex := blockExp emin v
  ⟨n, ex, v.map (alignTo f ex), l⟩

/-- What a block adds to a cell (13 R261, R266): value, state, and whether it saturates. -/
def blockCell (f eacc : Int) (a b : Line) (c : Cell) : Cell × Bool :=
  let q := atWeight (blockProduct a.ints b.ints) (a.ex + b.ex - 2 * f) eacc
  let r := addCell c.value.toInt q
  let sp := blockSpec (a.vals.zip (b.vals.map (fun x => x.getD (.zero false))))
  (⟨BitVec.ofInt 128 r.1, BitVec.ofNat 2 (mergeSpec c.spec.toNat sp)⟩, r.2)

/-- One block into a set. -/
def addBlock (f : Int) (as_ bs : List Line) (x : AccSet) : AccSet :=
  let cells := (List.range 1024).map (fun n =>
    let c := x.cells.getD n Cell.zero
    match as_.find? (fun l => l.n == n / 32), bs.find? (fun l => l.n == n % 32) with
    | some a, some b => (n, blockCell f x.eacc a b c)
    | _, _ => (n, (c, false)))
  { x with
    cells := packCells (cells.map (fun p => (p.1, p.2.1)))
    ovf := x.ovf || cells.any (fun p => p.2.2)
    rcorr := (as_.map (fun l => (l.n, BitVec.ofInt 128 (sumSq l.ints)))).filter (fun p => p.2 != 0) }

def maxExp (emin : Int) (l : List Line) : Int := l.foldl (fun m x => max m x.ex) emin

/-- Eacc of the automatic anchor (13 R262). -/
def autoEacc (cls : Nat) (maxA maxB : Int) : Int :=
  let e := maxA + maxB - 2 * classF cls - classShift cls
  if e < -1024 then -1024 else if 1023 < e then 1023 else e

/-- The lines of A and of the panel in one block. -/
def aLines (cls fmt rows kp len n : Nat) (l : List (Nat × List Byte)) (b : Nat) : List Line :=
  ((List.range 32).filter (bitOf rows)).map (fun i =>
    lineOf (classF cls) (elemFmt fmt).emin i ((List.range len).map (fun k =>
      let k1 := b * len + k
      if kActive kp len n k1 then some ((elemFmt fmt).dec (ofLe (bytesAt l (1024 * i + k1)))) else none)))

def bLines (w : WbSlot) (cols b : Nat) : List Line :=
  ((List.range 32).filter (bitOf cols)).map (fun j =>
    lineOf (classF w.cls) (elemFmt w.fmt).emin j ((List.range w.len).map (fun k => some (w.at (b * w.len + k) j))))

/-- `mmul` on the array state, from the bytes of A. -/
def mulArr (a : ArrState) (set : Bool) (w : WbSlot) (fmt f n : Nat) (l : List (Nat × List Byte)) : ArrState :=
  let as_ := (List.range n).map (aLines w.cls fmt a.rowP.toNat a.kP.toNat w.len n l)
  let bs := (List.range n).map (fun b => bLines w a.colP.toNat (f + b))
  let x := a.acc set
  let x1 := if x.anch then x else
    { x with anch := true, eacc := autoEacc w.cls (maxExp (elemFmt fmt).emin as_.flatten) (maxExp (elemFmt w.fmt).emin bs.flatten) }
  a.setAcc set ((as_.zip bs).foldl (fun y p => addBlock (classF w.cls) p.1 p.2 y) x1)

/-- The active cells of rows whose bytes were in error merge with NaN (14 R277). -/
def nanRows (a : ArrState) (set : Bool) (rows : List Nat) : ArrState :=
  if rows.isEmpty then a
  else a.setAcc set ((a.acc set).mapCells (fun i j c =>
    if rows.contains i && bitOf a.rowP.toNat i && bitOf a.colP.toNat j then { c with spec := BitVec.ofNat 2 (mergeSpec c.spec.toNat 3) } else c))

/-- `mmul` (14 R281). -/
def execMmul (o : MMul) (s : State) : Outcome State Fault Refusal :=
  let x := arrIns (encMMul o) o.la (regsOf .g o.a.toNat ++ regsOf .g o.t.toNat) []
  let n := o.nb.toNat + 1
  arrOp x (fun c =>
      let w := c.arr.slot o.slot.toNat
      !w.valid || decide (w.nblk + 1 < o.first.toNat + n)) (do
    let p ← rG o.a.toNat
    let st ← getS
    let a := st.core.arr
    let w := a.slot o.slot.toNat
    checkPtr true p
    let fmt := ptrFmt p
    guardT (fmt != 13 && (match classOf fmt with | some c => decide (c ≤ w.cls) | none => false) && lblLen (ptrLbl p) == w.len) (ptrTrap p)
    let g ← rG o.t.toNat
    checkAlign (ptrVa p % fmtSize fmt == 0 && g.toNat % fmtSize fmt == 0) (ptrVa p)
    let es ← checkElems 1 1 (aElems a.rowP.toNat a.kP.toNat w.len n (ptrVa p) (fmtSize fmt) g.toInt)
    let r ← readArr es (fmtSize fmt) x.size
    match r with
    | none => pure .hold
    | some (l, bad) => do
      modArr (fun a => nanRows (mulArr a o.set w fmt o.first.toNat n l) o.set (bad.map (fun i => i / 1024)))
      pure .seq) s

/-! mdrain (14 R282) -/

/-- A cell as a value (13 R264). -/
def cellValue (mode : RMode) (eacc : Int) (c : Cell) : FVal :=
  match c.spec.toNat with
  | 1 => .inf false
  | 2 => .inf true
  | 3 => .nan
  | _ => ofScaled c.value.toInt eacc (mode == .rdn)

/-- The cells that the predicates leave active, as a mask of 1024 bits. -/
def cellMask (rows cols : Nat) : Nat :=
  (List.range 1024).foldl (fun m n => if bitOf rows (n / 32) && bitOf cols (n % 32) then m + 2 ^ n else m) 0

/-- The rounding mode: a MASK prefix with a code replaces the field. -/
def drainMode (o : MDrain) : RMode :=
  RMode.of (match o.mask with | some m => if m.rnd = 0 then o.rnd.toNat else m.rnd.toNat | none => o.rnd.toNat)

/-- `mdrain` (14 R282). -/
def execMdrain (o : MDrain) (s : State) : Outcome State Fault Refusal :=
  arrOp (arrIns (encMDrain o) o.la (regsOf .g o.a.toNat ++ regsOf .g o.t.toNat) []) (fun _ => false) (do
    let p ← rG o.a.toNat
    checkPtr true p
    let fmt := ptrFmt p
    guardT ((fmtOf fmt).isSome) (ptrTrap p)
    let g ← rG o.t.toNat
    let sz := fmtSize fmt
    checkAlign (ptrVa p % sz == 0 && g.toNat % sz == 0) (ptrVa p)
    let st ← getS
    let a := st.core.arr
    let mk := cellMask a.rowP.toNat a.colP.toNat
    let act := (List.range 1024).filter (bitOf mk)
    let es ← storeElems 1 (act.map (fun n =>
      (n, vaAdd (ptrVa p) (((n / 32 : Nat) : Int) * g.toInt + ((n % 32 * sz : Nat) : Int)))))
    let mode := drainMode o
    let dr ← takeDraws mode mk 1024
    let acc := a.acc o.set
    let out := (List.range 1024).map (fun n =>
      if bitOf mk n then (elemFmt fmt).round mode false (dr.getD n 0) (cellValue mode acc.eacc (acc.cells.getD n Cell.zero)) else (0, 0))
    raiseFlags (orFlags mk out)
    let ok ← storeArr (fun n => leBytes sz (out.getD n (0, 0)).1) es
    if !ok then do
      modC (fun c => { c with sgen := st.core.sgen, fflags := st.core.fflags })
      pure .hold
    else do
      if o.keep then pure ()
      else modArr (fun a => a.setAcc o.set ((a.acc o.set).mapCells (fun i j c => if bitOf mk (32 * i + j) then Cell.zero else c)))
      pure .seq) s

/-! Predicates, exponent, status, corrections (14 R283 to R286) -/

def predOp (sel : Nat) (o : MPred) (f : BitVec 32 → ArrState → ArrState) (s : State) : Outcome State Fault Refusal :=
  arrOp (arrIns (encMPred sel o) o.la (regsOf .g o.a.toNat) []) (fun _ => false) (do
    let x ← rG o.a.toNat
    modArr (f (x.setWidth 32))
    pure .seq) s

/-- `mpred.mr` (14 R283). -/
def execMpredMr (o : MPred) (s : State) : Outcome State Fault Refusal := predOp 0 o (fun x a => { a with rowP := x }) s
/-- `mpred.mc` (14 R283). -/
def execMpredMc (o : MPred) (s : State) : Outcome State Fault Refusal := predOp 1 o (fun x a => { a with colP := x }) s
/-- `mpred.mk` (14 R283). -/
def execMpredMk (o : MPred) (s : State) : Outcome State Fault Refusal := predOp 2 o (fun x a => { a with kP := x }) s

/-- `mrdexp` (14 R284). -/
def execMrdexp (o : MSet) (s : State) : Outcome State Fault Refusal :=
  arrOp (msetIns 6 0 o true) (fun _ => false) (do
    let st ← getS
    let x := st.core.arr.acc o.set
    wG o.a.toNat (if x.anch then BitVec.ofInt 64 x.eacc else BitVec.ofNat 64 (2 ^ 63))
    pure .seq) s

/-- The status word (14 R285). -/
def arrStatus (a : ArrState) (set : Bool) : Nat :=
  let x := a.acc set
  let v := (List.range 4).foldl (fun t n => if (a.slot n).valid then t + 2 ^ (4 + n) else t) 0
  v + 8 * b2n (x.cells.any (fun p => p.2.spec == 1 || p.2.spec == 2)) + 4 * b2n (x.cells.any (fun p => p.2.spec == 3)) +
    2 * b2n x.anch + b2n x.ovf

/-- `mstat` (14 R285). -/
def execMstat (o : MSet) (s : State) : Outcome State Fault Refusal :=
  arrOp (msetIns 7 0 o true) (fun _ => false) (do
    let st ← getS
    wG o.a.toNat (BitVec.ofNat 64 (arrStatus st.core.arr o.set))
    pure .seq) s

/-- Store doublewords at an INT64 pointer (14 R286). -/
def corrStore (a : Nat) (words : ArrState → List Nat) : M Flow := do
  let p ← rG a
  checkPtr true p
  guardT (ptrFmt p == 5) (ptrTrap p)
  checkAlign (ptrVa p % 8 == 0) (ptrVa p)
  let st ← getS
  let ws := words st.core.arr
  checkRun (ptrVa p) (8 * ws.length)
  let es ← storeElems 8 ((List.range ws.length).map (fun i => (i, vaAdd (ptrVa p) ((8 * i : Nat) : Int))))
  let ok ← storeArr (fun i => leBytes 8 (ws.getD i 0)) es
  pure (if ok then .seq else .hold)

def two64 (x : Nat) : List Nat := [x % 2 ^ 64, x / 2 ^ 64 % 2 ^ 64]

/-- C(j) and E_b(j) of one block of a slot. -/
def corrBlock (w : WbSlot) (b : Nat) : List Nat :=
  let ls := bLines w (2 ^ 32 - 1) b
  ls.flatMap (fun l => two64 (sumSq l.ints).toNat) ++ ls.map (fun l => wrapN 64 l.ex)

/-- `mcorr.row` (14 R286). -/
def execMcorrRow (o : MSet) (s : State) : Outcome State Fault Refusal :=
  arrOp (msetIns 8 0 o false) (fun _ => false)
    (corrStore o.a.toNat (fun a => (List.range 32).flatMap (fun i => two64 ((a.acc o.set).row i).toNat))) s

/-- `mcorr.col` (14 R286). -/
def execMcorrCol (o : MCol) (s : State) : Outcome State Fault Refusal :=
  arrOp (arrIns (encMCol o) o.la (regsOf .g o.a.toNat) []) (fun c => !(c.arr.slot o.slot.toNat).valid)
    (corrStore o.a.toNat (fun a =>
      let w := a.slot o.slot.toNat
      (List.range (w.nblk + 1)).flatMap (corrBlock w))) s

end Sys2Proof.Machine
end

