-- ==== Sys2Proof/Machine/Future.lean ====
section
/-!
DEFINITION. Futures: handles (11 R229), the on-chip tables and the counting board (10 R211 to R221), and what every
event on an entry does (10 R212 to R215, R222, R223).
-/
namespace Sys2Proof.Machine

open Host (Outcome)

/-! Handles (11 R229) -/

def hNode (h : Word) : Nat := fld h.toNat 63 54
def hHome (h : Word) : Nat := fld h.toNat 53 48
def hSlot (h : Word) : Nat := fld h.toNat 47 34
def hCtx (h : Word) : Nat := fld h.toNat 9 4
def hKind (h : Word) : Nat := fld h.toNat 3 0

def mkHandle (node home slot gen ctx kind : Nat) : Word :=
  BitVec.ofNat 64 (node * 2 ^ 54 + home * 2 ^ 48 + slot * 2 ^ 34 + gen * 2 ^ 10 + ctx * 2 ^ 4 + kind)

def ownNode (s : State) : Nat := s.fab.own.toNat

def FtState.done : FtState → Bool
  | .resolved => true
  | .poisoned => true
  | .cancelled => true
  | _ => false

/-! Device accesses to a context's areas (10 R194, 06 R139) -/

/-- Read `n` doublewords; the trap holds the address of the access that failed. -/
def devRead (v ctx va n : Nat) : M Nat := fun s =>
  match tableRead v ctx va n s with
  | (.ok x, s') => .ok (x, s')
  | (.error c, _) => .error { code := c, tval := BitVec.ofNat 64 va }

/-- Write doublewords; `w` is the core of whose cluster the dirty log applies. -/
def devWrite (v w ctx va : Nat) (l : List Nat) : M Unit := fun s =>
  match tableWrites v w ctx va l s with
  | (none, s') => .ok ((), s')
  | (some (c, a), _) => .error { code := c, tval := BitVec.ofNat 64 a, toH := c == 23 }

/-- A failed access to the counting board: "spill area exhausted" (10 R221). A full dirty log keeps its own cause. -/
def onBoard {α : Type} (m : M α) : M α := fun s =>
  match m s with
  | .ok r => .ok r
  | .error t => .error (if t.code = 23 ∨ t.code = 21 then t else { code := 22, tval := t.tval })

/-- The context block (06 R139). -/
structure CtxBlk where
  ttab : Nat
  tspc : Nat
  park : Nat
  board : Nat
  bsize : Nat
  deriving DecidableEq, Repr

def dword (x i : Nat) : Nat := fld x (64 * i + 63) (64 * i)

/-- The block from its eight doublewords; none where it breaks a zero rule. -/
def blkOf (x : Nat) : Option CtxBlk :=
  let d := dword x
  if fld (d 0) 63 48 != 0 || fld (d 0) 5 0 != 0 || fld (d 1) 63 48 != 0 || fld (d 1) 5 0 != 0 || fld (d 2) 63 48 != 0 || fld (d 2) 11 0 != 0 ||
     fld (d 3) 63 48 != 0 || fld (d 3) 11 0 != 0 || fld (d 4) 63 48 != 0 || fld (d 4) 11 0 != 0 || d 5 != 0 || d 6 != 0 || d 7 != 0 then none
  else some ⟨d 0, d 1, d 2, d 3, d 4⟩

/-- The block of a context, read through stage 2. -/
def ctxBlock (ctx : Nat) : M CtxBlk := do
  let r ← liftS (fun s => useRec s ctx)
  let bad : Trap := { code := 6, tval := BitVec.ofNat 64 r.cblk }
  let s ← getS
  match gpaTo s r r.cblk with
  | .error _ => raise bad
  | .ok t =>
    match (if t.r then physRead s t.key t.pa 64 else none) with
    | none => raise bad
    | some x =>
      match blkOf x with
      | none => raise bad
      | some b => pure b

/-- Is the context's table entry valid (06 R138)? -/
def ctxValid (s : State) (ctx : Nat) : Bool := (readRec s ctx).valid

/-! The counting board (10 R218, R219) -/

/-- Where an entry stands: a slot of a cluster's table, or record j of a cluster on the board. -/
inductive At where
  | chip (cl slot : Nat)
  | board (cl j : Nat)
  deriving DecidableEq, Repr

def CtxBlk.headAt (b : CtxBlk) (c s : Nat) : Nat := b.board + 8 * (c * 1024 + s)
def CtxBlk.recAt (b : CtxBlk) (c j : Nat) : Nat := b.board + 0x81000 + 64 * (c * 15360 + j)
def CtxBlk.recIn (b : CtxBlk) (c j : Nat) : Bool := decide (j < 15360) && decide (b.recAt c j + 64 ≤ b.board + b.bsize)

/-- A core of a cluster, as the agent that the device acts as for it. -/
def clCore (cl : Nat) : Nat := cl * 8

def subOf : FtState → Nat
  | .resolved => 3
  | .poisoned => 4
  | .cancelled => 5
  | _ => 1

/-- Waiters of a handle, in order. -/
def waitersOf (s : State) (h : Word) : List Nat := (s.waits.filter (fun w => w.h == h)).map (fun w => w.ref)

/-- What a record says of its waiters: how many, the first, the last. -/
structure RecList where
  count : Nat
  head : Nat
  last : Nat
  deriving DecidableEq, Repr

def RecList.none : RecList := ⟨0, 0, 0⟩
def RecList.of (x : Nat) : RecList := ⟨fld (dword x 2) 63 32, fld (dword x 5) 25 0, fld (dword x 5) 51 26⟩

/-- A waiter more, behind the last. -/
def RecList.add (ref : Nat) (l : RecList) : RecList := if l.count = 0 then ⟨1, ref, ref⟩ else ⟨l.count + 1, l.head, ref⟩

/-- `ref` of the waiters `ws` fewer. -/
def RecList.take (ws : List Nat) (ref : Nat) (l : RecList) : RecList :=
  match ws.erase ref with
  | [] => .none
  | h :: _ => ⟨l.count - 1, h, if l.last = ref then ws.getD (ws.findIdx (· == ref) - 1) 0 else l.last⟩

/-- dw0 to dw5 of a record. -/
def recWords (l : RecList) (e : Entry) : List Nat :=
  [e.handle.toNat, e.value.toNat, l.count % 2 ^ 32 * 2 ^ 32 + e.refs % 65536 * 2 ^ 16 + e.code % 256 * 256 + b2n e.creq * 8 + subOf e.st,
   e.parent.toNat, e.seq % 2 ^ 48, l.last * 2 ^ 26 + l.head]

/-- The entry of a record; none where the record breaks R219. -/
def recEntry (x : Nat) : Option Entry :=
  let d := dword x
  let st? : Option FtState :=
    match fld (d 2) 2 0 with
    | 1 => some .pending
    | 3 => some .resolved
    | 4 => some .poisoned
    | 5 => some .cancelled
    | _ => none
  if (fld (d 2) 63 32 == 0 && fld (d 5) 25 0 != 0) || fld (d 2) 7 4 != 0 || fld (d 4) 63 48 != 0 || fld (d 5) 63 52 != 0 || fld (d 6) 63 14 != 0 || d 7 != 0 then none
  else
    st?.map (fun st =>
      ⟨st, fld (d 0) 3 0, BitVec.ofNat 64 (d 0), BitVec.ofNat 64 (d 1), BitVec.ofNat 64 (d 3), d 4, fld (d 2) 15 8, 0, bitOf (d 2) 3, fld (d 2) 31 16⟩)

/-- The waiter whose own entry is linked behind that of `r` (10 R215). -/
def nextWaiter (s : State) (r : Nat) : Option Nat :=
  match s.waits.find? (fun w => w.ref == r) with
  | none => none
  | some w =>
    let l := waitersOf s w.h
    (l.drop (l.findIdx (· == r) + 1)).head?

/-- The first `n` waiters from `r` on. -/
def walkWaits (s : State) : Nat → Nat → List Nat
  | 0, _ => []
  | n + 1, r => r :: (match nextWaiter s r with | none => [] | some x => walkWaits s n x)

/-- The waiters that a record names: of a record that software has changed, as written (10 R218). -/
def recWaits (s : State) (x : Nat) : List Nat :=
  let d := dword x
  walkWaits s (minN (fld (d 2) 63 32) (s.waits.length + 1)) (fld (d 5) 25 0)

/-- The waiters of `h` are those of the list, in this order. -/
def setWaits (h : Word) (l : List Nat) (s : State) : State :=
  if waitersOf s h = l then s else { s with waits := s.waits.filter (fun w => w.h != h) ++ l.map (fun r => ⟨h, r⟩) }

/-- Walk a chain from a link: the record whose handle is `h`. -/
def walkChain (b : CtxBlk) (ctx c : Nat) (h : Word) : Nat → Nat → M (Option (Nat × Nat))
  | 0, _ => pure none
  | f + 1, link =>
    if link = 0 || !b.recIn c (link - 1) then pure none
    else do
      let x ← devRead (clCore c) ctx (b.recAt c (link - 1)) 8
      if dword x 0 = h.toNat && fld (dword x 2) 2 0 != 0 then pure (some (link - 1, x))
      else walkChain b ctx c h f (fld (dword x 6) 13 0)

/-- The record of a handle that no table holds. -/
def findRec (h : Word) : M (Option (Nat × Nat)) := do
  let ctx := hCtx h
  let c := hHome h
  let b ← ctxBlock ctx
  if 1024 ≤ hSlot h then
    let j := hSlot h - 1024
    if !b.recIn c j then pure none
    else do
      let x ← devRead (clCore c) ctx (b.recAt c j) 8
      pure (if dword x 0 = h.toNat && fld (dword x 2) 2 0 != 0 then some (j, x) else none)
  else do
    let x ← devRead (clCore c) ctx (b.headAt c (hSlot h)) 1
    walkChain b ctx c h 15361 (fld x 13 0)

def badHandle (h : Word) : Trap := { code := 21, tval := h }

/-- The entry that a handle of this node names (10 R211). -/
def findEntry (h : Word) : M (Option (At × Entry)) := do
  let s ← getS
  match List.find? (fun p => p.2.handle == h) (getCl s (hHome h)).ft with
  | some p => pure (some (.chip (hHome h) p.1, p.2))
  | none => do
    let r ← onBoard (findRec h)
    match r with
    | none => pure none
    | some (j, x) =>
      match recEntry x with
      | none => raise (badHandle h)
      | some e => do
        modS (fun s => setWaits h (recWaits s x) s)
        pure (some (.board (hHome h) j, e))

/-- Store an entry where it stands; what a record says of its waiters becomes what `f` gives. -/
def putWith (f : RecList → RecList) (a : At) (e : Entry) : M Unit :=
  match a with
  | .chip cl slot => modS (fun s => updEntry s cl slot (fun _ => e))
  | .board cl j => onBoard (do
      let ctx := hCtx e.handle
      let b ← ctxBlock ctx
      let x ← devRead (clCore cl) ctx (b.recAt cl j) 8
      let s ← getS
      devWrite (clCore cl) (irqCore s ctx) ctx (b.recAt cl j) (recWords (f (.of x)) e))

/-- Store an entry where it stands; a record keeps what it says of its waiters (10 R218). -/
def putEntry (a : At) (e : Entry) : M Unit := putWith (fun l => l) a e

/-- Take record j off the chain of its slot. -/
def unlink (b : CtxBlk) (ctx c j : Nat) (next : Nat) : Nat → Nat → M Unit
  | 0, _ => pure ()
  | f + 1, link =>
    if link = 0 || !b.recIn c (link - 1) then pure ()
    else do
      let x ← devRead (clCore c) ctx (b.recAt c (link - 1)) 8
      if fld (dword x 6) 13 0 = j + 1 then do
        let s ← getS
        devWrite (clCore c) (irqCore s ctx) ctx (b.recAt c (link - 1) + 48) [next]
      else unlink b ctx c j next f (fld (dword x 6) 13 0)

/-- Record j becomes free (10 R220). -/
def freeRec (h : Word) (c j : Nat) : M Unit := onBoard (do
  let ctx := hCtx h
  let b ← ctxBlock ctx
  let x ← devRead (clCore c) ctx (b.recAt c j) 8
  let next := fld (dword x 6) 13 0
  let s ← getS
  if hSlot h < 1024 then do
    let head ← devRead (clCore c) ctx (b.headAt c (hSlot h)) 1
    if fld head 13 0 = j + 1 then devWrite (clCore c) (irqCore s ctx) ctx (b.headAt c (hSlot h)) [next]
    else unlink b ctx c j next 15361 (fld head 13 0)
  else pure ()
  devWrite (clCore c) (irqCore s ctx) ctx (b.recAt c j + 16) [0])

/-- An entry becomes FREE (10 R212). -/
def freeEntry (a : At) (h : Word) : M Unit :=
  match a with
  | .chip cl slot => modS (fun s => updCl s cl (fun c => { c with ft := c.ft.erase slot }))
  | .board cl j => freeRec h cl j

/-- FREE where it is finished, without waiters and without references. -/
def freeIfDone (a : At) (e : Entry) : M Unit := do
  let s ← getS
  if e.st.done && e.refs == 0 && (waitersOf s e.handle).isEmpty then freeEntry a e.handle else pure ()

/-- Release one reference (10 R212). -/
def releaseEntry (a : At) (e : Entry) : M Unit := do
  guardT (e.refs != 0) (badHandle e.handle)
  let e1 := { e with refs := e.refs - 1 }
  putEntry a e1
  freeIfDone a e1

/-- The producer finishes an entry (10 R213, R214): no effect on a finished one. The device's own release follows. -/
def finishEntry (a : At) (e : Entry) (st : FtState) (value : Word) (code : Nat) : M Unit := do
  if e.st.done then pure ()
  else do
    let s ← getS
    let drop := s.drops.contains e.handle && e.refs != 0
    let e1 := { e with st := st, value := if st = .resolved then value else 0, code := if st = .poisoned then code % 256 else 0,
                       refs := if drop then e.refs - 1 else e.refs }
    modS (fun s => { s with drops := s.drops.filter (· != e.handle) })
    putEntry a e1
    freeIfDone a e1

/-- Finish the entry that a handle names, where there is one. -/
def finishHandle (h : Word) (st : FtState) (value : Word) (code : Nat) : M Unit := do
  let r ← findEntry h
  match r with
  | none => pure ()
  | some (a, e) => finishEntry a e st value code

/-! Allocation (10 R217) -/

def nextSeqOf (ctx : Nat) : M Nat := fun s =>
  let n := (getCtx s ctx).seq + 1
  .ok (n.toNat, updCtx s ctx (fun c => { c with seq := n }))

/-- On-chip entries of a context in a cluster that are not FREE. -/
def useOf (s : State) (ctx cl : Nat) : Nat := ((getCl s cl).ft.filter (fun p => hCtx p.2.handle == ctx)).length

def freeSlot (s : State) (cl : Nat) : Option Nat := firstBelow (fun i => ((getCl s cl).ft.find? i).isNone) 1024

/-- The next generation of a slot or of a board record (10 R211). -/
def nextGen (cl key : Nat) : M Nat := fun s =>
  let g := ((getCl s cl).genr.getD key 0 + 1) % 2 ^ 24
  .ok (g, updCl s cl (fun c => { c with genr := c.genr.insert key g }))

/-- Key of record j of a context among the generations. -/
def recGen (ctx j : Nat) : Nat := 1024 + ctx * 15360 + j

/-- The lowest free record of a cluster, from j on. -/
def freeRecFrom (b : CtxBlk) (ctx c : Nat) : Nat → Nat → M Nat
  | 0, j => raise { code := 22, tval := BitVec.ofNat 64 (b.recAt c j) }
  | f + 1, j =>
    if !b.recIn c j then raise { code := 22, tval := BitVec.ofNat 64 (b.recAt c j) }
    else do
      let x ← devRead (clCore c) ctx (b.recAt c j + 16) 1
      if fld x 2 0 = 0 then pure j else freeRecFrom b ctx c f (j + 1)

/-- Spill an on-chip entry (10 R217): its record is written before its slot is reused. -/
def spillEntry (cl slot : Nat) (e : Entry) : M Unit := onBoard (do
  let ctx := hCtx e.handle
  let b ← ctxBlock ctx
  let j ← freeRecFrom b ctx cl 15360 0
  let s ← getS
  let w := irqCore s ctx
  let old ← if hSlot e.handle < 1024 then devRead (clCore cl) ctx (b.headAt cl (hSlot e.handle)) 1 else pure 0
  devWrite (clCore cl) w ctx (b.recAt cl j) (recWords .none e ++ [fld old 13 0, 0])
  if hSlot e.handle < 1024 then devWrite (clCore cl) w ctx (b.headAt cl (hSlot e.handle)) [j + 1] else pure ()
  modS (fun s => updCl s cl (fun c => { c with ft := c.ft.erase slot }))
  modS (fun s => emit s (576 + cl) ctx 0x87 2 1 0 (some (e.handle.toNat, b.recAt cl j))))

def mkEntry (st : FtState) (h parent : Word) (seq refs : Nat) : Entry := ⟨st, hKind h, h, 0, parent, seq, 0, 0, false, refs⟩

/-- The victim of an allocation: PENDING, without waiters, of the least sequence. -/
def victim (s : State) (ctx cl : Nat) : Option (Nat × Entry) :=
  ((getCl s cl).ft.filter (fun p => hCtx p.2.handle == ctx && p.2.st == .pending && (waitersOf s p.2.handle).isEmpty)).foldl
    (fun (b : Option (Nat × Entry)) p => match b with
      | none => some p
      | some q => if p.2.seq < q.2.seq then some p else b) none

/-- Would an allocation spill an entry, whose record its scheduler writes, while that one stalls (24 R385)? -/
def spillWaits (s : State) (ctx cl : Nat) : Bool :=
  stalledSrc s (576 + cl) && (victim s ctx cl).isSome &&
    !(decide (useOf s ctx cl < (getX s ctx cl).fquota.toNat) && (freeSlot s cl).isSome)

/-- Allocate an entry in PENDING (10 R217): its handle. -/
def allocEntry (cl ctx kind : Nat) (parent : Word) (refs : Nat) : M Word := do
  let s ← getS
  let room := decide (useOf s ctx cl < (getX s ctx cl).fquota.toNat)
  let onChip : Nat → M Word := fun slot => do
    let seq ← nextSeqOf ctx
    let g ← nextGen cl slot
    let h := mkHandle (ownNode s) cl slot g ctx kind
    modS (fun s => updCl s cl (fun c => { c with ft := c.ft.insert slot (mkEntry .pending h parent seq refs) }))
    pure h
  match (if room then freeSlot s cl else none) with
  | some slot => onChip slot
  | none =>
    match victim s ctx cl with
    | some (slot, e) => do
      spillEntry cl slot e
      onChip slot
    | none => onBoard (do
      let b ← ctxBlock ctx
      let j ← freeRecFrom b ctx cl 15360 0
      let seq ← nextSeqOf ctx
      let g ← nextGen cl (recGen ctx j)
      let h := mkHandle (ownNode s) cl (1024 + j) g ctx kind
      let s ← getS
      devWrite (clCore cl) (irqCore s ctx) ctx (b.recAt cl j) (recWords .none (mkEntry .pending h parent seq refs) ++ [0, 0])
      pure h)

/-- Room for a refill or a dispatch (10 R220). -/
def refillSlot (s : State) (ctx cl : Nat) : Option Nat :=
  if useOf s ctx cl < (getX s ctx cl).fquota.toNat + (getX s ctx cl).fwater.toNat then freeSlot s cl else none

/-- The on-chip entry of a gang task of a grid, made at its first dispatch (10 R212, 12 R254): its slot. -/
def allocRunning (cl ctx : Nat) : M (Option Nat) := do
  let s ← getS
  match refillSlot s ctx cl with
  | none => pure none
  | some slot => do
    let seq ← nextSeqOf ctx
    let g ← nextGen cl slot
    let h := mkHandle (ownNode s) cl slot g ctx 0
    modS (fun s => updCl s cl (fun c => { c with ft := c.ft.insert slot (mkEntry .running h 0 seq 1) }))
    pure (some slot)

/-- Refill a spilled entry at dispatch (10 R220): its slot. -/
def refillEntry (cl j : Nat) (e : Entry) : M (Option Nat) := do
  let s ← getS
  let ctx := hCtx e.handle
  match refillSlot s ctx cl with
  | none => pure none
  | some slot => do
    freeRec e.handle cl j
    modS (fun s => updCl s cl (fun c => { c with ft := c.ft.insert slot e }))
    modS (fun s => emit s (576 + cl) ctx 0x88 2 1 slot (some (e.handle.toNat, 0)))
    pure (some slot)

/-! Own entries -/

/-- The handle of the entry that the active core's task holds: the parent of what it creates. -/
def parentOf (s : State) : Word := ((ownEntry s s.cur).map (fun e => e.handle)).getD 0

/-- The future handle of the task of core `v`: 0 for a gang task of a grid, and without a task (04 R92). -/
def ownHandle (s : State) (v : Nat) : Word :=
  match (getCore s v).task with
  | none => 0
  | some r => ((gangOf s r.gid).bind (fun g => (g.members.find? (fun m => m.rank == r.rank)).map (fun m => m.fut))).getD 0

/-- The cancel-request flag of the active core's task (10 R222). -/
def cancelAsked (s : State) : Bool := ((ownEntry s s.cur).map (fun e => e.creq)).getD false
def cancelTrap (s : State) : Trap := { code := 12, tval := ownHandle s s.cur }
def notCancelled : M Unit := do
  let s ← getS
  guardT (!cancelAsked s) (cancelTrap s)

/-! Waiters (10 R215) -/

/-- The reference of the active core's own entry as a waiter (10 R219). -/
def waiterRef (s : State) : Nat :=
  match ownSlot s s.cur with
  | some (cl, slot) => ownNode s * 65536 + cl * 1024 + slot
  | none => 0

def addWaiter (h : Word) (ref : Nat) (s : State) : State := { s with waits := s.waits ++ [⟨h, ref⟩] }

/-- A waiter joins the list of an entry: behind the last one, on the board behind the one that its record names as the last,
even where that is none of the list, which then leads to the new one no more (10 R215, R218; log 42). -/
def joinList (a : At) (e : Entry) (ref : Nat) : M Unit := do
  let h := e.handle
  match a with
  | .chip _ _ => modS (addWaiter h ref)
  | .board c j => do
    let last ← onBoard (do
      let b ← ctxBlock (hCtx h)
      let x ← devRead (clCore c) (hCtx h) (b.recAt c j) 8
      pure (RecList.of x).last)
    let s ← getS
    let l := waitersOf s h
    if l.isEmpty then modS (addWaiter h ref)
    else if l.contains last then modS (setWaits h (l.take (l.findIdx (· == last) + 1) ++ [ref]))
    else pure ()
    putWith (RecList.add ref) a e

/-- A waiter leaves the list of an entry, if it is in it. -/
def leaveList (a : At) (e : Entry) (ref : Nat) : M Unit := do
  let s ← getS
  if s.waits.contains ⟨e.handle, ref⟩ then do
    let l := waitersOf s e.handle
    modS (fun s => { s with waits := s.waits.erase ⟨e.handle, ref⟩ })
    match a with
    | .chip _ _ => pure ()
    | .board _ _ => putWith (RecList.take l ref) a e
  else pure ()

/-- Take the first waiter that `p` names off its list. -/
def dropWaiter (s : State) (p : Waiter → Bool) : State :=
  match s.waits.find? p with
  | none => s
  | some w => { s with waits := s.waits.erase w }

/-- The first waiter that `p` names leaves its list, that of an entry of this node with its record. -/
def unlist (s : State) (p : Waiter → Bool) : State :=
  match s.waits.find? p with
  | none => s
  | some w =>
    if hNode w.h ≠ ownNode s then dropWaiter s p
    else
      match (do
        let r ← findEntry w.h
        match r with
        | some (a, e) => leaveList a e w.ref
        | none => pure ()) s with
      | .ok (_, s1) => dropWaiter s1 p
      | .error _ => dropWaiter s p

def updGang (s : State) (gid : Nat) (f : Gang → Gang) : State :=
  { s with gangs := s.gangs.map (fun g => if g.gid = gid then f g else g) }

/-- A gang joins the tail of the ready queue of its record's priority (10 R205), which ends its cluster's search (10 R207). A
record keeps the stamp with which it entered its first queue; one that becomes READY again enters a queue anew (10 R228). -/
def joinQueue (s : State) (gid : Nat) : State :=
  match gangOf s gid with
  | none => s
  | some g =>
    let again := g.members.any (fun m => m.started)
    let g1 := { g with
      st := .ready, enq := if again then s.cycle.toNat else g.enq, since := s.cycle.toNat, queue := minN (fld g.dw0.toNat 15 12) 3, aside := false }
    let s1 := match g.cluster with
      | some cl => updCl s cl (fun c => { c with searchSince := none })
      | none => s
    { s1 with gangs := s1.gangs.filter (fun x => x.gid != gid) ++ [g1] }

/-- The gang one of whose members runs under an on-chip entry. -/
def gangAtSlot (s : State) (cl slot : Nat) : Option (Gang × Member) :=
  s.gangs.findSome? (fun g => (g.members.find? (fun m => m.slot == some (cl * 1024 + slot))).map (fun m => (g, m)))

/-- Wake the waiter that stands under an on-chip entry of this node, because `h` has finished. -/
def wakeLocal (s : State) (h : Word) (cl slot : Nat) (least : Nat) : State :=
  match gangAtSlot s cl slot with
  | none => s
  | some (g, m) =>
    if g.st == .parked && g.touched == h then
      joinQueue (emit s (576 + cl) g.ctx 0x84 1 0 0 (some (m.fut.toNat, h.toNat)) least) g.gid
    else s

/-! Cancellation (10 R213, R222, R223) -/

/-- A cancel request at one entry, without what becomes of the record of a task that it ends: true where the entry
has been CANCELLED. -/
def cancelAt (a : At) (e : Entry) : M Bool := do
  match e.st with
  | .pending =>
    if e.kind ≤ 1 then do
      finishEntry a e .cancelled 0 0
      pure true
    else pure false
  | .running => do
    putEntry a { e with creq := true }
    pure false
  | _ => pure false

/-- Does the chain of parents from `h` reach `target`? -/
def reaches (target : Word) : Nat → Word → M Bool
  | 0, _ => pure false
  | f + 1, h =>
    if h = target then pure true
    else if h = 0 then pure false
    else do
      let s ← getS
      if hNode h != ownNode s then pure false
      else do
        let r ← findEntry h
        match r with
        | none => pure false
        | some (_, e) => reaches target f e.parent

/-- Records of a cluster on the board, from j on. -/
def boardFrom (b : CtxBlk) (ctx c : Nat) : Nat → Nat → M (List (At × Entry))
  | 0, _ => pure []
  | f + 1, j =>
    if !b.recIn c j then pure []
    else do
      let x ← devRead (clCore c) ctx (b.recAt c j) 8
      let r ← boardFrom b ctx c f (j + 1)
      pure (match recEntry x with | some e => (.board c j, e) :: r | none => r)

def boardAll (b : CtxBlk) (ctx : Nat) : Nat → M (List (At × Entry))
  | 0 => pure []
  | c + 1 => do
    let r ← boardAll b ctx c
    let l ← boardFrom b ctx c 15360 0
    pure (r ++ l)

/-- Every entry of a context, on chip or on the board. -/
def allEntries (ctx : Nat) : M (List (At × Entry)) := do
  let s ← getS
  let chip := s.clusters.flatMap (fun p => (p.2.ft.filter (fun q => hCtx q.2.handle == ctx)).map (fun q => (At.chip p.1 q.1, q.2)))
  let b ← onBoard (ctxBlock ctx)
  let rec_ ← onBoard (boardAll b ctx 64)
  pure (chip ++ rec_)

end Sys2Proof.Machine
end

