-- ==== Sys2Proof/Machine/Tiles.lean ====
section
/-!
DEFINITION. Task types and tile spaces (10 R195 to R198), placement, hazards and prefetch (10 R200 to R204), and
write-back (10 R208).
-/
namespace Sys2Proof.Machine

open Host (Outcome)

/-- Run a part and keep its cause as data; a cause undoes the part's changes. -/
def tryM {α : Type} (m : M α) : M (Except Trap α) := fun s =>
  match m s with
  | .ok (x, s') => .ok (.ok x, s')
  | .error t => .ok (.error t, s)

/-- The request that wakes a waiter of another node. -/
def wakeFar (h : Word) (ref : Nat) (s : State) : State :=
  sendReq s (ref / 65536) 5 2 h.toNat (hCtx h) 6 (leBytes 8 ref) h.toNat
    (.fwd { dst := 0, src := 0, kind := 5, nflit := 0, chan := 2, cls := 0, seq := 0, addr := h, ctx := BitVec.ofNat 6 (hCtx h), sub := 6, tag := 0,
            relay := 0, rz := 0, cause := 0, stamp := 0, data := [] })

/-- The first waiter of a finished entry wakes (10 R215); its scheduler hears of it from the entry's own (24 R380). -/
def wakeOne (h : Word) : M Unit := do
  let r ← findEntry h
  match r with
  | none => pure ()
  | some (a, e) => do
    let s ← getS
    match (if e.st.done then waitersOf s h else []) with
    | [] => pure ()
    | ref :: _ => do
      leaveList a e ref
      freeIfDone a e
      if ref / 65536 = ownNode s then
        modS (fun s => wakeLocal s h (ref / 1024 % 64) (ref % 1024) (heardAt s (576 + hHome h) (576 + ref / 1024 % 64)))
      else modS (wakeFar h ref)

/-- What an event on an entry does. A task's own reference that another release has used up since its `tend` is none to release
any more (10 R212, log 104). -/
def DevEv.run : DevEv → M Unit
  | .finish h st value code => finishHandle h st value code
  | .ended h st value code => do
    finishHandle h st value code
    let r ← findEntry h
    match r with
    | some (a, e) => do
      let q ← tryM (releaseEntry a e)
      match q with
      | .error t => if t.code = 21 then pure () else raise t
      | .ok _ => pure ()
    | none => pure ()
  | .wake h => wakeOne h
  | .report ctx words => do
    let r ← tryM (do
      let s ← getS
      let b ← ctxBlock ctx
      devWrite 0 (irqCore s ctx) ctx (b.board + 0x80000) words)
    match r with
    | .error t => if t.code = 23 then raise t else pure ()
    | .ok _ => pure ()

/-- An event that no instruction awaits: where the board fails it is dropped and reported (10 R221); where a write of it
meets a full dirty log it waits (05 R112). -/
def devEvent (ctx : Nat) (e : DevEv) (s : State) : State :=
  match e.run s with
  | .ok (_, s') => s'
  | .error t =>
    if t.code = 23 then
      { postExit s (irqCore s ctx) ctx t.tval with dirtyHeld := s.dirtyHeld ++ [(72, ctx)], evHeld := s.evHeld ++ [(ctx, e)] }
    else postDeferred s (irqCore s ctx) 22 0 ctx

/-- The events of a context that have waited on a full dirty log. -/
def runHeld (s : State) (ctx : Nat) : State :=
  (s.evHeld.filter (fun p => p.1 == ctx)).foldl (fun st p => devEvent ctx p.2 st) { s with evHeld := s.evHeld.filter (fun p => p.1 != ctx) }

/-! Types and tile spaces -/

/-- Fields of a tile-argument descriptor. -/
def argAcc (d : Nat) : Nat := fld d 10 8
def argOk (d : Nat) : Bool :=
  fld d 31 16 == 0 && !bitOf d 11 && decide (argAcc d ≤ 4) && (argAcc d != 0 || d == 0) &&
  (argAcc d != 2 || (fld d 7 0 == 0 && fld d 15 12 == 0))
/-- Does an access code name memory? -/
def accMem (a : Nat) : Bool := a == 1 || a == 3 || a == 4

/-- A type entry; none where R196 rejects it. `one` says that the task is spawned, a gang of one. -/
def typeOf (one : Bool) (x : Nat) : Option TaskType :=
  let d := dword x
  let args := [fld (d 2) 31 0, fld (d 2) 63 32, fld (d 3) 31 0, fld (d 3) 63 32]
  let gang := fld (d 1) 27 24
  if fld (d 0) 63 48 != 0 || bitOf (d 0) 0 || fld (d 1) 63 32 != 0 || fld (d 1) 15 14 != 0 || bitOf (d 1) 7 || d 4 != 0 || d 5 != 0 ||
     d 6 != 0 || d 7 != 0 || decide (64 < fld (d 1) 6 0) || decide (32 < fld (d 1) 13 8) || decide (224 < fld (d 1) 23 16) ||
     gang == 0 || decide (8 < gang) || (one && gang != 1) || !args.all argOk then none
  else
    some ⟨BitVec.ofNat 48 (d 0), bitOf (d 1) 31, bitOf (d 1) 30, fld (d 1) 29 28, gang, fld (d 1) 23 16, fld (d 1) 13 8, fld (d 1) 6 0, args⟩

/-- Base, stride, bytes per row and last row of a tile space; none where R197 rejects it. -/
def spaceOf (x : Nat) : Option (Nat × Nat × Nat × Nat) :=
  let d := dword x
  let rowb := fld (d 2) 15 8
  let rows := fld (d 2) 4 0
  if fld (d 0) 53 48 != 0 || fld (d 1) 63 48 != 0 || fld (d 2) 63 16 != 0 || fld (d 2) 7 5 != 0 || d 3 != 0 ||
     decide (rowb < 8) || decide (128 < rowb) || rowb % 8 != 0 || (rows != 0 && decide (d 1 < rowb)) then none
  else some (fld (d 0) 47 0, d 1, rowb, rows)

/-- A coordinate that a descriptor names (10 R195): x, y, z of doubleword 0 of the record. -/
def coordOf (dw0 sel : Nat) : Nat :=
  match sel with
  | 1 => fld dw0 31 16
  | 2 => fld dw0 47 32
  | 3 => fld dw0 63 48
  | _ => 0

/-- What a task of a type gets: its tiles, not yet placed; the code of a rejection or of a cause where there is one. -/
def argTiles (v ctx : Nat) (tspc dw0 : Nat) : Nat → List Nat → M (Except Nat (List TileArg))
  | _, [] => pure (.ok [])
  | k, d :: r => do
    let rest ← argTiles v ctx tspc dw0 (k + 1) r
    match rest with
    | .error c => pure (.error c)
    | .ok l =>
      let ti := coordOf dw0 (fld d 13 12)
      let tj := coordOf dw0 (fld d 15 14)
      match argAcc d with
      | 0 => pure (.ok l)
      | 2 => pure (.ok (⟨ctx, k, 0, 0, 0, 0, 2, 0, 0, 8, 0⟩ :: l))
      | a => do
        let x ← tryM (devRead v ctx (tspc + 32 * fld d 7 0) 4)
        match x with
        | .error t => pure (.error t.code)
        | .ok w =>
          match spaceOf w with
          | none => pure (.error 21)
          | some (base, stride, rowb, rows) =>
            pure (.ok (⟨ctx, k, 0, fld d 7 0, ti, tj, a, (base + ti * (rows + 1) * stride + tj * rowb) % 2 ^ 48, stride, rowb, rows⟩ :: l))

/-- The type of a record, as read once at placement: the code of a rejection or of a cause where there is one. -/
def readType (v ctx n : Nat) (one : Bool) : M (Except Nat TaskType) := do
  let b ← tryM (ctxBlock ctx)
  match b with
  | .error t => pure (.error t.code)
  | .ok blk => do
    let x ← tryM (devRead v ctx (blk.ttab + 64 * n) 8)
    match x with
    | .error t => pure (.error t.code)
    | .ok w => pure (match typeOf one w with | some ty => .ok ty | none => .error 21)

/-- Type and tiles of a task with record doubleword `dw0` placed in a cluster. -/
def readTask (v ctx dw0 : Nat) (one : Bool) : M (Except Nat (TaskType × List TileArg)) := do
  let t ← readType v ctx (dw0 % 4096) one
  match t with
  | .error c => pure (.error c)
  | .ok ty => do
    let b ← tryM (ctxBlock ctx)
    match b with
    | .error t => pure (.error t.code)
    | .ok blk => do
      let l ← argTiles v ctx blk.tspc dw0 0 ty.args
      pure (match l with | .error c => .error c | .ok tl => .ok (ty, tl))

/-! Ranges and hazards (10 R198, R202) -/

def TileArg.last (t : TileArg) : Nat := t.base + t.rows * t.stride + t.rowb
def TileArg.overlaps (a b : TileArg) : Bool := decide (a.base < b.last) && decide (b.base < a.last)
def TileArg.writes (t : TileArg) : Bool := t.acc == 3 || t.acc == 4
def TileArg.reads (t : TileArg) : Bool := t.acc == 1 || t.acc == 3

/-- Does the earlier task's tile hold back the later one's? -/
def hazard (early late : TileArg) : Bool :=
  early.overlaps late && ((early.writes && (late.writes || late.reads)) || (early.reads && late.writes))

/-- Is a gang in flight: placed, and not every write-back complete? -/
def Gang.inFlight (g : Gang) : Bool := g.ty.isSome && g.members.any (fun m => !m.ended || m.writing)

/-- The tiles of a gang's members that have not been written back. -/
def Gang.liveTiles (g : Gang) : List TileArg := (g.members.filter (fun m => !m.ended || m.writing)).flatMap (fun m => m.tiles)

/-- Does `e` come before `g` in spawn sequence? A gang of a grid has its sequence from its first dispatch on; before
that it comes after whatever has one, and after earlier placed gangs. -/
def Gang.before (e g : Gang) : Bool :=
  if e.seq != 0 && g.seq != 0 then decide (e.seq < g.seq)
  else if g.seq == 0 then (e.seq != 0 || decide (e.gid < g.gid))
  else false

def hazardFor (s : State) (g : Gang) : Bool :=
  s.gangs.any (fun e =>
    e.gid != g.gid && e.ctx == g.ctx && e.cluster == g.cluster && e.inFlight && e.before g &&
    e.liveTiles.any (fun a => g.liveTiles.any (fun b => hazard a b)))

/-! Tiles -/

/-- The lowest free tiles that tasks are given (10 R203). -/
def freeTiles (s : State) (cl : Nat) : List Nat := (List.range 960).filter (fun t => ownerOf s cl t == 0xFF)

def setDesc (s : State) (cl t : Nat) (d : Option TileArg) : State :=
  updCl s cl (fun c => { c with tdesc := match d with | some x => c.tdesc.insert t x | none => c.tdesc.erase t })

/-- A tile becomes free. -/
def freeTile (s : State) (cl t : Nat) : State := setDesc (setOwner s cl t 0xFF) cl t none

/-- Give the members of a gang their tiles, in order of rank and argument; none where too few are free. -/
def assignTiles (free : List Nat) : List Member → Option (List Member)
  | [] => some []
  | m :: r =>
    if free.length < m.tiles.length then none
    else
      let tl := (m.tiles.zip free).map (fun p => { p.1 with tile := p.2 })
      (assignTiles (free.drop m.tiles.length) r).map (fun l => { m with tiles := tl, loads := true } :: l)

/-! Accesses of the copy engine (18 R325) -/

/-- The place of an access of an engine: a sync or remote page counts as cause 6, a tile that the core may not access as 8
(04 R89) and its request does not hold, an uncorrectable error as 20. -/
def engAt (held : List Nat) (a : Agent) (va acc : Nat) : M Loc := fun s =>
  match translate a va acc s with
  | .error t => .error (if t.code = 18 then { t with code := 6 } else t)
  | .ok (l, s') =>
    let own := ownerOf s' (clusterOf a.v) (tileOf va)
    if l.place == .remote || l.sync then .error (accTrap va false 6)
    else if l.place == .pad && !ownerOk s' a.v own && !(own == 8 && held.contains (tileOf va)) then .error (accTrap va false 8)
    else if acc % 2 == 1 && eccHit s' l.at_ 1 then .error (accTrap va false 20) else .ok (l, s')

/-- Pieces of a run of bytes, each inside one line, by virtual address. -/
def vaPieces (va n : Nat) : List (Nat × Nat) := (linePieces va n).map (fun p => (p.1 % 2 ^ 48, p.2))

def engReadAt (held : List Nat) (a : Agent) : List (Nat × Nat) → M (List Byte)
  | [] => pure []
  | (va, n) :: r => do
    let l ← engAt held a va 1
    let s ← getS
    let rest ← engReadAt held a r
    pure (homeRead s l.kv l.at_ n ++ rest)

/-- Read a run of bytes at their homes, for a request that holds the tiles of `held` (18 R325). -/
def engRead (held : List Nat) (a : Agent) (va n : Nat) : M (List Byte) := engReadAt held a (vaPieces va n)

/-- Write bytes inside one line at their home. -/
def engPut (held : List Nat) (a : Agent) (va : Nat) (bytes : List Byte) : M Unit := do
  let l ← engAt held a va 2
  logWrite a l
  modS (fun s => homeWrite s none l.kv l.at_ bytes)

def engWriteAt (held : List Nat) (a : Agent) (va : Nat) (bytes : List Byte) : List (Nat × Nat) → M Unit
  | [] => pure ()
  | (x, n) :: r => do
    engPut held a (x % 2 ^ 48) ((bytes.drop (x - va)).take n)
    engWriteAt held a va bytes r

def engWrite (held : List Nat) (a : Agent) (va : Nat) (bytes : List Byte) : M Unit :=
  engWriteAt held a va bytes (linePieces va bytes.length)

/-- Memory that the tile engine reaches: no window (log 18). -/
def noWindow (va : Nat) : M Unit := guardT (!isWin va) (accTrap va false 6)

def putTile (cl tile off : Nat) (bytes : List Byte) : M Unit := modS (fun s => homeWrite s none 0 (padAt cl (4096 * tile + off)) bytes)

/-- The agent that loads and writes back the tiles of a context in a cluster. -/
def tileAgent (cl ctx : Nat) : Agent := ⟨clCore cl, ctx, .u⟩

/-! The queue of a copy engine (18 R311) -/

/-- A request with nothing but its op and its issuer. -/
def Copy.blank (id op core : Nat) (task : Option TaskRef) (ctx : Nat) (lvl : Lvl) (pc : Nat) : Copy where
  id := id
  op := op
  core := core
  task := task
  ctx := ctx
  lvl := lvl
  handle := 0
  promise := 0
  pc := pc
  dst := 0
  src := 0
  shape := []
  sstr := []
  dstr := []
  sfmt := 0
  dfmt := 0
  mode := 0
  sat := false
  cb := 0
  stride := 0
  rows := 0
  rowb := 0
  list := []
  tiles := []
  recv := none
  pos := 0
  out := []
  moved := 0
  fail := none
  done := false
  sub := 0
  told := false
  next := none

/-- The scheduler's work joins the queue; it counts against no core. -/
def queueWork (s : State) (cl op ctx : Nat) (task : Option TaskRef) (tiles : List Nat) : State :=
  updCl { s with nextId := s.nextId + 1 } cl (fun c =>
    { c with copies := c.copies ++ [{ Copy.blank s.nextId op 512 task ctx .u 0 with tiles := tiles }] })

/-- A piece of the scheduler's work in the queue, by its op and its gang or member. -/
def findWork (s : State) (cl op : Nat) (r : TaskRef) : Option Copy :=
  (getCl s cl).copies.find? (fun q => q.op == op && q.task == some r)

def rowSkip (w : Word) : Bool := bitOf w.toNat 48
def rowNode (w : Word) : Nat := fld w.toNat 63 54
def rowAddr (w : Word) : Nat := fld w.toNat 47 0

/-- Is it a `tscat` or `tgath` that has a row on another node, so that later requests may finish before it (18 R311)? -/
def Copy.farRows (s : State) (q : Copy) : Bool := (q.op == 4 || q.op == 5) && q.list.any (fun w => !rowSkip w && rowNode w != ownNode s)

/-- The engine turns to a request once every earlier one has finished, or waits for other nodes alone (18 R311). -/
def turnOf (s : State) (cl id : Nat) : Bool :=
  ((getCl s cl).copies.takeWhile (fun q => q.id != id)).all (fun q => q.done && q.farRows s)

def setCopy (s : State) (cl : Nat) (q : Copy) : State :=
  updCl s cl (fun c => { c with copies := c.copies.map (fun x => if x.id = q.id then q else x) })

/-- A request leaves the queue. -/
def dropCopy (s : State) (cl id : Nat) : State := updCl s cl (fun c => { c with copies := c.copies.filter (fun x => x.id != id) })

/-! Promises (18 R326) -/

/-- Least cost in cycles from one quadrant to each other over unlocked gates (05 R117, R121): 20 a hop, 60 a crossing. -/
def relaxDist (s : State) (d : SMap Nat) : SMap Nat :=
  quadLinks.foldl (fun m p =>
    if s.parts.locked.contains (p.1 * 8 + p.2) then m
    else
      let w := if p.1 / 4 = p.2 / 4 then 20 else 60
      let upd := fun (m : SMap Nat) (a b : Nat) =>
        match m.find? a with
        | none => m
        | some x =>
          match m.find? b with
          | none => m.insert b (x + w)
          | some y => if x + w < y then m.insert b (x + w) else m
      upd (upd m p.1 p.2) p.2 p.1) d

def quadCost (s : State) (a b : Nat) : Nat :=
  let d := (List.range 8).foldl (fun m _ => relaxDist s m) [(a, 0)]
  d.getD b 0

/-- The planning figure of R121 for the home of an address; where it has none the figure is free (log 11). -/
def latOf (s : State) (a : Agent) (va : Nat) : Nat :=
  match translate a va 0 s with
  | .error _ => Config.replyEstimate 1024 va
  | .ok (l, s1) =>
    match l.place with
    | .pad => 12
    | .store => 3
    | .hbm => 320 + quadCost s1 (quadOf a.v) (stackOf l.at_)
    | .pinned => 12 + quadCost s1 (quadOf a.v) (quadOf ((l.at_ - 2 ^ 40) / 2 ^ 18))
    | .remote => Config.replyEstimate 1024 va

/-- The promise of a request that a copy engine accepts now. -/
def takePromise (s : State) (cl bytes lat : Nat) : Nat × State :=
  let p := maxN s.cycle.toNat (getCl s cl).promise + 24 + ceilDiv bytes 128 + lat
  (p, updCl s cl (fun c => { c with promise := p }))

/-- The scheduler's own work counts among the requests: the load or write-back of a tile. -/
def tilePromise (s : State) (cl : Nat) (t : TileArg) : State :=
  (takePromise s cl ((t.rows + 1) * t.rowb) (latOf s (tileAgent cl t.ctx) t.base)).2

/-- The gang takes its tiles, with the CLS as owner (04 R88). -/
def takeTiles (s : State) (g : Gang) (cl : Nat) : Option State :=
  (assignTiles (freeTiles s cl) g.members).map (fun ms =>
    let s1 := (ms.flatMap (fun m => m.tiles)).foldl (fun st t => setDesc (setOwner st cl t.tile 9) cl t.tile (some t)) s
    let tiles := ms.flatMap (fun m => m.tiles)
    let s2 := (tiles.filter TileArg.reads).foldl (fun st t => tilePromise st cl t) s1
    let s3 := if tiles.isEmpty then s2 else queueWork s2 cl 6 g.ctx (some ⟨g.gid, 0⟩) []
    updGang s3 g.gid (fun x => { x with members := ms, st := .prefetch }))

def loadRows (a : Agent) (cl : Nat) (t : TileArg) : Nat → Nat → M Unit
  | 0, _ => pure ()
  | n + 1, m => do
    let va := (t.base + m * t.stride) % 2 ^ 48
    noWindow va
    let b ← engRead [] a va t.rowb
    putTile cl t.tile (128 * m) b
    loadRows a cl t n (m + 1)

/-- Load or zero a tile (10 R203). -/
def loadTile (cl : Nat) (t : TileArg) : M Unit := do
  putTile cl t.tile 0 (zeros 4096)
  if t.reads then loadRows (tileAgent cl t.ctx) cl t (t.rows + 1) 0 else pure ()

def loadTiles (cl : Nat) : List TileArg → M Unit
  | [] => pure ()
  | t :: r => do
    loadTile cl t
    loadTiles cl r

/-- Write doublewords until a cause: its trap and how many were written before it. Where `win` does not hold, no window is
reached. -/
def putDwords (win : Bool) (held : List Nat) (a : Agent) : Nat → List (Nat × List Byte) → State → Option (Trap × Nat) × State
  | _, [], s => (none, s)
  | n, (va, b) :: r, s =>
    match (do (if win then pure () else noWindow va); engWrite held a va b) s with
    | .error t => (some (t, n), s)
    | .ok (_, s') => putDwords win held a (n + 1) r s'

/-- Bytes as doublewords with their addresses. -/
def dwordsAt (va : Nat) (bytes : List Byte) : List (Nat × List Byte) :=
  ((List.range (ceilDiv bytes.length 8)).zip (chunks 8 bytes)).map (fun p => ((va + 8 * p.1) % 2 ^ 48, p.2))

/-- The doublewords of a tile's rows (10 R198): row m lies at tile offset 128 m and goes to base + m * stride. -/
def rowDwords (s : State) (cl tile base stride rowb rows : Nat) : List (Nat × List Byte) :=
  (List.range rows).flatMap (fun m => dwordsAt (base + m * stride) (memRead s.mem (padAt cl (4096 * tile + 128 * m)) rowb))

/-- Write back a tile under the descriptor it carries (10 R208, 11 R244), from its `n`-th doubleword on. -/
def storeTile (s : State) (cl tile n : Nat) : Option (Trap × Nat) × State :=
  match (getCl s cl).tdesc.find? tile with
  | none => (none, s)
  | some t =>
    if t.writes then
      putDwords false [] (tileAgent cl t.ctx) n ((rowDwords s cl tile t.base t.stride t.rowb (t.rows + 1)).drop n) s
    else (none, s)

/-- Write back the tiles of a request that are left; a cause ends the write-back of its tile alone (10 R208). The write that
meets a full dirty log, the request and the state. -/
def storeTiles (cl : Nat) : List Nat → Copy → State → Option Trap × Copy × State
  | [], q, s => (none, { q with tiles := [], sub := 0 }, s)
  | t :: r, q, s =>
    match storeTile s cl t q.sub with
    | (none, s1) => storeTiles cl r { q with sub := 0 } s1
    | (some (e, n), s1) =>
      if e.code = 23 then (some e, { q with tiles := t :: r, sub := n }, s1)
      else storeTiles cl r { q with sub := 0, fail := some (q.fail.getD (0, e.code)) } s1

/-! Ends (10 R204, R214) -/

/-- Replace a member of a gang. -/
def updMember (s : State) (gid rank : Nat) (f : Member → Member) : State :=
  updGang s gid (fun g => { g with members := g.members.map (fun m => if m.rank = rank then f m else m) })

/-- A grid learns how a task of it ended, its queue engine from the task's scheduler (24 R380). -/
def tellGrid (s0 : State) (g : Gang) (st : FtState) (code : Nat) : State :=
  match g.grid with
  | none => s0
  | some id =>
    let s := match s0.grids.find? (fun x => x.id == id) with
      | some x => hears s0 (640 + x.q) (576 + g.cluster.getD g.home)
      | none => s0
    { s with grids := s.grids.map (fun x =>
        if x.id = id then
          { x with okAll := x.okAll && st == .resolved, poison := if st = .poisoned && x.poison.isNone then some code else x.poison }
        else x) }

/-- The loads of a gang leave the queue. -/
def dropLoads (s : State) (g : Gang) : State :=
  match g.cluster.bind (fun cl => (findWork s cl 6 ⟨g.gid, 0⟩).map (fun q => (cl, q.id))) with
  | some p => dropCopy s p.1 p.2
  | none => s

/-- A gang leaves the device; its grid has one live gang less. -/
def removeGang (s : State) (g : Gang) : State :=
  { dropLoads s g with
    gangs := s.gangs.filter (fun x => x.gid != g.gid)
    grids := match g.grid with
      | none => s.grids
      | some id => s.grids.map (fun x => if x.id = id then { x with live := x.live - 1 } else x) }

/-- Remove a gang once every member has ended and been written back. -/
def gangDone (s : State) (gid : Nat) : State :=
  match gangOf s gid with
  | none => s
  | some g => if g.inFlight || g.members.any (fun m => !m.ended) then s else removeGang s g

/-- Free the tiles that a gang was given, without write-back. -/
def dropTiles (s : State) (g : Gang) : State :=
  match g.cluster with
  | none => s
  | some cl =>
    let free := fun (st : State) (t : Nat) => if ownerOf st cl t == 9 then freeTile st cl t else st
    let s1 := (g.members.filter (fun m => m.loads)).foldl (fun st m => m.tiles.foldl (fun st2 t => free st2 t.tile) st) s
    match g.contTile with
    | some a => free s1 (tileOf a)
    | none => s1

/-- A gang that never ran ends: its tiles are freed; for a spawned task the record's future takes the outcome and the
task's reference is released (10 R196, R203, R204). -/
def endUnrun (s : State) (g : Gang) (st : FtState) (code : Nat) : State :=
  let s1 := dropTiles s g
  let s2 := g.members.foldl (fun (x : State) m =>
    if m.fut = 0 then tellGrid x g st code
    else devEvent g.ctx (.ended m.fut st 0 code) x) s1
  removeGang s2 g

/-- The CLS discards the record of a task whose future has been cancelled before its first dispatch. -/
def discardRecord (s : State) (h : Word) : State :=
  match s.gangs.find? (fun g => g.grid.isNone && g.members.any (fun m => m.fut == h && !m.started)) with
  | none => s
  | some g => endUnrun { s with bqes := s.bqes.map (fun p => (p.1, { p.2 with tasks := p.2.tasks.filter (· != g.gid) })) } g .cancelled 0

/-! Placement (10 R200, R203, R210) -/

/-- After its hazards: the gang takes its tiles or waits. -/
def passHazards (s : State) (gid : Nat) : State :=
  match gangOf s gid with
  | none => s
  | some g =>
    match g.cluster with
    | none => s
    | some cl =>
      if hazardFor s g then updGang s gid (fun x => { x with st := .hazard })
      else (takeTiles s g cl).getD (updGang s gid (fun x => { x with st := .hazard }))

/-- A record is placed in a cluster's queue: its type is read, once (10 R194, R196). -/
def placeGang (s : State) (gid cl : Nat) : State :=
  match gangOf s gid with
  | none => s
  | some g =>
    let one := g.grid.isNone
    let s0 := updGang s gid (fun x => { x with cluster := some cl })
    match readTask (clCore cl) g.ctx g.dw0.toNat one s0 with
    | .error t => endUnrun s0 { g with cluster := some cl } .poisoned t.code
    | .ok (.error c, s1) => endUnrun s1 { g with cluster := some cl } .poisoned c
    | .ok (.ok (ty, tl), s1) =>
      let dw := if one && fld g.dw0.toNat 15 12 = 15 then g.dw0.toNat - 15 * 4096 + ty.prio * 4096 else g.dw0.toNat
      passHazards (updGang s1 gid (fun x =>
        { x with ty := some ty, dw0 := BitVec.ofNat 64 dw, members := x.members.map (fun m => { m with tiles := tl }) })) gid

/-- The cluster that holds the first tile argument resident (10 R200). -/
def residentIn (s : State) (ctx : Nat) (ty : TaskType) (dw0 : Nat) : Option Nat :=
  match ty.args.find? (fun d => accMem (argAcc d)) with
  | none => none
  | some d =>
    let sp := fld d 7 0
    let ti := coordOf dw0 (fld d 13 12)
    let tj := coordOf dw0 (fld d 15 14)
    let holds := fun (p : Nat × Cluster) => p.2.tdesc.any (fun q =>
      q.2.ctx == ctx && q.2.acc != 2 && q.2.space == sp && q.2.ti == ti && q.2.tj == tj)
    (List.find? holds s.clusters).map (fun p => p.1)

/-- READY tasks in the four queues of a cluster. -/
def readyCount (s : State) (cl : Nat) : Nat :=
  (s.gangs.filter (fun g => g.cluster == some cl && g.st == .ready)).foldl (fun n g => n + (g.members.filter (fun m => !m.ended)).length) 0

/-- The cluster that a spawn's placement chooses, and whether the record goes to the global queue of its quadrant. -/
def chooseCluster (s : State) (ctx placement named own dw0 : Nat) : Nat × Bool :=
  let near :=
    match readType (clCore own) ctx (dw0 % 4096) true s with
    | .ok (.ok ty, _) => (residentIn s ctx ty dw0).getD own
    | _ => own
  match placement with
  | 0 => (near, decide (16 < readyCount s near))
  | 1 => (own, false)
  | 2 => (near, false)
  | _ => (named, false)

/-- A member before its first dispatch. -/
def Member.fresh (rank : Nat) (fut : Word) : Member where
  rank := rank
  fut := fut
  slot := none
  core := none
  tiles := []
  loads := false
  started := false
  consult := false
  touch := false
  barPc := 0
  ended := false
  writing := false
  wb := []
  result := .pending
  code := 0
  value := 0
  slots := []

/-- A new gang of one. -/
def mkGang (gid ctx : Nat) (dw0 a0 a1 : Word) (seq home : Nat) (fut : Word) : Gang where
  gid := gid
  ctx := ctx
  grid := none
  dw0 := dw0
  arg0 := a0
  arg1 := a1
  seq := seq
  cluster := none
  home := home
  ty := none
  size := 1
  members := [Member.fresh 0 fut]
  st := .queued
  enq := 0
  since := 0
  queue := 0
  aside := false
  stopping := 0
  touched := 0
  held := []
  contTile := none
  parked := false
  hadScan := []

/-- The device releases the creator's reference itself when the entry finishes (11 R232). -/
def discardHandle (h : Word) : M Unit := modS (fun s => { s with drops := s.drops ++ [h] })

/-- Where a spawn allocates its entry (10 R200, R217). -/
def spawnHome (s : State) (ctx placement named own : Nat) (dw0 : Word) : Nat :=
  let q := chooseCluster s ctx placement named own dw0.toNat
  if q.2 then own else q.1

/-- The scheduler or the queue engine that a spawned record goes to hears of it from unit `src` (24 R380). -/
def hearSpawn (s : State) (h : Word) (src : Nat) : State :=
  hears (hears s (576 + hHome h) src) (640 + hHome h / 8) src

/-- Create the entry and the record of a spawned task and enqueue it (10 R200, R201, 11 R232); without `keep` the device
releases the spawner's reference. -/
def spawnAt (ctx placement named own : Nat) (dw0 a0 a1 parent : Word) (extra : Nat) (keep : Bool) : M Word := do
  let s ← getS
  let q := chooseCluster s ctx placement named own dw0.toNat
  let home := if q.2 then own else q.1
  let h ← allocEntry home ctx 0 parent (2 + extra)
  if keep then pure () else discardHandle h
  let s ← getS
  let gid := s.nextId
  let g := { mkGang gid ctx dw0 a0 a1 (getCtx s ctx).seq.toNat home h with enq := s.cycle.toNat, since := s.cycle.toNat }
  modS (fun s => { s with nextId := gid + 1, gangs := s.gangs ++ [g] })
  if q.2 then modS (fun s => { s with bqes := s.bqes.insert (q.1 / 8) (let b := s.bqes.getD (q.1 / 8) Bqe.reset; { b with tasks := b.tasks ++ [gid] }) })
  else modS (fun s => placeGang s gid q.1)
  pure h

/-- Give a created handle to its register, or to the device where that is g0. -/
def giveHandle (d : Nat) (h : Word) : M Unit := if d = 0 then discardHandle h else wG d h

/-! Events -/

/-- Every conflicting earlier task has been written back: the task takes its tiles (10 R210). -/
def execHazardClear (gid : Nat) (s : State) : Outcome State Fault Refusal :=
  .next (match gangOf s gid with
    | none => s
    | some g => if g.st == .hazard then passHazards s gid else s)

/-- Every prefetch load completes, or one meets a cause (10 R203); the copy engine makes them in its order (18 R311). -/
def execPrefetchComplete (gid : Nat) (s : State) : Outcome State Fault Refusal :=
  match gangOf s gid with
  | none => .next s
  | some g =>
    match g.st, g.cluster with
    | .prefetch, some cl =>
      let w := findWork s cl 6 ⟨gid, 0⟩
      if (w.map (fun q => turnOf s cl q.id)).getD true && !stalledSrc s (512 + cl) && !stalledSrc s (576 + cl) then
        match loadTiles cl (g.members.flatMap (fun m => m.tiles)) s with
        | .ok (_, s1) => .next (joinQueue (match w with | some q => dropCopy s1 cl q.id | none => s1) gid)
        | .error t => .next (endUnrun s g .poisoned t.code)
      else .next s
    | _, _ => .next s

/-- A task that has waited 2^20 cycles moves to the queue one priority higher (10 R205). -/
def execAgeingPromote (gid : Nat) (s : State) : Outcome State Fault Refusal :=
  match gangOf s gid with
  | none => .next s
  | some g =>
    if g.st == .ready && decide (g.queue < 3) && decide (g.since + 2 ^ 20 ≤ s.cycle.toNat) then
      .next { s with gangs := s.gangs.filter (fun x => x.gid != gid) ++ [{ g with queue := g.queue + 1, since := s.cycle.toNat }] }
    else .next s

end Sys2Proof.Machine
end

