-- ==== Sys2Proof/Machine/VectorFp.lean ====
section
/-!
DEFINITION. Vector floating-point arithmetic on FP32, FP16 and BF16 lanes (08 R177 to R179; 03 R75).
-/
namespace Sys2Proof.Machine

open Host (Outcome)

/-- Lane width of a format's page. -/
def lanesOf (f : FFmt) : Nat := 512 / f.w

def fpRaw (pg : Option Nat) (fn : Nat) (o : VR) : Raw := encVR 6 pg fn o

/-- Round a lane result, with the flags of the operation. -/
def laneOut (f : FFmt) (p : FVal × Nat) : Nat × Nat :=
  let r := rne f p.1
  (r.1, p.2 ||| r.2)

/-- Elements under the mask only: an inactive one is not computed. -/
def mapActive (mk n : Nat) (g : Nat → Nat × Nat) : List (Nat × Nat) :=
  (List.range n).map (fun i => if bitOf mk i then g i else (0, 0))

def fpBin (pg : Option Nat) (fn : Nat) (f : FFmt) (o : VR) (op : FVal → FVal → FVal × Nat) (s : State) :
    Outcome State Fault Refusal :=
  issue (vIns (fpRaw pg fn o) (shFp fn) false o) noPre (fun d sf _ => (do
    let st ← getS
    let p := vOps o d sf st.core
    putElems o f.w 0 d (mapActive (maskBits o.mask st.core) (lanesOf f) (fun i =>
      laneOut f (op (f.dec (elem f.w p.1 i)) (f.dec (elem f.w p.2 i)))))
    pure .seq)) s

def fpUn (pg : Option Nat) (fn : Nat) (f : FFmt) (o : VR) (op : FVal → FVal × Nat) (s : State) :
    Outcome State Fault Refusal :=
  issue (vIns (fpRaw pg fn o) (shFp fn) false o) noPre (fun d sf _ => (do
    let st ← getS
    let a := st.core.getV sf
    putElems o f.w 0 d (mapActive (maskBits o.mask st.core) (lanesOf f) (fun i => laneOut f (op (f.dec (elem f.w a i)))))
    pure .seq)) s

def fpFma (pg : Option Nat) (f : FFmt) (o : VR) (s : State) : Outcome State Fault Refusal :=
  issue (vIns (fpRaw pg 3 o) (shFp 3) true o) noPre (fun d sf _ => (do
    let st ← getS
    let a := st.core.getV d
    let p := vOps o d sf st.core
    putElems o f.w 0 d (mapActive (maskBits o.mask st.core) (lanesOf f) (fun i =>
      laneOut f (ffma (f.dec (elem f.w a i)) (f.dec (elem f.w p.1 i)) (f.dec (elem f.w p.2 i)))))
    pure .seq)) s

def fpCmp (pg : Option Nat) (fn : Nat) (f : FFmt) (o : VR) (op : Int → Bool) (s : State) : Outcome State Fault Refusal :=
  issue (vIns (fpRaw pg fn o) (shFp fn) false o) noPre (fun d sf _ => (do
    let st ← getS
    let p := vOps o d sf st.core
    wK d (BitVec.ofNat 64 (cmpBits (maskBits o.mask st.core) (lanesOf f) (st.core.getK d).toNat (fun i =>
      let a := f.dec (elem f.w p.1 i)
      let b := f.dec (elem f.w p.2 i)
      !a.isNan && !b.isNan && op (fcmp a b))))
    pure .seq)) s

/-- One level of the tree: each addition rounds once and raises its flags (08 R179). -/
def sumLevel (f : FFmt) : List Nat → List Nat × Nat
  | a :: b :: r =>
    let p := laneOut f (fadd (f.dec a) (f.dec b))
    let q := sumLevel f r
    (p.1 :: q.1, p.2 ||| q.2)
  | l => (l, 0)

def sumTree (f : FFmt) : Nat → List Nat → Nat × Nat
  | 0, l => (l.headD 0, 0)
  | n + 1, l =>
    let p := sumLevel f l
    let q := sumTree f n p.1
    (q.1, p.2 ||| q.2)

def fpSum (pg : Option Nat) (f : FFmt) (depth : Nat) (o : VR) (s : State) : Outcome State Fault Refusal :=
  issue (vIns (fpRaw pg 15 o) (shFp 15) false o) noPre (fun d sf _ => (do
    let st ← getS
    let a := st.core.getV sf
    let mk := maskBits o.mask st.core
    let r := sumTree f depth ((List.range (lanesOf f)).map (fun i => if bitOf mk i then elem f.w a i else 2 ^ (f.w - 1)))
    raiseFlags r.2
    wV d (BitVec.ofNat 512 r.1)
    pure .seq)) s

/-- An operation that raises no flag. -/
def quiet1 (f : FVal → FVal) : FVal → FVal × Nat := fun a => (f a, 0)
def quiet2 (f : FVal → FVal → FVal) : FVal → FVal → FVal × Nat := fun a b => (f a b, 0)

/-- `vfadd` (08 R177). -/
def execVfadd (o : VR) (s : State) : Outcome State Fault Refusal := fpBin none 0 fp32 o fadd s

/-- `vfsub` (08 R177). -/
def execVfsub (o : VR) (s : State) : Outcome State Fault Refusal := fpBin none 1 fp32 o (fun a b => fadd a b.negate) s

/-- `vfmul` (08 R177). -/
def execVfmul (o : VR) (s : State) : Outcome State Fault Refusal := fpBin none 2 fp32 o fmul s

/-- `vfma` (08 R177). -/
def execVfma (o : VR) (s : State) : Outcome State Fault Refusal := fpFma none fp32 o s

/-- `vfmin` (08 R178). -/
def execVfmin (o : VR) (s : State) : Outcome State Fault Refusal := fpBin none 4 fp32 o (quiet2 fmin) s

/-- `vfmax` (08 R178). -/
def execVfmax (o : VR) (s : State) : Outcome State Fault Refusal := fpBin none 5 fp32 o (quiet2 fmax) s

/-- `vfabs` (08 R178). -/
def execVfabs (o : VR) (s : State) : Outcome State Fault Refusal := fpUn none 6 fp32 o (quiet1 FVal.absolute) s

/-- `vfneg` (08 R178). -/
def execVfneg (o : VR) (s : State) : Outcome State Fault Refusal := fpUn none 7 fp32 o (quiet1 FVal.negate) s

/-- `vfceq` (08 R178). -/
def execVfceq (o : VR) (s : State) : Outcome State Fault Refusal := fpCmp none 8 fp32 o (fun x => x == 0) s

/-- `vfclt` (08 R178). -/
def execVfclt (o : VR) (s : State) : Outcome State Fault Refusal := fpCmp none 9 fp32 o (fun x => decide (x < 0)) s

/-- `vfcle` (08 R178). -/
def execVfcle (o : VR) (s : State) : Outcome State Fault Refusal := fpCmp none 10 fp32 o (fun x => decide (x ≤ 0)) s

/-- `vfrcp` (03 R75). -/
def execVfrcp (o : VR) (s : State) : Outcome State Fault Refusal := fpUn none 11 fp32 o frcp s

/-- `vfexp2` (03 R75). -/
def execVfexp2 (o : VR) (s : State) : Outcome State Fault Refusal := fpUn none 12 fp32 o fexp2 s

/-- `vflog2` (03 R75). -/
def execVflog2 (o : VR) (s : State) : Outcome State Fault Refusal := fpUn none 13 fp32 o flog2 s

/-- `vfrsq` (03 R75). -/
def execVfrsq (o : VR) (s : State) : Outcome State Fault Refusal := fpUn none 14 fp32 o frsq s

/-- `vfsum` (08 R179). -/
def execVfsum (o : VR) (s : State) : Outcome State Fault Refusal := fpSum none fp32 4 o s

/-- `vfadd_h` (08 R177). -/
def execVfaddH (o : VR) (s : State) : Outcome State Fault Refusal := fpBin (some 1) 0 fp16 o fadd s

/-- `vfsub_h` (08 R177). -/
def execVfsubH (o : VR) (s : State) : Outcome State Fault Refusal := fpBin (some 1) 1 fp16 o (fun a b => fadd a b.negate) s

/-- `vfmul_h` (08 R177). -/
def execVfmulH (o : VR) (s : State) : Outcome State Fault Refusal := fpBin (some 1) 2 fp16 o fmul s

/-- `vfma_h` (08 R177). -/
def execVfmaH (o : VR) (s : State) : Outcome State Fault Refusal := fpFma (some 1) fp16 o s

/-- `vfmin_h` (08 R177). -/
def execVfminH (o : VR) (s : State) : Outcome State Fault Refusal := fpBin (some 1) 4 fp16 o (quiet2 fmin) s

/-- `vfmax_h` (08 R177). -/
def execVfmaxH (o : VR) (s : State) : Outcome State Fault Refusal := fpBin (some 1) 5 fp16 o (quiet2 fmax) s

/-- `vfabs_h` (08 R177). -/
def execVfabsH (o : VR) (s : State) : Outcome State Fault Refusal := fpUn (some 1) 6 fp16 o (quiet1 FVal.absolute) s

/-- `vfneg_h` (08 R177). -/
def execVfnegH (o : VR) (s : State) : Outcome State Fault Refusal := fpUn (some 1) 7 fp16 o (quiet1 FVal.negate) s

/-- `vfceq_h` (08 R177). -/
def execVfceqH (o : VR) (s : State) : Outcome State Fault Refusal := fpCmp (some 1) 8 fp16 o (fun x => x == 0) s

/-- `vfclt_h` (08 R177). -/
def execVfcltH (o : VR) (s : State) : Outcome State Fault Refusal := fpCmp (some 1) 9 fp16 o (fun x => decide (x < 0)) s

/-- `vfcle_h` (08 R177). -/
def execVfcleH (o : VR) (s : State) : Outcome State Fault Refusal := fpCmp (some 1) 10 fp16 o (fun x => decide (x ≤ 0)) s

/-- `vfrcp_h` (08 R177). -/
def execVfrcpH (o : VR) (s : State) : Outcome State Fault Refusal := fpUn (some 1) 11 fp16 o frcp s

/-- `vfexp2_h` (08 R177). -/
def execVfexp2H (o : VR) (s : State) : Outcome State Fault Refusal := fpUn (some 1) 12 fp16 o fexp2 s

/-- `vflog2_h` (08 R177). -/
def execVflog2H (o : VR) (s : State) : Outcome State Fault Refusal := fpUn (some 1) 13 fp16 o flog2 s

/-- `vfrsq_h` (08 R177). -/
def execVfrsqH (o : VR) (s : State) : Outcome State Fault Refusal := fpUn (some 1) 14 fp16 o frsq s

/-- `vfsum_h` (08 R177). -/
def execVfsumH (o : VR) (s : State) : Outcome State Fault Refusal := fpSum (some 1) fp16 5 o s

/-- `vfadd_b` (08 R177). -/
def execVfaddB (o : VR) (s : State) : Outcome State Fault Refusal := fpBin (some 2) 0 bf16 o fadd s

/-- `vfsub_b` (08 R177). -/
def execVfsubB (o : VR) (s : State) : Outcome State Fault Refusal := fpBin (some 2) 1 bf16 o (fun a b => fadd a b.negate) s

/-- `vfmul_b` (08 R177). -/
def execVfmulB (o : VR) (s : State) : Outcome State Fault Refusal := fpBin (some 2) 2 bf16 o fmul s

/-- `vfma_b` (08 R177). -/
def execVfmaB (o : VR) (s : State) : Outcome State Fault Refusal := fpFma (some 2) bf16 o s

/-- `vfmin_b` (08 R177). -/
def execVfminB (o : VR) (s : State) : Outcome State Fault Refusal := fpBin (some 2) 4 bf16 o (quiet2 fmin) s

/-- `vfmax_b` (08 R177). -/
def execVfmaxB (o : VR) (s : State) : Outcome State Fault Refusal := fpBin (some 2) 5 bf16 o (quiet2 fmax) s

/-- `vfabs_b` (08 R177). -/
def execVfabsB (o : VR) (s : State) : Outcome State Fault Refusal := fpUn (some 2) 6 bf16 o (quiet1 FVal.absolute) s

/-- `vfneg_b` (08 R177). -/
def execVfnegB (o : VR) (s : State) : Outcome State Fault Refusal := fpUn (some 2) 7 bf16 o (quiet1 FVal.negate) s

/-- `vfceq_b` (08 R177). -/
def execVfceqB (o : VR) (s : State) : Outcome State Fault Refusal := fpCmp (some 2) 8 bf16 o (fun x => x == 0) s

/-- `vfclt_b` (08 R177). -/
def execVfcltB (o : VR) (s : State) : Outcome State Fault Refusal := fpCmp (some 2) 9 bf16 o (fun x => decide (x < 0)) s

/-- `vfcle_b` (08 R177). -/
def execVfcleB (o : VR) (s : State) : Outcome State Fault Refusal := fpCmp (some 2) 10 bf16 o (fun x => decide (x ≤ 0)) s

/-- `vfrcp_b` (08 R177). -/
def execVfrcpB (o : VR) (s : State) : Outcome State Fault Refusal := fpUn (some 2) 11 bf16 o frcp s

/-- `vfexp2_b` (08 R177). -/
def execVfexp2B (o : VR) (s : State) : Outcome State Fault Refusal := fpUn (some 2) 12 bf16 o fexp2 s

/-- `vflog2_b` (08 R177). -/
def execVflog2B (o : VR) (s : State) : Outcome State Fault Refusal := fpUn (some 2) 13 bf16 o flog2 s

/-- `vfrsq_b` (08 R177). -/
def execVfrsqB (o : VR) (s : State) : Outcome State Fault Refusal := fpUn (some 2) 14 bf16 o frsq s

/-- `vfsum_b` (08 R177). -/
def execVfsumB (o : VR) (s : State) : Outcome State Fault Refusal := fpSum (some 2) bf16 5 o s

end Sys2Proof.Machine
end

