-- ==== Sys2Proof/Machine/Scan.lean ====
section
/-!
DEFINITION. The state-space control block and `sscan` (16).
-/
namespace Sys2Proof.Machine

open Host (Outcome)

/-! Arithmetic: FP32 patterns as naturals, rows as lists -/

def r32 (v : FVal) : Nat := (rne fp32 v).1
def d32 (x : Nat) : FVal := fp32.dec x

/-- λ clamped to [-150, 0]; a NaN stays (16 R289). -/
def clampLam (v : FVal) : FVal := if v.isNan then v else fmax (fmin v (.zero false)) (.fin true 150 0 false)

/-- Column j of rows. -/
def colOf {α : Type} (d : α) (rows : List (List α)) (j : Nat) : List α := rows.map (fun r => r.getD j d)
def colsOf {α : Type} (d : α) (rows : List (List α)) (n : Nat) : List (List α) := (List.range n).map (colOf d rows)

/-- What a chunk reads: λ, x, B, C by step. -/
structure ChunkIn where
  lam : List FVal
  x : List (List FVal)
  b : List (List FVal)
  c : List (List FVal)
  deriving Repr

/-- One step of the stepwise form (16 R294): the state's N rows of P, and the row of y. -/
def stepOne (depth p : Nat) (lam : FVal) (x b c : List FVal) (h : List (List Nat)) : List (List Nat) × List Nat :=
  let d := d32 (r32 (fexp2 (clampLam lam)).1)
  let h1 := (b.zip h).map (fun q => (x.zip q.2).map (fun e => r32 (ffma (d32 (r32 (fmul d (d32 e.2)).1)) q.1 e.1).1))
  let z := (c.zip h1).map (fun q => q.2.map (fun e => r32 (fmul q.1 (d32 e)).1))
  (h1, (colsOf 0 z p).map (fun l => (sumTree fp32 depth l).1))

/-- The stepwise form over a chunk: the last state and the rows of Y. -/
def stepForm (depth p : Nat) (i : ChunkIn) (h : List (List Nat)) : List (List Nat) × List (List Nat) :=
  ((i.lam.zip i.x).zip (i.b.zip i.c)).foldl (fun s q =>
    let r := stepOne depth p q.1.1 q.1.2 q.2.1 q.2.2 s.1
    (r.1, s.2 ++ [r.2])) (h, [])

/-- An array product of one block: class, rows of the left factor, columns of the right one (16 R296). -/
structure MatProd where
  cls : Nat
  rows : List (List FVal)
  cols : List (List FVal)
  deriving Repr

def MatProd.lines (p : MatProd) (l : List (List FVal)) : List Line :=
  l.map (fun v => lineOf (classF p.cls) bf16.emin 0 (v.map some))

def noLine : Line := ⟨0, 0, [], []⟩

/-- The products of one drain (16 R296): one accumulator under the greatest anchor, rounded once. -/
def drainProds (l : List MatProd) (nr nc : Nat) : List (List Nat) :=
  let ps := l.map (fun p => (p.cls, p.lines p.rows, p.lines p.cols))
  let eacc := ps.foldl (fun m p => max m (autoEacc p.1 (maxExp bf16.emin p.2.1) (maxExp bf16.emin p.2.2))) (-1024)
  (List.range nr).map (fun i =>
    let as_ := ps.map (fun p => (p.1, p.2.1.getD i noLine, p.2.2))
    (List.range nc).map (fun j =>
      r32 (cellValue .rne eacc (as_.foldl (fun c p => (blockCell (classF p.1) eacc p.2.1 (p.2.2.getD j noLine) c).1) Cell.zero))))

/-- The running sums of λ (16 R295 step 1). -/
def cumLam : Nat → List FVal → List Nat
  | _, [] => []
  | c, v :: r => let d := r32 (fadd (d32 c) (clampLam v)).1; d :: cumLam d r

/-- exp2 of a rounded difference, rounded. -/
def expDiff (a b : Nat) : Nat := r32 (fexp2 (d32 (r32 (fadd (d32 a) (d32 b).negate).1))).1

/-- The matrix form over a chunk (16 R295): the last state and the rows of Y. -/
def matrixForm (fp32op : Bool) (n p : Nat) (i : ChunkIn) (h : List (List Nat)) : List (List Nat) × List (List Nat) :=
  let q := i.lam.length
  let cls := if fp32op then 32 else 16
  let pr := fun (v : FVal) => if fp32op then v else bf16.dec (rne bf16 v).1
  let pr2 := fun (m : List (List FVal)) => m.map (fun r => r.map pr)
  let z := FVal.zero false
  let c := cumLam 0 i.lam
  let ct1 := c.getLastD 0
  let x1 := pr2 i.x
  let g := drainProds [⟨cls, pr2 i.c, pr2 i.b⟩] q q
  let m := (g.zip c).map (fun r => (List.range q).map (fun s => (s, r.1.getD s 0, expDiff r.2 (c.getD s 0))))
  let m1 := (m.zip (List.range q)).map (fun r => r.1.map (fun e =>
    if e.1 ≤ r.2 then pr (d32 (r32 (fmul (d32 e.2.1) (d32 e.2.2)).1)) else z))
  let scale := fun (row : List FVal) (w : Nat) => row.map (fun v => pr (d32 (r32 (fmul v (d32 w)).1)))
  let ch := (i.c.zip c).map (fun r => scale r.1 (r32 (fexp2 (d32 r.2)).1))
  let hv := h.map (fun r => r.map d32)
  let y := drainProds [⟨cls, m1, colsOf z x1 p⟩, ⟨32, ch, colsOf z hv p⟩] q p
  let bh := (i.b.zip c).map (fun r => scale r.1 (expDiff ct1 r.2))
  let e := pr (d32 (r32 (fexp2 (d32 ct1)).1))
  let ei := (List.range n).map (fun a => (List.range n).map (fun b => if a = b then e else z))
  let hn := drainProds [⟨cls, colsOf z bh n, colsOf z x1 p⟩, ⟨32, ei, colsOf z hv p⟩] n p
  (hn, y)

/-! Requests -/

def Scan.ptr (q : Scan) (k : Nat) : Word := q.ptrs.getD k 0
/-- The virtual address of operand `k` of the head in progress. -/
def Scan.base (q : Scan) (k : Nat) : Int := (ptrVa (q.ptr k) : Int) + q.head * (q.hstrides.getD k 0).toInt
def Scan.depth (q : Scan) : Nat := if q.n = 16 then 4 else 5
/-- Steps of chunk `k` (16 R290). -/
def Scan.stepsOf (q : Scan) (k : Nat) : Nat := minN q.q (q.len - k * q.q)
def Scan.chunks (q : Scan) : Nat := ceilDiv q.len q.q
/-- Does a chunk of `n` steps run in the matrix form (16 R291)? -/
def Scan.matrix (q : Scan) (n : Nat) : Bool := if q.pol = 0 then decide (q.thr ≤ n) else q.pol == 1

/-! Accesses (16 R307) -/

/-- Read an element. -/
def ssbRead (a : Agent) (n : Nat) (va : Nat) : M Nat := do
  checkAlign (winFits va n) va
  let b ← engRead [] a va n
  pure (ofLe b)

def ssbReads (a : Agent) (n : Nat) : List Nat → M (List Nat)
  | [] => pure []
  | va :: r => do
    let x ← ssbRead a n va
    let l ← ssbReads a n r
    pure (x :: l)

/-- Read rows of `n` elements of `sz` bytes. -/
def ssbRows (a : Agent) (sz n : Nat) (rows : List Int) : M (List (List Nat)) := do
  let l ← ssbReads a sz (rows.flatMap (fun b => (List.range n).map (fun j => wrapN 48 (b + ((j * sz : Nat) : Int)))))
  pure (chunks n l)

/-- Write FP32 elements in order until a cause: its trap, and the elements that it leaves. -/
def ssbWrites (a : Agent) : List (Nat × Nat) → State → Option (Trap × List (Nat × Nat)) × State
  | [], s => (none, s)
  | (va, x) :: r, s =>
    match (do checkAlign (winFits va 4) va; engWrite [] a va (leBytes 4 x)) s with
    | .error t => (some (t, (va, x) :: r), s)
    | .ok (_, s') => ssbWrites a r s'

/-- Addresses of the rows of a matrix that starts at `b`. -/
def rowsAt (b : Int) (stride sz n : Nat) (rows : List (List Nat)) : List (Nat × Nat) :=
  ((List.range rows.length).zip rows).flatMap (fun r =>
    ((List.range n).zip r.2).map (fun e => (wrapN 48 (b + ((r.1 * stride + e.1 * sz : Nat) : Int)), e.2)))

def readMatrix (a : Agent) (q : Scan) (k stride n t0 len : Nat) : M (List (List FVal)) := do
  let f := ptrFmt (q.ptr k)
  let rows ← ssbRows a (fmtSize f) n ((List.range len).map (fun t => q.base k + (((t0 + t) * stride : Nat) : Int)))
  pure (rows.map (fun r => r.map ((elemFmt f).dec)))

/-- The operands of a chunk. -/
def chunkIn (a : Agent) (q : Scan) (t0 len : Nat) : M ChunkIn := do
  let lam ← readMatrix a q 0 4 1 t0 len
  let x ← readMatrix a q 1 (q.strides.getD 0 0) q.p t0 len
  let b ← readMatrix a q 2 (q.strides.getD 1 0) q.n t0 len
  let c ← readMatrix a q 3 (q.strides.getD 2 0) q.n t0 len
  pure ⟨lam.map (fun r => r.headD .nan), x, b, c⟩

/-- The state as N rows of P. -/
def readState (a : Agent) (q : Scan) (k : Nat) : M (List (List Nat)) :=
  ssbRows a 4 q.p ((List.range q.n).map (fun n => q.base k + ((4 * n * q.p : Nat) : Int)))

def stateRows (q : Scan) (l : List (BitVec 32)) : List (List Nat) := chunks q.p (l.map (fun x => x.toNat))
def packRows (rows : List (List Nat)) : List (BitVec 32) := rows.flatten.map (BitVec.ofNat 32)

/-- The state that a chunk starts from: kept, +0, or H0 (16 R303). -/
def startState (a : Agent) (q : Scan) : M (List (List Nat)) :=
  match q.h with
  | some l => pure (stateRows q l)
  | none => if q.z then pure (List.replicate q.n (List.replicate q.p 0)) else readState a q 4

/-! Progress -/

def scanAgent (s : State) (v : Nat) (q : Scan) : Agent := ⟨v, (getCore s v).ctx.toNat, q.lvl⟩

/-- The request finishes its entry and gives up the units (16 R303, R307). -/
def scanDone (s : State) (v : Nat) (q : Scan) (st : FtState) (value : Word) (code : Nat) : State :=
  updCore (devEvent (getCore s v).ctx.toNat (.finish q.handle st value code) (hears s (576 + hHome q.handle) v)) v (fun c => { c with ssb := none })

def setScan (s : State) (v : Nat) (q : Scan) : State := updCore s v (fun c => { c with ssb := some q })

/-- The words of a state at H_end of the head in progress. -/
def endWords (q : Scan) : List (Nat × Nat) :=
  match q.h with
  | some l => rowsAt (q.base 5) (4 * q.p) 4 q.p (stateRows q l)
  | none => []

/-- The state of a head under way is read back from H_end, and the request goes on (16 R308, R310). -/
def scanBack (s : State) (v : Nat) (q : Scan) : State :=
  match readState (scanAgent s v q) q 5 s with
  | .error t => scanDone s v q .poisoned 0 t.code
  | .ok (h, s1) => setScan s1 v { q with stop := 0, h := some (packRows h) }

/-- The request has written what it had to write: the chunk's record, then the next chunk, the end of the head or of the
request, or its stop (16 R290, R303, R308). -/
def scanNext (s : State) (v : Nat) (q : Scan) : State :=
  match q.phase with
  | 1 =>
    let s1 := emit s v (getCore s v).ctx.toNat 0x8C 4 0 (b2n q.mat + 2 * ((q.chunk - 1) % 65536)) (some (q.handle.toNat, q.head))
    if q.chunk = q.chunks then setScan s1 v { q with phase := 2, todo := endWords q }
    else if q.stop = 1 then setScan s1 v { q with phase := 3, todo := endWords q }
    else setScan s1 v { q with phase := 0 }
  | 2 =>
    if q.head + 1 < q.heads then setScan s v { q with head := q.head + 1, chunk := 0, h := none, phase := 0, stop := 2 * q.stop }
    else scanDone s v q .resolved (BitVec.ofNat 64 (q.scount * 2 ^ 32 + q.mcount)) 0
  | 3 => if q.stop = 0 then scanBack s v { q with phase := 0 } else setScan s v { q with h := none, phase := 0, stop := 2 }
  | _ => s

/-- Write what is still to be written. A data access that meets a cause poisons the entry (16 R307); a full dirty log makes
the rest wait (05 R112). -/
def scanWrite (s : State) (v : Nat) (q : Scan) : State :=
  match ssbWrites (scanAgent s v q) q.todo s with
  | (none, s1) => scanNext s1 v { q with todo := [] }
  | (some (t, rest), s1) =>
    if t.code = 23 then
      setScan { postExit s1 v (getCore s1 v).ctx.toNat t.tval with dirtyHeld := s1.dirtyHeld ++ [(65, v)] } v { q with todo := rest }
    else scanDone s1 v q .poisoned 0 t.code

/-- What is to be written, then what a head's end has to write. -/
def scanWrites (s : State) (v : Nat) (q : Scan) : State :=
  let s1 := scanWrite s v q
  match (getCore s1 v).ssb with
  | some q1 => if q1.phase ≠ 0 && !s1.dirtyHeld.contains (65, v) && !stalledSrc s1 v then scanWrite s1 v q1 else s1
  | none => s1

/-- The next chunk runs, or a head that has none ends (16 R290 to R303). -/
def scanStep (s : State) (v : Nat) (q : Scan) : State :=
  let a := scanAgent s v q
  match startState a q s with
  | .error t => scanDone s v q .poisoned 0 t.code
  | .ok (h, s1) =>
    if q.chunks = 0 then
      let q1 := { q with h := some (packRows h), phase := 2 }
      scanWrites s1 v { q1 with todo := endWords q1 }
    else
      let n := q.stepsOf q.chunk
      match chunkIn a q (q.chunk * q.q) n s1 with
      | .error t => scanDone s1 v q .poisoned 0 t.code
      | .ok (i, s2) =>
        let mat := q.matrix n
        let out := if mat then matrixForm q.fp32 q.n q.p i h else stepForm q.depth q.p i h
        let y0 := q.base 6 + ((q.chunk * q.q * q.strides.getD 3 0 : Nat) : Int)
        scanWrites s2 v { q with
          chunk := q.chunk + 1, h := some (packRows out.1), mcount := q.mcount + b2n mat, scount := q.scount + b2n (!mat)
          phase := 1, mat := mat, todo := rowsAt y0 (q.strides.getD 3 0) 4 q.p out.2 }

/-- Does the request stand still: stopped (16 R308), or a write or a record of it waits? -/
def scanStill (s : State) (v : Nat) (q : Scan) : Bool := q.stop == 2 || s.dirtyHeld.contains (65, v) || stalledSrc s v

/-- A chunk completes (16 R290), or what one has to write that waited. -/
def execSscanChunk (v : Nat) (s : State) : Outcome State Fault Refusal :=
  .next (match (getCore s v).ssb with
    | none => s
    | some q => if scanStill s v q then s else if q.phase ≠ 0 then scanWrites s v q else scanStep s v q)

/-- The request goes on with the task on core `v`; the state of a head under way is read back from H_end (16 R308, R310). One
whose chunk has not ended since it was asked to stop has not stopped. -/
def scanResume (s : State) (v : Nat) (q : Scan) : State :=
  let s1 := setScan s v { q with stop := 0 }
  if q.stop ≠ 2 ∨ q.chunk = 0 then s1 else scanBack s1 v q

/-! The instruction (16 R299 to R304) -/

/-- Parameter word k as encoded. -/
def rawWord (o : Eng) (k : Nat) : Nat :=
  match k with
  | 0 => o.p0.toNat
  | 1 => o.p1.toNat
  | 2 => o.p2.toNat
  | _ => o.p3.toNat

/-- Parameter word k after substitution (02 R27). -/
def paramWord (o : Eng) (c : Core) (k : Nat) : Nat :=
  if o.subst.getLsbD k then (c.getG (rawWord o k % 64)).toNat % 2 ^ 32 else rawWord o k

/-- The register that the substitution of word k reads. -/
def substReg (o : Eng) (k : Nat) : List RegId := if o.subst.getLsbD k then regsOf .g (rawWord o k % 64) else []

/-- The registers that substitution reads. -/
def substRegs (o : Eng) : List RegId := substReg o 0 ++ substReg o 1 ++ substReg o 2 ++ substReg o 3

/-- The frame of a request; `more` names the registers that its parameter words name (02 R37). -/
def engIns (op : Nat) (o : Eng) (more : List RegId) : Ins :=
  { Ins.of (encEng op o) with
    la := o.la.toNat, reads := fun _ _ => substRegs o ++ more, writes := fun _ _ => regsOf .g o.f.toNat ++ regsOf .g o.p.toNat }

/-- Cause 1 for the parameter words of a scan, as far as the registers that they come from are known (02 R37). -/
def scanBad (o : Eng) (c : Core) : Bool :=
  (paramWord o c 0 % 64 != 0 && c.knows (substReg o 0)) || (decide (512 ≤ paramWord o c 2) && c.knows (substReg o 2)) ||
  (decide (65536 ≤ paramWord o c 3) && c.knows (substReg o 3))

/-- The formats that operand k of the record may have (16 R301). -/
def scanFmtOk (k f : Nat) : Bool := f == 8 || (f == 10 && decide (1 ≤ k) && decide (k ≤ 3))

/-- The pointers in order: cause 7. -/
def checkPtrs (z : Bool) : List (Nat × Word) → M Unit
  | [] => pure ()
  | (k, p) :: r => do
    if k = 4 && z then pure ()
    else do
      checkPtr true p
      guardT (scanFmtOk k (ptrFmt p)) (ptrTrap p)
    checkPtrs z r

/-- The addresses in order: cause 4. -/
def checkVas (z : Bool) : List (Nat × Word) → M Unit
  | [] => pure ()
  | (k, p) :: r => do
    if k = 4 && z then pure () else checkAlign (ptrVa p % fmtSize (ptrFmt p) == 0) (ptrVa p)
    checkVas z r

/-- Cycles of a chunk in the promise (16 R304). -/
def Scan.cycles (q : Scan) (n : Nat) : Nat :=
  if q.matrix n then 200 + (if q.fp32 then 48 else 24) * ceilDiv q.p 32 else n * (20 + 3 * q.n * q.p / 16)

def Scan.promise (q : Scan) (now : Nat) : Nat :=
  now + 40 + q.heads * ((List.range q.chunks).foldl (fun t k => t + q.cycles (q.stepsOf k)) 0)

/-- `sscan` (16 R299 to R304). -/
def execSscan (o : Eng) (s : State) : Outcome State Fault Refusal :=
  let x := { engIns 6 o [] with units := true }
  issue x (fun st => if scanBad o st.core || !declSsb st then some (illegal x) else none)
    (fun _ _ _ => (do
    let st ← getS
    let p0 := paramWord o st.core 0
    let p1 := paramWord o st.core 1
    let p2 := paramWord o st.core 2
    let va := p1 % 65536 * 2 ^ 32 + p0
    checkAlign (va % 64 == 0) va
    checkRun va 128
    let es ← checkElems 1 8 ((List.range 16).map (fun i => (i, vaAdd va ((8 * i : Nat) : Int))))
    let st ← getS
    let got ← if storesOut st st.cur none || spillWaits st st.core.ctx.toNat (clusterOf st.cur) then (do modC (fun c => { c with wait := .issue }); pure none) else readArr es 8 x.size
    match got with
    | none => pure .hold
    | some (l, _) => do
      let dw := fun i => ofLe (bytesAt l i)
      let z := bitOf p2 4
      let ptrs := (List.range 7).map (fun i => BitVec.ofNat 64 (dw i))
      checkPtrs z ((List.range 7).zip ptrs)
      checkVas z ((List.range 7).zip ptrs)
      let fm := fun k => fmtSize (ptrFmt (ptrs.getD k 0))
      let sx := dw 7 % 2 ^ 32
      let sy := dw 7 / 2 ^ 32
      let sb := dw 8 % 2 ^ 32
      let sc := dw 8 / 2 ^ 32
      checkAlign (sx % fm 1 == 0) sx
      checkAlign (sb % fm 2 == 0) sb
      checkAlign (sc % fm 3 == 0) sc
      checkAlign (sy % 4 == 0) sy
      let st ← getS
      let c := st.core
      let h ← allocEntry (clusterOf st.cur) c.ctx.toNat 2 (parentOf st) 1
      modS (fun s => flushXsts (drainCore s s.cur) s.cur)
      let q : Scan :=
        { handle := h, lvl := c.priv, len := p1 / 65536, q := if bitOf p2 0 then 32 else 16, n := if bitOf p2 5 then 32 else 16,
          p := 16 * (fld p2 8 6 + 1), heads := paramWord o c 3 + 1, z := z, fp32 := bitOf p2 3,
          pol := if fld p2 2 1 = 0 then c.ssbpol.toNat else fld p2 2 1 - 1, thr := c.ssbthr.toNat, ptrs := ptrs,
          strides := [sx, sb, sc, sy], hstrides := (List.range 7).map (fun i => BitVec.ofNat 64 (dw (9 + i))),
          head := 0, chunk := 0, h := none, mcount := 0, scount := 0, pc := c.pc.toNat,
          phase := 0, todo := [], mat := false, stop := 0 }
      giveHandle o.f.toNat h
      wG o.p.toNat (BitVec.ofNat 64 (q.promise st.cycle.toNat))
      modC (fun c => { c with ssb := some q })
      pure .seq)) s

end Sys2Proof.Machine
end

