-- ==== Sys2Proof/Machine/Copy.lean ====
section
/-!
DEFINITION. The copy engine (18): requests, tensor copies, tile reads and writes, scatter and gather.
-/
namespace Sys2Proof.Machine

open Host (Outcome)

/-! Conversions (18 R320) -/

def isFloat (f : Nat) : Bool := (fmtOf f).isSome
/-- A pair of formats that a copy converts. -/
def pairOk (sf df : Nat) : Bool :=
  fmtKnown sf && fmtKnown df && (sf == df || (isFloat sf && isFloat df) || (isFloat sf && df == 13) || (sf == 13 && isFloat df))
/-- Exactly one side is CB4. -/
def oneCb4 (sf df : Nat) : Bool := (sf == 13) != (df == 13)

/-- conv(v), from and to bits. -/
def convElem (sf df mode : Nat) (sat : Bool) (cb : BitVec 256) (x : Nat) : Nat :=
  match fmtOf sf, fmtOf df with
  | some f, some g => if sf = df then (rne g (f.dec x)).1 else (g.round (RMode.of mode) sat 0 (f.dec x)).1
  | some f, none => (quantCb cb (RMode.of mode) 0 (f.dec x)).1
  | none, some g => (g.round (RMode.of mode) sat 0 (cbEntry cb x)).1
  | none, none => x

/-! Tensors (18 R317) -/

/-- The coordinates of element k, i0 fastest. -/
def coords : List Nat → Nat → List Nat
  | [], _ => []
  | e :: r, k => k % e :: coords r (k / e)

def dotI : List Nat → List Int → Int
  | i :: r, t :: q => (i : Int) * t + dotI r q
  | _, _ => 0

/-- Address, and nibble of a CB4 side, of an element. -/
def elemAddr (base fmt : Nat) (str : List Int) (ix : List Nat) : Nat × Nat :=
  let i0 := ix.headD 0
  let off := dotI (ix.drop 1) str
  if fmt = 13 then (wrapN 48 ((base : Int) + off + (i0 / 2 : Nat)), i0 % 2)
  else (wrapN 48 ((base : Int) + off + ((i0 * fmtSize fmt : Nat) : Int)), 0)

def Copy.agent (q : Copy) : Agent := ⟨q.core, q.ctx, q.lvl⟩

/-- Move element k of a tensor copy. -/
def moveElem (q : Copy) (k : Nat) : M Unit := do
  let ix := coords q.shape k
  let a := elemAddr (ptrVa q.src) q.sfmt q.sstr ix
  let b := elemAddr (ptrVa q.dst) q.dfmt q.dstr ix
  let raw ← engRead q.tiles q.agent a.1 (if q.sfmt = 13 then 1 else fmtSize q.sfmt)
  let x := if q.sfmt = 13 then ofLe raw / 16 ^ a.2 % 16 else ofLe raw
  let y := convElem q.sfmt q.dfmt q.mode q.sat q.cb x
  if q.dfmt = 13 then do
    let old ← engRead q.tiles q.agent b.1 1
    let o := ofLe old
    engWrite q.tiles q.agent b.1 (leBytes 1 (if b.2 = 0 then o / 16 * 16 + y else o % 16 + 16 * y))
  else engWrite q.tiles q.agent b.1 (leBytes (fmtSize q.dfmt) y)

/-- Elements from k on until a cause: its trap and its element. -/
def moveElems (q : Copy) : Nat → Nat → State → Option (Trap × Nat) × State
  | 0, _, s => (none, s)
  | n + 1, k, s =>
    match moveElem q k s with
    | .error t => (some (t, k), s)
    | .ok (_, s') => moveElems q n (k + 1) s'

def Copy.count (q : Copy) : Nat := q.shape.foldl (fun a b => a * b) 1

/-! Rows (18 R321, R324) -/

def Copy.tile (q : Copy) : Nat := tileOf (ptrVa q.dst)
def padRow (s : State) (cl tile off n : Nat) : List Byte := memRead s.mem (padAt cl (4096 * tile + off)) n

/-- `tread` from row m on. -/
def fillRows (q : Copy) (cl : Nat) : Nat → Nat → State → Option Trap × State
  | 0, _, s => (none, s)
  | n + 1, m, s =>
    match (do
      let b ← engRead q.tiles q.agent ((ptrVa q.src + m * q.stride) % 2 ^ 48) q.rowb
      putTile cl q.tile (128 * m) (b ++ zeros (128 - q.rowb))) s with
    | .error t => (some t, s)
    | .ok (_, s') => fillRows q cl n (m + 1) s'

/-- The row of a list that failed and has the lowest number (18 R325). -/
def Copy.failAt (q : Copy) (m code : Nat) : Copy :=
  { q with fail := match q.fail with
    | some (k, c) => if m < k then some (m, code) else some (k, c)
    | none => some (m, code) }

/-- A row of this node: `tscat` writes it from doubleword `q.sub` on, `tgath` reads it. -/
def localRow (q : Copy) (cl m va : Nat) (s : State) : Option (Trap × Nat) × State :=
  if q.op = 4 then
    putDwords true q.tiles q.agent q.sub ((dwordsAt va (padRow s cl q.tile (m * q.rowb) q.rowb)).drop q.sub) s
  else
    match (do
      let b ← engRead q.tiles q.agent va q.rowb
      putTile cl q.tile (m * q.rowb) b) s with
    | .error t => (some (t, 0), s)
    | .ok (_, s') => (none, s')

/-- The rows of a list from the first unhandled one on: the write that waits on a full dirty log, the request, the state.
It stops at a row for which no reply slot is free (21 R358). -/
def listRows (cl : Nat) : List Word → Copy → State → Option Trap × Copy × State
  | [], q, s => (none, q, s)
  | w :: r, q, s =>
    let m := q.pos
    let q1 := { q with pos := m + 1, sub := 0 }
    if rowSkip w then listRows cl r q1 s
    else if rowNode w = ownNode s then
      match localRow q cl m (rowAddr w) s with
      | (some (t, n), s') => if t.code = 23 then (some t, { q with sub := n }, s') else listRows cl r (q1.failAt m t.code) s'
      | (none, s') => listRows cl r { q1 with moved := q1.moved + 1 } s'
    else if !canSend s (cl / 32) (rowNode w) 0 (q.op == 5) then (none, q, s)
    else
      let data := if q.op = 4 then padRow s cl q.tile (m * q.rowb) q.rowb else []
      let s1 := sendReq s (rowNode w) 7 0 (rowAddr w) q.ctx (q.rowb - 1 + 256 * (q.op - 4)) data (rowAddr w) (.row cl q.id m (q.op == 5))
      listRows cl r { q1 with out := m :: q1.out } s1

/-! Tiles that come back (18 R316, 04 R88) -/

/-- The scheduler writes back a tile that came back after its task's end, then frees it; its request advances the promises
(18 R326). -/
def lateTile (s : State) (cl tile : Nat) : State :=
  match (getCl s cl).tdesc.find? tile with
  | some t => queueWork (if t.writes then tilePromise s cl t else s) cl 8 t.ctx none [tile]
  | none => freeTile s cl tile

/-- A tile goes to a task: its core, 0x0A while it is off its core, 0x09 once it has ended. -/
def giveTile (s : State) (cl core tile : Nat) (task : Option TaskRef) : State :=
  match task with
  | none => setOwner s cl tile (core % 8)
  | some r =>
    match (gangOf s r.gid).bind (fun g => g.members.find? (fun m => m.rank == r.rank)) with
    | none => lateTile (setOwner s cl tile 9) cl tile
    | some m =>
      if m.ended then
        let s1 := setOwner s cl tile 9
        if m.writing && m.wb.contains tile then s1 else lateTile s1 cl tile
      else
        match m.core with
        | some v => setOwner s cl tile (v % 8)
        | none => updGang (setOwner s cl tile 10) r.gid (fun g => { g with held := g.held ++ [⟨tile, some r.rank⟩] })

/-- The continuation of a `treads` joins its ready queue (18 R322). -/
def startNext (s : State) (cl : Nat) (q : Copy) (gid : Nat) : State :=
  match gangOf s gid with
  | none => freeTile s cl q.tile
  | some g =>
    let s1 := setOwner s cl q.tile 9
    match q.fail with
    | some (_, c) => endUnrun s1 g .poisoned c
    | none =>
      match readType (clCore cl) g.ctx (g.dw0.toNat % 4096) true s1 with
      | .error t => endUnrun s1 g .poisoned t.code
      | .ok (.error c, s2) => endUnrun s2 g .poisoned c
      | .ok (.ok ty, s2) =>
        if ty.args.any (fun d => argAcc d != 0) then endUnrun s2 g .poisoned 21
        else
          let dw := if fld g.dw0.toNat 15 12 = 15 then g.dw0.toNat - 15 * 4096 + ty.prio * 4096 else g.dw0.toNat
          joinQueue (updGang s2 gid (fun x => { x with ty := some ty, dw0 := BitVec.ofNat 64 dw, enq := s.cycle.toNat })) gid

/-- The value of a request (18 R315). -/
def Copy.value (q : Copy) : Nat :=
  match q.op with
  | 0 => q.count
  | 4 => q.moved
  | 5 => q.moved
  | _ => ptrVa q.dst

/-- A request finishes (18 R313): its tiles go back, then its entry finishes. -/
def copyEnd (s : State) (cl : Nat) (q : Copy) : State :=
  let main := if q.op = 0 then [] else [q.tile]
  let others := q.tiles.filter (fun t => !main.contains t)
  let s0 := dropCopy s cl q.id
  let s1 := others.foldl (fun st t => giveTile st cl q.core t q.task) s0
  let code := (q.fail.map (fun p => p.2)).getD 0
  match q.next with
  | some gid => startNext s1 cl q gid
  | none =>
    let s3 := main.foldl (fun st t => giveTile st cl q.core t q.recv) s1
    devEvent q.ctx (.finish q.handle (if q.fail.isNone then .resolved else .poisoned) (BitVec.ofNat 64 q.value) code) (hears s3 (576 + hHome q.handle) (512 + cl))

/-- All accesses of a request have been made: its record, then its finish, which waits where the record does (24 R385). -/
def copyFinish (s : State) (cl : Nat) (q : Copy) : State :=
  if stalledSrc s (512 + cl) then setCopy s cl q
  else if q.told then copyEnd s cl q
  else
    let code := (q.fail.map (fun p => p.2)).getD 0
    let ok := q.fail.isNone
    let s1 := emit s (512 + cl) q.ctx 0x8B 3 0 (if ok then 0 else 11 + 256 * code) (some (q.handle.toNat, if ok then q.value else 0))
    if stalledSrc s1 (512 + cl) then setCopy s1 cl { q with told := true } else copyEnd s1 cl q

/-- All accesses of a request that are left: what waits on a full dirty log, the request after it, the state. -/
def copyRun (cl : Nat) (q : Copy) (s : State) : Option Trap × Copy × State :=
  let stop := fun (r : Option (Trap × Nat) × State) =>
    match r with
    | (none, s') => (none, { q with done := true }, s')
    | (some (t, n), s') =>
      if t.code = 23 then (some t, { q with pos := n }, s') else (none, { q with done := true, fail := some (0, t.code) }, s')
  match q.op with
  | 0 => stop (moveElems q (q.count - q.pos) q.pos s)
  | 2 => stop (putDwords true q.tiles q.agent q.pos ((rowDwords s cl q.tile (ptrVa q.src) q.stride q.rowb q.rows).drop q.pos) s)
  | 4 => let r := listRows cl (q.list.drop q.pos) q s; (r.1, { r.2.1 with done := decide (q.list.length ≤ r.2.1.pos) }, r.2.2)
  | 5 => let r := listRows cl (q.list.drop q.pos) q s; (r.1, { r.2.1 with done := decide (q.list.length ≤ r.2.1.pos) }, r.2.2)
  | _ =>
    stop (match fillRows q cl q.rows 0 s with
      | (some t, s') => (some (t, 0), s')
      | (none, s') => (none, (putTile cl q.tile (128 * q.rows) (zeros (4096 - 128 * q.rows)) s').toOption.map (fun r => r.2) |>.getD s'))

/-- The exit of a write of a request that meets a full dirty log, and its wait (05 R112, 06 R132). -/
def copyHold (s : State) (cl : Nat) (q : Copy) (v : Nat) (gpa : Word) : State :=
  { postExit (setCopy s cl q) v q.ctx gpa with dirtyHeld := s.dirtyHeld ++ [(cl, q.id)] }

/-- A tile that came back is written back and freed. -/
def lateWrite (s : State) (cl : Nat) (q : Copy) : State :=
  match storeTiles cl q.tiles q s with
  | (some t, q1, s1) => copyHold s1 cl q1 (irqCore s1 q.ctx) t.tval
  | (none, _, s1) => dropCopy (q.tiles.foldl (fun st t => freeTile st cl t) s1) cl q.id

/-- The next request to finish performs its accesses; it finishes where no answer from another node is missing (18 R311,
R313). -/
def execCopyComplete (cl n : Nat) (s : State) : Outcome State Fault Refusal :=
  match (getCl s cl).copies[n]? with
  | none => .next s
  | some q =>
    if s.dirtyHeld.contains (cl, q.id) || stalledSrc s (512 + cl) || !turnOf s cl q.id || q.op == 6 || q.op == 7 then .next s
    else if q.op = 8 then .next (lateWrite s cl q)
    else if q.done then .next (if q.out.isEmpty then copyFinish s cl q else s)
    else
      match copyRun cl q s with
      | (some t, q1, s1) => .next (copyHold s1 cl q1 q.core t.tval)
      | (none, q1, s1) => .next (if q1.done && q1.out.isEmpty then copyFinish s1 cl q1 else setCopy s1 cl q1)

/-- An answer for a remote row: its cause, or the bytes of a gathered row (18 R324). -/
def rowAnswer (s : State) (cl id m cause : Nat) (data : List Byte) : State :=
  match (getCl s cl).copies.find? (fun x => x.id == id) with
  | none => s
  | some q =>
    let q1 := { q with out := q.out.erase m }
    let q2 := if cause = 0 then { q1 with moved := q1.moved + 1 } else q1.failAt m cause
    let s1 := if cause = 0 ∧ q.op = 5 then homeWrite s none 0 (padAt cl (4096 * q.tile + m * q.rowb)) (data.take q.rowb) else s
    if q2.done && q2.out.isEmpty then copyFinish s1 cl q2 else setCopy s1 cl q2

/-! Requests at issue -/

/-- The registers that the parameter words name (02 R37). -/
def copyRegs (op : Nat) (o : Eng) (c : Core) : List RegId :=
  let p0 := paramWord o c 0
  let p3 := paramWord o c 3
  let r := fun (n : Nat) => regsOf .g n
  match op with
  | 0 => r (fld p0 5 0) ++ r (fld p0 11 6) ++ r (fld p0 17 12) ++
      (if fld p0 17 12 = 0 then r (fld p3 5 0) ++ r (fld p3 11 6) else [])
  | 4 => r (fld p0 5 0) ++ r (fld p0 11 6)
  | 5 => r (fld p0 5 0) ++ r (fld p0 11 6)
  | _ => r (fld p0 5 0) ++ r (fld p0 11 6) ++ r (fld p0 17 12)

/-- Bytes of a row: a multiple of 8 up to `mx`. -/
def rowOk (b mx : Nat) : Bool := decide (8 ≤ b) && decide (b ≤ mx) && b % 8 == 0

/-- The parameter words and flags of `tscat` and `tgath` (18 R323). -/
def listBad (k : List Nat → List Nat → Bool) (p0 p1 p2 p3 fl : Nat) : Bool :=
  (fld p0 31 12 != 0 && k [0] []) ||
  ((fld p1 15 9 != 0 || fld p1 31 22 != 0 || !rowOk (fld p1 8 0) 256 || decide (4096 < (fld p1 21 16 + 1) * fld p1 8 0)) && k [1] []) ||
  (p2 != 0 && k [2] []) || (p3 != 0 && k [3] []) || fld fl 5 4 != 0

/-- Reserved bits and values of the parameter words and flags (18 R315, R320, R321, R323): cause 1, as far as the registers that
they come from are known (02 R37). -/
def copyBad (op : Nat) (o : Eng) (st : State) : Bool :=
  let c := st.core
  let k := fun (ws : List Nat) (gs : List Nat) => c.knows (ws.flatMap (substReg o) ++ gs.flatMap (regsOf .g))
  let p0 := paramWord o c 0
  let p1 := paramWord o c 1
  let p2 := paramWord o c 2
  let p3 := paramWord o c 3
  let fl := o.flags.toNat
  match op with
  | 0 =>
    let inl := fld p0 17 12 = 0
    let gs := fld p0 11 6
    let gd := fld p0 5 0
    let sf := ptrFmt (c.getG gs)
    let df := ptrFmt (c.getG gd)
    (fld p0 31 18 != 0 && k [0] []) || decide (4 ≤ fl % 8) ||
    (if inl then (fld p3 31 15 != 0 || fld p3 14 12 == 0 || decide (3 < fld p3 14 12)) && k [0, 3] []
     else (p1 != 0 && k [0, 1] []) || (p2 != 0 && k [0, 2] []) || (p3 != 0 && k [0, 3] [])) ||
    (bitOf fl 3 && df != 12 && k [0] [gd]) ||
    (((sf == df || !pairOk sf df) && fl % 8 != 0 || (bitOf fl 3 && (sf == df || !pairOk sf df)) ||
      (!(oneCb4 sf df && pairOk sf df) && fld fl 5 4 != 0) || (oneCb4 sf df && pairOk sf df && !declArr st)) && k [0] [gs, gd])
  | 4 => listBad k p0 p1 p2 p3 fl
  | 5 => listBad k p0 p1 p2 p3 fl
  | _ => (fld p0 31 18 != 0 && k [0] []) || ((fld p1 31 13 != 0 || !rowOk (fld p1 7 0) 128) && k [1] []) || (p2 != 0 && k [2] []) ||
      ((if op = 3 then fld p3 31 16 != 0 else p3 != 0) && k [3] []) || fld fl 5 4 != 0 ||
      (fld p1 12 8 != 0 && decide ((c.getG (fld p0 17 12)).toNat < fld p1 7 0) && k [0, 1] [fld p0 17 12])

/-- The tile operand (18 R316): cause 4. -/
def tileAddrOk (va : Nat) : Bool := isWin va && va % 4096 == 0 && decide (va < winBase + 960 * 4096)

/-- Does the issuing core own a tile, itself and alone? -/
def ownsTile (s : State) (t : Nat) : Bool := ownerOf s (clusterOf s.cur) t == s.cur % 8

/-- Does core n of the cluster run a task of the issuer's context? -/
def runsOurs (s : State) (n : Nat) : Bool :=
  let c := getCore s (s.cur / 8 * 8 + n)
  c.task.isSome && c.ctx == s.core.ctx

/-- A span of bytes: the lowest address, and the one past the highest. -/
abbrev Span := Nat × Nat

/-- Does a span reach a window? -/
def Span.win (p : Span) : Bool := decide (winBase < p.2)
/-- A window operand lies in one window, which is not the exchange bank's (18 R316). -/
def Span.ok (p : Span) : Bool := isWin p.1 && winFits p.1 (p.2 - p.1) && winOf p.1 != 2
/-- The tiles that a span in the scratchpad window touches. -/
def Span.tiles (p : Span) : List Nat :=
  if isWin p.1 && winOf p.1 == 0 then (List.range (tileOf (p.2 - 1) - tileOf p.1 + 1)).map (fun i => tileOf p.1 + i) else []

/-- The offsets of the rows of a tensor. -/
def rowOffs : List Nat → List Int → List Int
  | e :: r, t :: q => (rowOffs r q).flatMap (fun o => (List.range e).map (fun (i : Nat) => (i : Int) * t + o))
  | _, _ => [0]

/-- The bytes of a side of a tensor copy; none where nothing moves. Its elements' addresses wrap (18 R317): where its rows pass
2^48, the span is that of the rows at their wrapped addresses. -/
def tensorSpan (base fmt : Nat) (ex : List Nat) (str : List Int) : Option Span :=
  if ex.contains 0 then none
  else
    let e0 := ex.headD 1
    let row := if fmt = 13 then (e0 + 1) / 2 else e0 * fmtSize fmt
    let r := ((ex.drop 1).zip str).foldl (fun (p : Int × Int) q =>
      let x := ((q.1 - 1 : Nat) : Int) * q.2
      if x < 0 then (p.1 + x, p.2) else (p.1, p.2 + x)) ((base : Int), (base : Int) + (row : Int))
    if r.1.fdiv (2 ^ 48) = (r.2 - 1).fdiv (2 ^ 48) then some (wrapN 48 r.1, wrapN 48 r.1 + (r.2 - r.1).toNat)
    else
      let starts := (rowOffs (ex.drop 1) str).map (fun o => wrapN 48 ((base : Int) + o))
      let lo := starts.foldl minN (starts.headD 0)
      some (lo, starts.foldl maxN lo + row)

/-- A core's requests that have not finished (18 R311). -/
def outstanding (s : State) (v : Nat) : Nat := ((getCl s (clusterOf v)).copies.filter (fun q => q.core == v)).length

/-- A request with nothing but its issuer. -/
def newCopy (op : Nat) (s : State) : Copy :=
  { Copy.blank 0 op s.cur s.core.task s.core.ctx.toNat s.core.priv s.core.pc.toNat with recv := s.core.task }

/-- int32 halves of a stride register (18 R317). -/
def inlineStrides (x : Word) : List Int := [sextI x.toNat 32, sextI (x.toNat / 2 ^ 32) 32]

def readDwords (va n size : Nat) : M (Option (Nat → Nat)) := do
  checkRun va (8 * n)
  let es ← checkElems 1 8 ((List.range n).map (fun i => (i, vaAdd va ((8 * i : Nat) : Int))))
  let got ← readArr es 8 size
  pure (got.map (fun l i => ofLe (bytesAt l.1 i)))

/-- Extents, strides of both sides and formats of a tensor copy; none while the shape record is on its way. -/
def tensorShape (o : Eng) (x : Ins) (bad7 : Option Trap) (bad4 : Option Trap) : M (Option (List Nat × List Int × List Int × Nat × Nat)) := do
  let st ← getS
  let c := st.core
  let p0 := paramWord o c 0
  let p2 := paramWord o c 2
  let p3 := paramWord o c 3
  if fld p0 17 12 = 0 then do
    match bad7 with
    | some t => raise t
    | none => pure ()
    let rank := fld p3 14 12
    pure (some ([paramWord o c 1, p2 % 65536, p2 / 65536].take rank, (inlineStrides (c.getG (fld p3 5 0))).take (rank - 1),
      (inlineStrides (c.getG (fld p3 11 6))).take (rank - 1), 0, 0))
  else do
    let p := c.getG (fld p0 17 12)
    match (if ptrOk false p then bad7 else some (bad7.getD (ptrTrap p))) with
    | some t =>
      -- a record that can be read may still hold cause 1, which comes first
      match (do checkPtr false p; checkAlign (ptrVa p % 8 == 0) (ptrVa p); readDwords (ptrVa p) 16 x.size) st with
      | .ok (some d, _) => if fld (d 3) 34 32 = 0 || fld (d 3) 39 35 != 0 || fld (d 3) 47 46 != 0 || fld (d 3) 63 54 != 0 then raise (illegal x) else raise t
      | _ => raise t
    | none => pure ()
    checkAlign (ptrVa p % 8 == 0) (ptrVa p)
    let r ← tryM (readDwords (ptrVa p) 16 x.size)
    match r with
    | .error t => raise (bad4.getD t)
    | .ok none => pure none
    | .ok (some d) =>
      if fld (d 3) 34 32 = 0 || fld (d 3) 39 35 != 0 || fld (d 3) 47 46 != 0 || fld (d 3) 63 54 != 0 then raise (illegal x)
      else
        let rank := fld (d 3) 34 32
        let ex := [d 0 % 2 ^ 32, d 0 / 2 ^ 32, d 1 % 2 ^ 32, d 1 / 2 ^ 32, d 2 % 2 ^ 32, d 2 / 2 ^ 32, d 3 % 2 ^ 32].take rank
        let ss := ((List.range 6).map (fun i => sextI (d (4 + i)) 64)).take (rank - 1)
        let ds := ((List.range 6).map (fun i => sextI (d (10 + i)) 64)).take (rank - 1)
        pure (some (ex, ss, ds, fld (d 3) 45 40, fld (d 3) 53 48))

/-- Every stride is a multiple of the side's element size (18 R319). -/
def checkStrides (sz : Nat) : List Int → M Unit
  | [] => pure ()
  | t :: r => do
    guardT (t % (sz : Int) == 0) { code := 4, tval := BitVec.ofInt 64 t }
    checkStrides sz r

/-- One side's window: cause 4, and cause 8 for tiles the issuer does not own. -/
def checkSpan (va : Nat) (sp : Option Span) : M Unit :=
  match sp with
  | none => pure ()
  | some p => guardT (!p.win || p.ok) (misalign va)

def checkSpanTiles (va : Nat) (sp : Option Span) : M (List Nat) := do
  let s ← getS
  match sp with
  | none => pure []
  | some p =>
    guardT (p.tiles.all (ownsTile s)) (accTrap va false 8)
    pure p.tiles

/-- The checks and the snapshot of `tcopy` (18 R317 to R320). -/
def prepTcopy (o : Eng) (x : Ins) : M (Option Copy) := do
  let st ← getS
  let c := st.core
  let p0 := paramWord o c 0
  let dst := c.getG (fld p0 5 0)
  let src := c.getG (fld p0 11 6)
  let sf := ptrFmt src
  let df := ptrFmt dst
  let al := fun (p : Word) => ptrFmt p == 13 || ptrVa p % fmtSize (ptrFmt p) == 0
  let bad7 := if !ptrOk true dst then some (ptrTrap dst) else if !ptrOk true src then some (ptrTrap src)
    else if !pairOk sf df then some (ptrTrap dst) else none
  let bad4 := if !al dst then some (misalign (ptrVa dst)) else if !al src then some (misalign (ptrVa src)) else none
  if oneCb4 sf df && bad7.isNone && c.ssb.isSome then do
    modC (fun c => { c with wait := .issue })
    pure none
  else do
    let r ← tensorShape o x bad7 bad4
    match r with
    | none => pure none
    | some (ex, ss, ds, f1, f2) => do
      guardT (f2 == 0 || f2 == df) (ptrTrap dst)
      guardT (f1 == 0 || f1 == sf) (ptrTrap src)
      checkAlign (al dst) (ptrVa dst)
      checkAlign (al src) (ptrVa src)
      checkStrides (if df = 13 then 1 else fmtSize df) ds
      checkStrides (if sf = 13 then 1 else fmtSize sf) ss
      let dsp := tensorSpan (ptrVa dst) df ex ds
      let ssp := tensorSpan (ptrVa src) sf ex ss
      checkSpan (ptrVa dst) dsp
      checkSpan (ptrVa src) ssp
      let t1 ← checkSpanTiles (ptrVa dst) dsp
      let t2 ← checkSpanTiles (ptrVa src) ssp
      let fl := o.flags.toNat
      pure (some { newCopy 0 st with
        dst := dst, src := src, shape := ex, sstr := ss, dstr := ds, sfmt := sf, dfmt := df, mode := fl % 8, sat := bitOf fl 3
        cb := cbOf c.arr (fld fl 5 4), tiles := t1 ++ t2.filter (fun t => !t1.contains t) })

/-- The receiving task (18 R316): cause 8 where the named core runs none of the context. -/
def receiver (o : Eng) (va : Nat) : M (Option TaskRef) := do
  let s ← getS
  if bitOf o.flags.toNat 3 then do
    guardT (runsOurs s (o.flags.toNat % 8)) (accTrap va false 8)
    pure (getCore s (s.cur / 8 * 8 + o.flags.toNat % 8)).task
  else pure s.core.task

/-- The checks and the snapshot of `tread`, `twrite`, `treads` (18 R316, R321). -/
def prepTile (op : Nat) (o : Eng) : M (Option Copy) := do
  let st ← getS
  let c := st.core
  let p0 := paramWord o c 0
  let p1 := paramWord o c 1
  let tp := c.getG (fld p0 5 0)
  let mp := c.getG (fld p0 11 6)
  let stride := (c.getG (fld p0 17 12)).toNat
  let rowb := fld p1 7 0
  let rows := fld p1 12 8 + 1
  checkPtr false tp
  checkPtr true mp
  let va := ptrVa mp
  checkAlign (tileAddrOk (ptrVa tp)) (ptrVa tp)
  checkAlign (va % 8 == 0) va
  checkAlign (stride % 8 == 0) stride
  let lands := (List.range rows).any (fun m => decide (winBase < (va + m * stride) % 2 ^ 48 + rowb))
  let span : Option Span := if lands then some (va, va + (rows - 1) * stride + rowb) else none
  checkSpan va span
  guardT (ownsTile st (tileOf (ptrVa tp))) (accTrap (ptrVa tp) false 8)
  let l ← checkSpanTiles va span
  let recv ← receiver o (ptrVa tp)
  let t := tileOf (ptrVa tp)
  pure (some { newCopy op st with
    dst := tp, src := mp, stride := stride, rows := rows, rowb := rowb, recv := recv, tiles := t :: l.filter (fun y => y != t) })

/-- The checks of the entries of a list (18 R323): cause 7, then 4, at first that of the tile operand, then 18 and 6. -/
def checkList (s : State) (bad4 : Option Trap) (l : List Word) : Option Trap :=
  let live := l.filter (fun w => !rowSkip w)
  match (live.find? (fun w => fld w.toNat 53 49 != 0)).map ptrTrap <|> bad4 with
  | some t => some t
  | none =>
    match live.find? (fun w => rowAddr w % 8 != 0) with
    | some w => some (misalign (rowAddr w))
    | none =>
      (live.find? (fun w => !nodeReach s (rowNode w) || isWin (rowAddr w))).map (fun w =>
        if !nodeReach s (rowNode w) then { code := 18, tval := BitVec.ofNat 64 (rowNode w) } else accTrap (rowAddr w) false 6)

/-- The checks and the snapshot of `tscat`, `tgath` (18 R316, R323). -/
def prepList (op : Nat) (o : Eng) (x : Ins) : M (Option Copy) := do
  let st ← getS
  let c := st.core
  let p0 := paramWord o c 0
  let p1 := paramWord o c 1
  let tp := c.getG (fld p0 5 0)
  let lp := c.getG (fld p0 11 6)
  let n := fld p1 21 16 + 1
  checkPtr false tp
  checkPtr false lp
  let bad4 := if tileAddrOk (ptrVa tp) then none else some (misalign (ptrVa tp))
  guardT (ptrVa lp % 8 == 0) (bad4.getD (misalign (ptrVa lp)))
  let r ← tryM (readDwords (ptrVa lp) n x.size)
  match r with
  | .error t => raise (bad4.getD t)
  | .ok none => pure none
  | .ok (some d) => do
    let l := (List.range n).map (fun i => BitVec.ofNat 64 (d i))
    match checkList st bad4 l with
    | some t => raise t
    | none => pure ()
    guardT (ownsTile st (tileOf (ptrVa tp))) (accTrap (ptrVa tp) false 8)
    let recv ← receiver o (ptrVa tp)
    pure (some { newCopy op st with
      dst := tp, rowb := fld p1 8 0, list := l, recv := recv, tiles := [tileOf (ptrVa tp)] })

/-- Bytes that a request moves, and the figure of its memory operand (18 R326). -/
def copyLoad (s : State) (q : Copy) : Nat × Nat :=
  let half := fun (f : Nat) => if f = 13 then 1 else 2 * fmtSize f
  match q.op with
  | 0 => (ceilDiv (q.count * maxN (half q.sfmt) (half q.dfmt)) 2, latOf s q.agent (ptrVa q.src))
  | 4 => (q.list.length * q.rowb, listLat)
  | 5 => (q.list.length * q.rowb, listLat)
  | _ => (q.rows * q.rowb, latOf s q.agent (ptrVa q.src))
where
  listLat : Nat :=
    match q.list.find? (fun w => !rowSkip w && rowNode w != ownNode s) with
    | some w => Config.replyEstimate (rowNode w) s.cycle.toNat
    | none =>
      match q.list.find? (fun w => !rowSkip w) with
      | some w => latOf s q.agent (rowAddr w)
      | none => 12

/-- The record of a continuation (18 R322). -/
def nextGang (s : State) (q : Copy) (p3 : Nat) (h : Word) : Gang :=
  let mine := gangOfCore s s.cur
  let dw0 := p3 % 65536 + ((mine.map (fun g => g.dw0.toNat / 65536)).getD 0) * 65536
  { mkGang (s.nextId + 1) q.ctx (BitVec.ofNat 64 dw0) (BitVec.ofNat 64 (ptrVa q.dst)) (ownHandle s s.cur) (getCtx s q.ctx).seq.toNat
      (clusterOf s.cur) h with
    cluster := some (clusterOf s.cur), contTile := some (ptrVa q.dst), enq := s.cycle.toNat, since := s.cycle.toNat }

/-- Does the engine accept a request of the active core now? It waits for a place (18 R311), for the core's earlier accesses
to be performed, and while the engine stalls (24 R385). -/
def mayAccept (s : State) : Bool :=
  decide (outstanding s s.cur < 32) && !storesOut s s.cur none && !stalledSrc s (512 + clusterOf s.cur) &&
    !spillWaits s s.core.ctx.toNat (clusterOf s.cur)

/-- Acceptance (18 R312). -/
def takeCopy (o : Eng) (q : Copy) : M Unit := do
  let recv ← if q.op = 0 then pure q.recv else receiver o (ptrVa q.dst)
  let s ← getS
  let cl := clusterOf s.cur
  let h ← allocEntry cl q.ctx (if q.op = 3 then 0 else 2) (parentOf s) (if q.op = 3 then 2 else 1)
  modS (fun s => flushXsts (drainCore s s.cur) s.cur)
  modS (fun s => q.tiles.foldl (fun st t => setOwner st cl t 8) s)
  let s ← getS
  let bl := copyLoad s q
  let pr ← liftS (fun s => takePromise s cl bl.1 bl.2)
  let g := nextGang s q (paramWord o s.core 3) h
  let q1 := { q with id := s.nextId, recv := recv, handle := h, promise := pr, next := if q.op = 3 then some g.gid else none }
  modS (fun s => updCl { s with nextId := s.nextId + 2, gangs := if q.op = 3 then s.gangs ++ [g] else s.gangs } cl
    (fun c => { c with copies := c.copies ++ [q1] }))
  giveHandle o.f.toNat h
  wG o.p.toNat (BitVec.ofNat 64 pr)
  modS (fun s => emit s (512 + cl) q.ctx 0x8A 3 0 q.op (some (h.toNat, pr)) (heardAt s s.cur (512 + cl)))

/-- A copy request at issue: its checks and its snapshot, then its acceptance, or its wait for it. -/
def copyReq (op : Nat) (o : Eng) (s : State) : Outcome State Fault Refusal :=
  let x := engIns op o (copyRegs op o s.core)
  issue x (fun st => if copyBad op o st then some (illegal x) else none) (fun _ _ _ => do
    let r ← (match op with
      | 0 => prepTcopy o x
      | 4 => prepList op o x
      | 5 => prepList op o x
      | _ => prepTile op o)
    match r with
    | none => pure .hold
    | some q => do
      let s ← getS
      if mayAccept s then do
        takeCopy o q
        pure .seq
      else do
        opensLater x
        modC (fun c => { c with wait := .engine q o })
        pure .hold) s

/-- `tcopy` (18 R317 to R320). -/
def execTcopy (o : Eng) (s : State) : Outcome State Fault Refusal := copyReq 0 o s
/-- `tread` (18 R321). -/
def execTread (o : Eng) (s : State) : Outcome State Fault Refusal := copyReq 1 o s
/-- `twrite` (18 R321). -/
def execTwrite (o : Eng) (s : State) : Outcome State Fault Refusal := copyReq 2 o s
/-- `treads` (18 R322). -/
def execTreads (o : Eng) (s : State) : Outcome State Fault Refusal := copyReq 3 o s
/-- `tscat` (18 R324). -/
def execTscat (o : Eng) (s : State) : Outcome State Fault Refusal := copyReq 4 o s
/-- `tgath` (18 R324). -/
def execTgath (o : Eng) (s : State) : Outcome State Fault Refusal := copyReq 5 o s

/-- The request of the active core that waits is accepted, where it may be. -/
def acceptWaiting (s : State) : State :=
  match s.core.wait with
  | .engine q o =>
    if mayAccept s then
      let size := (Ins.of (encEng q.op o)).size
      match takeCopy o q s with
      | .ok (_, s1) => { s1 with core := s1.core.complete size }
      | .error t => takeTrap s size t
    else s
  | _ => s

/-- The copy engine turns to the request that waits on core `v` (18 R311, R312). -/
def execCopyAccept (v : Nat) (s : State) : Outcome State Fault Refusal := .next (asCore s v acceptWaiting)

end Sys2Proof.Machine
end

