-- ==== Sys2Proof/Machine/Csr.lean ====
section
/-!
DEFINITION. The CSR map, its levels and layouts (06 R124 to R130; 03 R71; 05 R112, R115; 10 R216; 16 R292, R293; 24 R382, R388)
and the CSR instructions (07 R167, R168).
-/
namespace Sys2Proof.Machine

open Host (Outcome)

/-- Least level to read and to write of a CSR; none: reserved, or not writable (06 R124). -/
def csrLevels : Nat → Option (Lvl × Option Lvl)
  | 0x000 => some (.u, some .u)
  | 0x001 => some (.u, some .u)
  | 0x002 => some (.u, some .u)
  | 0x003 => some (.u, some .u)
  | 0x004 => some (.u, some .u)
  | 0x005 => some (.u, some .u)
  | 0x008 => some (.u, none)
  | 0x009 => some (.u, none)
  | 0x00A => some (.u, none)
  | 0x00B => some (.u, none)
  | 0x00C => some (.u, some .k)
  | 0x00D => some (.u, some .k)
  | 0x100 => some (.k, some .k)
  | 0x101 => some (.u, none)
  | 0x102 => some (.k, some .k)
  | 0x103 => some (.k, some .k)
  | 0x104 => some (.k, some .k)
  | 0x105 => some (.k, some .k)
  | 0x106 => some (.k, some .k)
  | 0x107 => some (.k, some .k)
  | 0x108 => some (.k, some .k)
  | 0x109 => some (.k, some .k)
  | 0x10A => some (.k, some .k)
  | 0x200 => some (.h, some .h)
  | 0x201 => some (.h, some .h)
  | 0x202 => some (.h, some .h)
  | 0x203 => some (.h, some .h)
  | 0x204 => some (.h, some .h)
  | 0x205 => some (.h, some .h)
  | 0x206 => some (.h, some .h)
  | 0x207 => some (.h, some .h)
  | 0x208 => some (.h, some .h)
  | 0x209 => some (.h, some .h)
  | _ => none

/-! Layouts -/

/-- `status` as a word (06 R125). -/
def Status.word (x : Status) : Nat :=
  b2n x.hpie * 128 + b2n x.hie * 64 + x.hpp.num * 16 + b2n x.kpie * 8 + b2n x.kie * 4 + b2n x.kpp * 2

/-- The lower half of `status`, which level K reads and writes. -/
def Status.low (x : Status) (n : Nat) : Status := { x with kpie := bitOf n 3, kie := bitOf n 2, kpp := bitOf n 1 }

def lvlOf (n : Nat) : Lvl := if n % 4 = 0 then .u else if n % 4 = 1 then .k else .h

/-- `status` from a word; none where its fields forbid it. -/
def Status.ofWord (old : Status) (lvl : Lvl) (n : Nat) : Option Status :=
  if fld n 63 8 != 0 || bitOf n 0 then none
  else if lvl = .h then
    (if fld n 5 4 = 3 then none else some { old.low n with hpie := bitOf n 7, hie := bitOf n 6, hpp := lvlOf (fld n 5 4) })
  else some (old.low n)

/-- `rep` as a word and back (06 R128). -/
def RepCsr.word (x : RepCsr) : Nat := x.step.toNat * 65536 + x.index.toNat * 256 + x.remain.toNat

def RepCsr.ofWord (n : Nat) : Option RepCsr :=
  if fld n 63 19 != 0 || fld n 15 14 != 0 || bitOf n 7 || decide (64 < fld n 6 0) then none
  else some ⟨BitVec.ofNat 3 (fld n 18 16), BitVec.ofNat 6 (fld n 13 8), BitVec.ofNat 7 (fld n 6 0)⟩

/-- `rsdepth` (06 R130). -/
def depthWord (c : Core) : Nat := c.spilled.toNat * 65536 + c.rstack.length

/-- The entries that a write of depth leaves: the oldest, then entries that read as zero. -/
def resizeStack (l : List Addr) (n : Nat) : List Addr := l.take n ++ List.replicate (n - l.length) 0

/-- An address register: bits [47:1] (06 R126); `al` low bits must be zero. -/
def addrCsr (al n : Nat) : Option Addr := if n % 2 ^ al != 0 || 2 ^ 48 ≤ n then none else some (BitVec.ofNat 48 n)

/-- `cause` (06 R127). -/
def causeOk (n : Nat) : Bool := fld n 62 16 == 0

/-- Bits of the key slots that are retiring (05 R115). -/
def busyWord (s : State) : Nat :=
  (List.range 64).foldl (fun w i => if (s.keys.getD i KeySlot.reset).busy then w + 2 ^ i else w) 0

/-- The value of a CSR for the active core at its level. -/
def csrGet (s : State) (n : Nat) : Word :=
  let c := s.core
  let x := getX s c.ctx.toNat (clusterOf s.cur)
  let w := fun (k : Nat) => BitVec.ofNat 64 k
  match n with
  | 0x000 => w c.fflags.toNat
  | 0x001 => w c.fenable.toNat
  | 0x002 => w c.rep.word
  | 0x003 => c.sgen
  | 0x004 => w c.ssbthr.toNat
  | 0x005 => w c.ssbpol.toNat
  | 0x008 => w c.ctx.toNat
  | 0x009 => w s.cur
  | 0x00A => s.cycle
  | 0x00B => w (traceTime s (dieOf s.cur))
  | 0x00C => w c.rsp.toNat
  | 0x00D => w (depthWord c)
  | 0x100 => w (if c.priv = .h then c.status.word else c.status.word % 16)
  | 0x101 => w c.priv.num
  | 0x102 => w c.epc.toNat
  | 0x103 => c.cause
  | 0x104 => c.tval
  | 0x105 => w c.tveck.toNat
  | 0x106 => c.scratchk
  | 0x107 => w x.fbatch.toNat
  | 0x108 => w x.fquota.toNat
  | 0x109 => w x.fwater.toNat
  | 0x10A => x.trctl
  | 0x200 => w c.tvech.toNat
  | 0x201 => c.scratchh
  | 0x202 => w c.epch.toNat
  | 0x203 => c.causeh
  | 0x204 => c.tvalh
  | 0x205 => w s.fbatchh.toNat
  | 0x206 => w s.ctxtab.toNat
  | 0x207 => x.dlog
  | 0x208 => w (busyWord s)
  | 0x209 => s.trpause
  | _ => 0

def withCore (s : State) (c : Core) : State := { s with core := c }

/-- A slot starts to retire (05 R115). -/
def startRetire (s : State) (k : Nat) : State :=
  { s with keys := s.keys.insert k { s.keys.getD k KeySlot.reset with busy := true } }

/-- Does a record wait for a buffer that a write of `trpause` would pause (24 R388)? -/
def inFlight (s : State) (x : Word) : Bool :=
  s.trc.waiting.any (fun r => !isHbuf r.buf && x.getLsbD (bufCtx r.buf) && !s.trpause.getLsbD (bufCtx r.buf))

/-- A write of a CSR by the active core: none where a reserved or forbidden value breaks its layout. -/
def csrPut (s : State) (n : Nat) (v : Word) : Option State :=
  let c := s.core
  let k := v.toNat
  let ctx := c.ctx.toNat
  let cl := clusterOf s.cur
  match n with
  | 0x000 => if k < 32 then some (withCore s { c with fflags := BitVec.ofNat 5 k }) else none
  | 0x001 => if k < 32 ∧ k % 4 = 0 then some (withCore s { c with fenable := BitVec.ofNat 5 k }) else none
  | 0x002 => (RepCsr.ofWord k).map (fun r => withCore s { c with rep := r })
  | 0x003 => some (withCore s { c with sgen := v })
  | 0x004 => if k < 64 then some (withCore s { c with ssbthr := BitVec.ofNat 6 k }) else none
  | 0x005 => if k < 3 then some (withCore s { c with ssbpol := BitVec.ofNat 2 k }) else none
  | 0x00C => (addrCsr 3 k).map (fun a => withCore s { c with rsp := a })
  | 0x00D =>
    if 2 ^ 32 ≤ k ∨ fld k 15 5 ≠ 0 ∨ 16 < fld k 4 0 then none
    else some (withCore s { c with spilled := BitVec.ofNat 16 (fld k 31 16), rstack := resizeStack c.rstack (fld k 4 0) })
  | 0x100 => (c.status.ofWord c.priv k).map (fun x => withCore s { c with status := x })
  | 0x102 => (addrCsr 1 k).map (fun a => withCore s { c with epc := a })
  | 0x103 => if causeOk k then some (withCore s { c with cause := v }) else none
  | 0x104 => some (withCore s { c with tval := v })
  | 0x105 => (addrCsr 1 k).map (fun a => withCore s { c with tveck := a })
  | 0x106 => some (withCore s { c with scratchk := v })
  | 0x107 => (addrCsr 8 k).map (fun a => updX s ctx cl (fun x => { x with fbatch := a }))
  | 0x108 => if k ≤ 1024 then some (updX s ctx cl (fun x => { x with fquota := BitVec.ofNat 11 k })) else none
  | 0x109 => if k ≤ 1024 then some (updX s ctx cl (fun x => { x with fwater := BitVec.ofNat 11 k })) else none
  | 0x10A =>
    if k % 64 ≠ 0 then none
    else
      let s1 := updX s ctx cl (fun x => { x with trctl := v })
      some (forgetBuf s1 (xkey ctx cl))
  | 0x200 => (addrCsr 1 k).map (fun a => withCore s { c with tvech := a })
  | 0x201 => some (withCore s { c with scratchh := v })
  | 0x202 => (addrCsr 1 k).map (fun a => withCore s { c with epch := a })
  | 0x203 => if causeOk k then some (withCore s { c with causeh := v }) else none
  | 0x204 => some (withCore s { c with tvalh := v })
  | 0x205 => (addrCsr 8 k).map (fun a => { s with fbatchh := a })
  | 0x206 => (addrCsr 12 k).map (fun a => freshCtxs s { s with ctxtab := a })
  | 0x207 =>
    if fld k 63 48 ≠ 0 ∨ fld k 11 4 ≠ 0 ∨ 8 < fld k 3 0 then none
    else some (updX s ctx cl (fun x => { x with dlog := v }))
  | 0x208 => if k < 64 then some (startRetire s k) else none
  | 0x209 => some { s with trpause := v }
  | _ => none

/-- Does level `p` reach level `need`? -/
def lvlOk (p need : Lvl) : Bool := decide (need.num ≤ p.num)

def csrIns (op : Nat) (o : CsrOp) : Ins :=
  { Ins.of (encCsr op o) with
    la := o.la.toNat, d := o.d.toNat
    reads := fun d _ => if op = 4 then [] else regsOf .g d
    writes := fun d _ => if op = 4 then regsOf .g d else [] }

/-- `csrr` (07 R167). -/
def execCsrr (o : CsrOp) (s : State) : Outcome State Fault Refusal :=
  let x := csrIns 4 o
  issue x (fun st =>
    match csrLevels o.csr.toNat with
    | none => some (illegal x)
    | some (r, _) => if lvlOk st.core.priv r then none else some (privTrap x)) (fun d _ _ => do
    let st ← getS
    wG d (csrGet st o.csr.toNat)
    pure .seq) s

/-- What a writing form writes: `keyretire` takes its slot number (07 R167). -/
def csrNew (o : CsrOp) (f : Word → Word → Word) (st : State) : Word :=
  let a := st.core.getG o.d.toNat
  if o.csr = 0x208 then a else f (csrGet st o.csr.toNat) a

/-- What the task's earlier instructions leave outstanding completes (07 R168). -/
def landAll (s : State) : State := flushXsts { s with core := s.core.landWins } s.cur

/-- A writing form: it issues after every outstanding instruction (07 R168); existence, level, value (07 R167), then the
write. One of `trpause` waits for the records in flight (24 R388). -/
def csrWrite (op : Nat) (o : CsrOp) (f : Word → Word → Word) (s : State) : Outcome State Fault Refusal :=
  let x := csrIns op o
  issue x (fun st =>
    match csrLevels o.csr.toNat with
    | none => some (illegal x)
    | some (_, none) => some (illegal x)
    | some (_, some w) =>
      if !lvlOk st.core.priv w then some (privTrap x)
      else if (csrPut st o.csr.toNat (csrNew o f st)).isSome || !st.core.knows (regsOf .g o.d.toNat) then none else some (illegal x)) (fun _ _ _ => do
    let st ← getS
    if o.csr == 0x209 && inFlight st (csrNew o f st) then holdIssue
    else
      match csrPut st o.csr.toNat (csrNew o f st) with
      | none => raise (illegal x)
      | some st' => do
        modS (fun _ => st')
        pure .seq) (landAll s)

/-- `csrw` (07 R167). -/
def execCsrw (o : CsrOp) (s : State) : Outcome State Fault Refusal := csrWrite 5 o (fun _ a => a) s
/-- `csrs` (07 R167). -/
def execCsrs (o : CsrOp) (s : State) : Outcome State Fault Refusal := csrWrite 6 o (fun old a => old ||| a) s
/-- `csrc` (07 R167). -/
def execCsrc (o : CsrOp) (s : State) : Outcome State Fault Refusal := csrWrite 7 o (fun old a => old &&& ~~~a) s

/-- A write of `keyretire` (05 R115). -/
def execKeyretireWrite (k : BitVec 6) (s : State) : Outcome State Fault Refusal := .next (startRetire s k.toNat)

/-- A slot has retired (05 R115): the lines that carry it have left every L1 and slice, stores that have not been performed under it
never are (05 R114, 06 R132), and the slot is invalid. -/
def execKeyRetireDone (k : BitVec 6) (s : State) : Outcome State Fault Refusal :=
  let e := s.keys.getD k.toNat KeySlot.reset
  if e.busy then
    let drop := fun (c : Core) => { c with l1 := c.l1.filter (fun t => t.slot != k.toNat) }
    let s1 := (listedCores s).foldl (fun st p => drainSome st p.1 (fun w => w.slot == some k.toNat)) s
    .next { s1 with
      keys := s1.keys.insert k.toNat { e with busy := false, valid := false }
      slices := s1.slices.filter (fun e => e.slot != k.toNat)
      core := drop s1.core
      others := s1.others.map (fun p => (p.1, drop p.2)) }
  else .next s

/-- A write of `trpause` (24 R388), once no record is in flight. -/
def execTrpauseWrite (x : BitVec 64) (s : State) : Outcome State Fault Refusal :=
  .next (if inFlight s x then s else { s with trpause := x })

end Sys2Proof.Machine
end

