-- ==== Sys2Proof/Machine/Frame.lean ====
section
/-!
DEFINITION. What a task's core holds: first dispatch (04 R92 to R94), frames (06 R140 to R142), parks and pre-emptions
(10 R209, 04 R97, R98), and cycle reports (10 R226, R227).
-/
namespace Sys2Proof.Machine

open Host (Outcome)

/-! Runs of bytes in a context's areas (06 R140) -/

def devLoc (v ctx va acc : Nat) : M Loc := do
  let r ← liftS (fun s => useRec s ctx)
  let l ← pagedTo ⟨v, ctx, .k⟩ r va acc
  let s ← getS
  if l.place == .remote then raise (accTrap va false 6)
  else if acc % 2 == 1 && eccHit s l.at_ 1 then raise (accTrap va false 20) else pure l

/-- One piece of a run, inside one line. -/
def devPut (v ctx x : Nat) (bytes : List Byte) : M Unit := do
  let l ← devLoc v ctx (x % 2 ^ 48) 2
  logWrite ⟨v, ctx, .k⟩ l
  modS (fun s => homeWrite s none l.kv l.at_ bytes)

/-- Write bytes of a frame until a cause. -/
def devPuts (v ctx va : Nat) (bytes : List Byte) : List (Nat × Nat) → State → Option Trap × State
  | [], s => (none, s)
  | (x, n) :: r, s =>
    match devPut v ctx x ((bytes.drop (x - va)).take n) s with
    | .error t => (some t, s)
    | .ok (_, s') => devPuts v ctx va bytes r s'

def devGetAt (v ctx : Nat) : List (Nat × Nat) → M (List Byte)
  | [] => pure []
  | (x, n) :: r => do
    let l ← devLoc v ctx x 1
    let s ← getS
    let rest ← devGetAt v ctx r
    pure (homeRead s l.kv l.at_ n ++ rest)

/-- Read bytes of a frame. -/
def devGet (v ctx va n : Nat) : M (List Byte) := devGetAt v ctx (vaPieces va n)

/-- Where the frame of the task that runs under on-chip entry `k` = cluster * 1024 + slot lies. -/
def CtxBlk.frame (b : CtxBlk) (k : Nat) : Nat := (b.park + 0x5A000 * k) % 2 ^ 48

/-! The frame (06 R141) -/

def dwords (l : List Nat) : List Byte := l.flatMap (leBytes 8)

def csrFrame (c : Core) : List Nat :=
  [c.fflags.toNat, c.fenable.toNat, c.rep.word, c.sgen.toNat, c.ssbthr.toNat, c.ssbpol.toNat, c.priv.num, c.status.word % 16,
   c.epc.toNat, c.cause.toNat, c.tval.toNat, c.scratchk.toNat, c.rsp.toNat, depthWord c, 0, 0]

def stackFrame (c : Core) : List Nat := (c.rstack.map (fun a => a.toNat)) ++ List.replicate (16 - c.rstack.length) 0

def barFrame (b : Barrier) : List Nat := [b2n b.arrived + 16 * b.sub, b.payload.toNat, b.epoch.toNat, 0, 0, 0, 0, 0]

def arrFrame (a : ArrState) : List Nat :=
  [a.rowP.toNat + 2 ^ 32 * a.colP.toNat,
   a.kP.toNat + 2 ^ 32 * (b2n a.acc0.ovf + 2 * b2n a.acc1.ovf + 4 * b2n a.acc0.anch + 8 * b2n a.acc1.anch),
   wrapN 64 a.acc0.eacc, wrapN 64 a.acc1.eacc, a.wb0.desc.toNat, a.wb1.desc.toNat, a.wb2.desc.toNat, a.wb3.desc.toNat]

def cellsFrame (x : AccSet) : List Byte := (List.range 1024).flatMap (fun n => leBytes 16 (x.cells.getD n Cell.zero).value.toNat)
def specFrame (x : AccSet) : List Byte :=
  leBytes 256 ((List.range 1024).foldl (fun t n => t + (x.cells.getD n Cell.zero).spec.toNat * 4 ^ n) 0)
def rcorrFrame (x : AccSet) : List Byte := (List.range 32).flatMap (fun i => leBytes 16 (x.row i).toNat)

/-- Where the task goes on: after a `tyield`, else at its pc. -/
def resumePc (c : Core) : Addr :=
  match c.wait with
  | .yield n => addrPlus c.pc n
  | _ => c.pc

/-- The parts of a frame: offset and bytes. A park writes the declared g and v registers only. -/
def frameParts (s : State) (v : Nat) (parked : Bool) (ty : TaskType) (g : Gang) (m : Member) : List (Nat × List Byte) :=
  let c := getCore s v
  let ng := if parked then ty.gregs else 64
  let nv := if parked then ty.vregs else 32
  [(0, dwords [g.dw0.toNat, (resumePc c).toNat, m.fut.toNat, g.size * 256 + m.rank, b2n ty.arr + 2 * b2n c.ssb.isSome + 4 * b2n parked,
      1024 * ty.store, 0, 0]),
   (0x40, dwords ((List.range ng).map (fun n => (c.getG n).toNat))),
   (0x240, dwords ((List.range 8).map (fun n => (c.getK n).toNat))),
   (0x280, dwords (csrFrame c)), (0x300, dwords (stackFrame c)), (0x380, dwords (barFrame c.bar)),
   (0x400, (List.range nv).flatMap (fun n => leBytes 64 (c.getV n).toNat))] ++
  (if ty.arr then
    [(0x3C0, dwords (arrFrame c.arr)),
     (0xC00, leBytes 32 c.arr.cb0.toNat ++ leBytes 32 c.arr.cb1.toNat ++ leBytes 32 c.arr.cb2.toNat ++ leBytes 32 c.arr.cb3.toNat),
     (0xC80, rcorrFrame c.arr.acc0 ++ rcorrFrame c.arr.acc1), (0x1080, specFrame c.arr.acc0 ++ specFrame c.arr.acc1),
     (0x1280, zeros 3456), (0x2000, cellsFrame c.arr.acc0), (0xA000, cellsFrame c.arr.acc1)]
   else []) ++
  [(0x12000, memRead s.mem (bankAt v c.live 0) 32768), (0x1A000, memRead s.mem (bankAt v (!c.live) 0) 32768),
   (0x22000, memRead s.mem (coreStoreAt v 0) (1024 * ty.store))]

def putParts (v ctx base : Nat) : List (Nat × List Byte) → State → Option Trap × State
  | [], s => (none, s)
  | (o, b) :: r, s =>
    match devPuts v ctx (base + o) b (linePieces (base + o) b.length) s with
    | (some t, s') => (some t, s')
    | (none, s') => putParts v ctx base r s'

/-- Save one member (06 R140): where a write would fault, cause 22 with the frame's address; what has been written stays. -/
def saveMember (parked : Bool) (g : Gang) (m : Member) (v : Nat) (s : State) : Option Trap × State :=
  let s1 := flushXsts (drainCore s v) v
  let ty := g.ty.getD ⟨0, false, false, 0, 1, 0, 0, 0, []⟩
  match ctxBlock g.ctx s1 with
  | .error _ => (some { code := 22 }, s1)
  | .ok (b, s2) =>
    let base := b.frame (m.slot.getD 0)
    match putParts v g.ctx base (frameParts s2 v parked ty g m) s2 with
    | (none, s3) => (none, s3)
    | (some t, s3) => (some (if t.code = 23 then { t with toH := true } else { code := 22, tval := BitVec.ofNat 64 base }), s3)

/-- Members that have not ended, with their cores. -/
def Gang.onCores (g : Gang) : List (Member × Nat) :=
  g.members.filterMap (fun m => if m.ended then none else m.core.map (fun v => (m, v)))

/-- Save members in turn: the core and the cause of the first that fails. -/
def saveAll (parked : Bool) (g : Gang) : List (Member × Nat) → State → Option (Nat × Trap) × State
  | [], s => (none, s)
  | (m, v) :: r, s =>
    match saveMember parked g m v s with
    | (some t, s') => (some (v, t), s')
    | (none, s') => saveAll parked g r s'

/-! Leaving the cores -/

/-- A core whose task has left it. -/
def Core.vacate (c : Core) : Core :=
  { c with
    mode := if c.mode = .run ∨ c.mode = .irq then .idle else c.mode, task := none, wait := .none, cont := none, afterRett := false, skipBkpt := false
    retouch := false, ssb := none, wins := [], arr := .reset, halted := false, bar := ⟨false, 0, 0, 0, 0⟩
    pend := { c.pend with preempt := false, halt := false } }

def isPark : Wait → Bool
  | .park _ => true
  | _ => false

/-- Tiles of a member and of the gang go to 0x0A (04 R88). -/
def holdTiles (s : State) (g : Gang) (cl : Nat) : State × List HeldTile :=
  let anchor := (g.anchor.bind (fun m => m.core)).map (fun v => 16 + v % 8)
  let cores := g.onCores.map (fun p => (p.2 % 8, p.1.rank))
  let mine := ((getCl s cl).owners).filterMap (fun p =>
    if some p.2 = anchor then some (⟨p.1, none⟩ : HeldTile)
    else (cores.find? (fun q => q.1 == p.2)).map (fun q => ⟨p.1, some q.2⟩))
  (mine.foldl (fun st t => setOwner st cl t.tile 10) s, mine)

/-- The gang leaves its cores (04 R98): kind 1 a park, 2 a pre-emption, 3 a yield. -/
def leaveCores (s : State) (gid kind : Nat) : State :=
  match gangOf s gid with
  | none => s
  | some g =>
    match g.cluster with
    | none => s
    | some cl =>
      let on := g.onCores
      let s0 := on.foldl (fun st p =>
        if kind = 1 then emit st p.2 g.ctx 0x83 1 0 0 (some (p.1.fut.toNat, g.touched.toNat))
        else emit st p.2 g.ctx 0x06 1 0 (kind % 2 |> fun b => if b = 0 then 1 else 0) none) s
      let q := holdTiles s0 g cl
      let scans := on.filterMap (fun p => ((getCore s p.2).ssb).map (fun x => (p.1.rank, x)))
      let ms := g.members.map (fun m =>
        match (if m.ended then none else m.core) with
        | none => m
        | some v =>
          let c := getCore s v
          { m with core := none, consult := c.afterRett, touch := isPark c.wait, barPc := c.bar.pc,
                   slots := [c.arr.wb0, c.arr.wb1, c.arr.wb2, c.arr.wb3] })
      let s1 := on.foldl (fun st p => updCore st p.2 Core.vacate) q.1
      let s2 := updGang s1 gid (fun x =>
        { x with members := ms, held := x.held ++ q.2, hadScan := scans, stopping := 0, parked := kind != 2,
                 st := if kind = 1 then .parked else .preempted, touched := if kind = 1 then x.touched else 0 })
      if kind = 1 then s2 else joinQueue s2 gid

/-! What a park or a pre-emption waits for (16 R309, 18 R328) -/

def inStore (p : Word) : Bool := isWin (ptrVa p) && winOf (ptrVa p) == 1

/-- Does a request touch its issuer's core store? -/
def Copy.touchesStore (q : Copy) : Bool := (q.op == 0 && inStore q.dst) || (decide (q.op ≤ 3) && inStore q.src)

/-- Requests of a gang's tasks that touch a core store. -/
def storeCopies (s : State) (g : Gang) : Bool :=
  match g.cluster with
  | none => false
  | some cl => (getCl s cl).copies.any (fun q => q.touchesStore && (match q.task with | some r => r.gid == g.gid | none => false))

/-- A scan of the gang runs. -/
def gangScans (s : State) (g : Gang) : Bool := g.onCores.any (fun p => (getCore s p.2).ssb.isSome)

/-! Reports (10 R226, R227) -/

/-- A report of the synchronisation engine: kind 1 stall, 2 cycle. The engine is that of die 0 (DESIGN CHOICE, log 95: the
spec does not say which of the two). -/
def report (s : State) (ctx kind : Nat) (hs : List Nat) : State :=
  let s1 := updCtx s ctx (fun c => { c with reports := c.reports + 1 })
  let words := [hs.length * 2 ^ 40 + kind * 2 ^ 32 + (getCtx s1 ctx).reports.toNat, traceTime s1 0 % 2 ^ 64] ++ hs
  let s2 := devEvent ctx (.report ctx (words ++ List.replicate (512 - words.length) 0)) s1
  let s3 := emit s2 648 ctx 0x14 8 1 kind none
  postIntr s3 (irqCore s3 ctx) ⟨24, 0, BitVec.ofNat 64 ctx, ctx, .k⟩

/-- The chain of touched futures from `h`: the entries met, where it comes back to `own` within the fuel. -/
def chainFrom (own : Word) : Nat → Word → M (Option (List Entry))
  | 0, _ => pure none
  | f + 1, h => do
    let s ← getS
    if hNode h != ownNode s then pure none
    else do
      let r ← findEntry h
      match r with
      | none => pure none
      | some (_, e) =>
        if h = own then pure (some [e])
        else if e.kind != 0 then pure none
        else
          match s.gangs.find? (fun g => g.members.any (fun m => m.fut == h)) with
          | none => pure none
          | some g =>
            if g.st == .parked then do
              let l ← chainFrom own f g.touched
              pure (l.map (fun t => e :: t))
            else pure none

/-- Rotate a list so that it starts at its entry of the least sequence. -/
def fromLeast (l : List Entry) : List Entry :=
  match l with
  | [] => []
  | e :: r =>
    let m := r.foldl (fun a x => minN a x.seq) e.seq
    let i := (l.findIdx? (fun x => x.seq == m)).getD 0
    l.drop i ++ l.take i

/-- At a park the chain of touched futures is followed. -/
def cycleCheck (s : State) (gid : Nat) : State :=
  match gangOf s gid with
  | none => s
  | some g =>
    match g.members.head? with
    | none => s
    | some m =>
      if m.fut = 0 then s
      else
        match chainFrom m.fut 64 g.touched s with
        | .ok (some l, _) => report s g.ctx 2 ((fromLeast l).map (fun e => e.handle.toNat))
        | _ => s

/-- A parked gang whose wake has come already is ready again. -/
def wakeIfDone (s : State) (gid : Nat) : State :=
  match gangOf s gid with
  | none => s
  | some g => if g.st == .parked && !(s.waits.any (fun w => w.h == g.touched && g.members.any (fun m => m.slot == some (w.ref % 65536)))) then joinQueue s gid else s

/-! The save of a gang (04 R98, 10 R209, 11 R243) -/

/-- Has a core stopped for its gang's save? -/
def stopped : Wait → Bool
  | .stopped => true
  | .park _ => true
  | .yield _ => true
  | _ => false

/-- Has every member stopped for the save, without a record that waits, and have its stores been performed (23 R374)? -/
def allStopped (s : State) (g : Gang) : Bool :=
  g.stopping != 0 && g.onCores.all (fun p =>
    stopped (getCore s p.2).wait && !(getCore s p.2).halted && !stalledSrc s p.2 && !storesOut s p.2 none)

/-- Can the gang be saved: every member has stopped, and nothing runs that the save waits for? A park waits for scans to
finish, a pre-emption for their chunks (16 R308, R309). -/
def savable (s : State) (g : Gang) : Bool :=
  allStopped s g && !storeCopies s g &&
  g.onCores.all (fun p => match (getCore s p.2).ssb with
    | none => true
    | some q => g.stopping == 2 && q.stop == 2)

/-- Scans of a gang whose members have all stopped for a pre-emption are asked to stop at the end of their chunks. -/
def askScans (s : State) (g : Gang) : State :=
  if g.stopping == 2 && allStopped s g then
    g.onCores.foldl (fun st p => updCore st p.2 (fun c => { c with ssb := c.ssb.map Scan.ask })) s
  else s

/-- Scans that have stopped go on. -/
def goOnScans (s : State) (g : Gang) : State :=
  g.onCores.foldl (fun st p => match (getCore st p.2).ssb with
    | some q => scanResume st p.2 q
    | none => st) s

/-- The core of the member that parks or yields. -/
def stopper (s : State) (g : Gang) : Option Nat :=
  (g.onCores.find? (fun p => match (getCore s p.2).wait with | .park h => h == g.touched | .yield _ => true | _ => false)).map (fun p => p.2)

/-- The save failed: nothing moves; the cause goes to the `touch` or `tyield`, or to the pre-empted task (06 R140). -/
def saveFailed (s : State) (g : Gang) (v : Nat) (t : Trap) : State :=
  let w := if g.stopping = 2 then v else (stopper s g).getD v
  let ref := fun (x : Waiter) => x.h == g.touched && g.members.any (fun m => m.core == some w && m.slot == some (x.ref % 65536))
  let s1 := if g.stopping = 1 then unlist s ref else s
  let s2 := updGang s1 g.gid (fun x => { x with stopping := 0, touched := 0 })
  let s3 := g.onCores.foldl (fun st p => updCore st p.2 (fun c =>
    { c with wait := if p.2 = w then c.wait else .none, pend := { c.pend with preempt := false } })) (goOnScans s2 g)
  asCore s3 w (fun st => takeTrap st 0 t)

/-- Save the gang and take it off its cores, once it can be; a pre-emption that has begun is never given up: where the dirty log
is full it waits for room (04 R98, 05 R112). -/
def gangSave (s : State) (gid : Nat) : State :=
  match gangOf s gid with
  | none => s
  | some g =>
    if !savable s g || s.dirtyHeld.contains (74, gid) then askScans s g
    else
      -- what each member has sent stands in its receiver's bank before the first frame is written (04 R98)
      let s0 := g.onCores.foldl (fun st p => flushXsts (drainCore st p.2) p.2) s
      match saveAll (g.stopping != 2) g g.onCores s0 with
      | (some (v, t), s1) =>
        if t.code = 23 ∧ g.stopping = 2 then { postExit s1 v g.ctx t.tval with dirtyHeld := s1.dirtyHeld ++ [(74, gid)] }
        else saveFailed s1 g v t
      | (none, s1) =>
        let s2 := leaveCores s1 gid g.stopping
        if g.stopping = 1 then wakeIfDone (cycleCheck s2 gid) gid else s2

/-- A gang begins to stop; every other member stops at its next boundary that admits it. -/
def beginStop (s : State) (g : Gang) (v kind : Nat) (h : Word) : State :=
  if g.stopping != 0 then s
  else
    let s1 := updGang s g.gid (fun x => { x with stopping := kind, touched := h })
    g.onCores.foldl (fun st p => if p.2 = v then st else updCore st p.2 (fun c => { c with pend := { c.pend with preempt := true } })) s1

/-! First dispatch (04 R92 to R94) -/

/-- Clear flat addresses from `lo` on, below `hi`; fetch buffers that hold one of them are emptied. -/
def clearMem (s : State) (lo hi : Nat) : State :=
  let drop := fun (c : Core) => match c.fbuf.block with
    | some b => if lo ≤ 64 * b + 63 ∧ 64 * b < hi then { c with fbuf := .empty } else c
    | none => c
  { s with
    mem := s.mem.filter (fun p => decide (p.1 < lo) || decide (hi ≤ p.1))
    core := drop s.core
    others := s.others.map (fun p => (p.1, drop p.2)) }

/-- Core store above a task's region: of each byte what stands there, or zero; zero after another context's task, and on a core where anything
but a task of this context has run since, or no task ever has (04 R94, log 4). -/
def aboveRegion (s : State) (v ctx : Nat) (demand : Nat) : State :=
  let lo := coreStoreAt v (1024 * demand)
  let hi := coreStoreAt v 0x38000
  let s1 := clearMem s lo hi
  if (getCore s v).lastCtx ≠ some (BitVec.ofNat 6 ctx) ∨ s1.mem = s.mem then s1
  else
    { s1 with
      mem := s.mem.filter (fun p => decide (p.1 < lo) || decide (hi ≤ p.1) || Config.choose (s.fresh + (p.1 - lo)) % 2 == 0)
      fresh := s.fresh + (hi - lo) }

/-- g8 to g11. -/
def tileWindow (t : Nat) : Nat := winBase + 4096 * t
def argWindow (g : Gang) (m : Member) (k : Nat) : Nat :=
  match m.tiles.find? (fun t => t.arg == k) with
  | some t => tileWindow t.tile
  | none => if k = 0 then g.contTile.getD 0 else 0

/-- The registers of a task at its first dispatch. -/
def firstG (g : Gang) (m : Member) (ty : TaskType) (n : Nat) : Word :=
  match n with
  | 1 => m.fut
  | 2 => BitVec.ofNat 64 (storeBase + 1024 * ty.store)
  | 3 => g.dw0
  | 4 => g.arg0
  | 5 => g.arg1
  | 6 => BitVec.ofNat 64 (g.size * 256 + m.rank)
  | 7 => BitVec.ofNat 64 (g.dw0.toNat / 65536)
  | 8 => BitVec.ofNat 64 (argWindow g m 0)
  | 9 => BitVec.ofNat 64 (argWindow g m 1)
  | 10 => BitVec.ofNat 64 (argWindow g m 2)
  | 11 => BitVec.ofNat 64 (argWindow g m 3)
  | _ => 0

/-- The job seed that a task starts from (03 R74). -/
def seedOf (s : State) (g : Gang) : Word :=
  match g.grid with
  | none => (getCtx s g.ctx).seed
  | some id => ((s.grids.find? (fun x => x.id == id)).map (fun x => x.packet.getD 3 0)).getD 0

/-- The state of a core that takes a task for the first time; the K half of `status` is as at reset (DESIGN CHOICE, log 59). -/
def Core.start (c : Core) (g : Gang) (m : Member) (ty : TaskType) (sgen : Word) : Core :=
  { invalL1 c with
    mode := .run, pc := ty.entry, g := Vector.ofFn (fun i : Fin 64 => firstG g m ty i.val), v := Vector.replicate 32 0, k := Vector.replicate 8 0
    fflags := 0, fenable := 0, rep := ⟨0, 0, 0⟩, sgen := sgen, ssbthr := 16, ssbpol := 0, rstack := [], rsp := BitVec.ofNat 48 storeBase
    spilled := 0, ctx := BitVec.ofNat 6 g.ctx, lastCtx := some (BitVec.ofNat 6 g.ctx), status := c.status.low 0, priv := .u, afterRett := false, skipBkpt := false, cont := none
    task := some ⟨g.gid, m.rank⟩, wait := .none, halted := false, retouch := false, pend := { c.pend with preempt := false, halt := false }
    bar := ⟨false, 0, 0, 0, 0⟩, live := false, arr := .reset, ssb := none, wins := [] }

/-- First dispatch of a member to core `v`. -/
def startMember (s : State) (g : Gang) (m : Member) (v : Nat) : State :=
  match g.ty with
  | none => s
  | some ty =>
    let s1 := clearMem (aboveRegion s v g.ctx ty.store) (coreStoreAt v 0) (coreStoreAt v (1024 * ty.store))
    let s2 := clearMem s1 (bankAt v false 0) (bankAt v true 32768)
    updCore s2 v (fun c => c.start g m ty (seedOf s g ^^^ BitVec.ofNat 64 (v * 0x9E3779B97F4A7C15)))

/-! Resume (06 R140, R142) -/

def accFromFrame (cells spec rc : List Byte) (eacc : Int) (anch ovf : Bool) : AccSet :=
  let sp := ofLe spec
  { cells := packCells ((List.range 1024).zip (chunks 16 cells) |>.map (fun p =>
      (p.1, (⟨BitVec.ofNat 128 (ofLe p.2), BitVec.ofNat 2 (sp / 4 ^ p.1)⟩ : Cell))))
    eacc := eacc, anch := anch, ovf := ovf
    rcorr := ((List.range 32).zip (chunks 16 rc)).map (fun p => (p.1, BitVec.ofNat 128 (ofLe p.2))) |>.filter (fun p => p.2 != 0) }

def panelGet (a : Agent) : List (Nat × Nat) → M (List Byte)
  | [] => pure []
  | (va, n) :: r => do
    let l ← translate a va 1
    checkTile a va l
    if l.place == .remote then raise { code := 255 } else pure ()
    let s ← getS
    guardT (!eccHit s l.at_ n) (accTrap va false 20)
    let rest ← panelGet a r
    pure (homeRead s l.kv l.at_ n ++ rest)

/-- Load a slot again from its descriptor (06 R142): either contents where the panel has changed; a panel on another node
keeps its bytes; a cause leaves the slot empty. It is read at level U, whatever level the task resumes at (DESIGN CHOICE, log 99). -/
def reloadSlot (v ctx : Nat) (d : Nat) (old : WbSlot) (cb : BitVec 256) : M WbSlot := do
  let w : WbSlot := ⟨BitVec.ofNat 64 d, [], if fld d 63 58 = 13 then cb else 0, 0⟩
  if !w.valid then pure { w with cb := 0 }
  else do
    let va := fld d 47 6 * 64
    let r ← tryM (panelGet ⟨v, ctx, .u⟩ (vaPieces va (panelBytes w.fmt w.lbl (w.nblk + 1))))
    match r with
    | .ok b => do
      let x ← liftS (fun s => pickOf s b (if b = old.bytes then [b] else [old.bytes, b]))
      pure { w with bytes := x, nan := if x = b then 0 else old.nan }
    | .error t => if t.code = 255 then pure { w with bytes := old.bytes, nan := old.nan } else pure WbSlot.reset

/-- The slots of core `v` are loaded again, from the panels that its task can reach there now. -/
def reloadSlots (g : Gang) (m : Member) (v : Nat) : M Unit := do
  let s ← getS
  let a := (getCore s v).arr
  let reg := fun (d : Word) => match fld d.toNat 5 4 with | 0 => a.cb0 | 1 => a.cb1 | 2 => a.cb2 | _ => a.cb3
  let slot := fun (n : Nat) (w : WbSlot) => reloadSlot v g.ctx w.desc.toNat (m.slots.getD n WbSlot.reset) (reg w.desc)
  let w0 ← slot 0 a.wb0
  let w1 ← slot 1 a.wb1
  let w2 ← slot 2 a.wb2
  let w3 ← slot 3 a.wb3
  modS (fun s => updCore s v (fun c => { c with arr := { c.arr with wb0 := w0, wb1 := w1, wb2 := w2, wb3 := w3 } }))

/-- The array state of a frame; of the slots, the descriptors. -/
def arrFromFrame (v ctx base : Nat) : M ArrState := do
  let c ← devGet v ctx (base + 0x3C0) 64
  let cb ← devGet v ctx (base + 0xC00) 128
  let rc ← devGet v ctx (base + 0xC80) 1024
  let sp ← devGet v ctx (base + 0x1080) 512
  let a0 ← devGet v ctx (base + 0x2000) 32768
  let a1 ← devGet v ctx (base + 0xA000) 32768
  let d := dword (ofLe c)
  let reg := fun (n : Nat) => BitVec.ofNat 256 (ofLe ((cb.drop (32 * n)).take 32))
  let slot := fun (n : Nat) => { WbSlot.reset with desc := BitVec.ofNat 64 (d (4 + n)) }
  pure ⟨accFromFrame a0 (sp.take 256) (rc.take 512) (sextI (d 2) 64) (bitOf (d 1) 34) (bitOf (d 1) 32),
    accFromFrame a1 (sp.drop 256) (rc.drop 512) (sextI (d 3) 64) (bitOf (d 1) 35) (bitOf (d 1) 33),
    slot 0, slot 1, slot 2, slot 3, reg 0, reg 1, reg 2, reg 3, BitVec.ofNat 32 (d 0), BitVec.ofNat 32 (d 0 / 2 ^ 32), BitVec.ofNat 32 (d 1)⟩

/-- The saved registers of a member, put onto core `v`. -/
def loadMember (g : Gang) (m : Member) (v : Nat) : M Unit := do
  let ty := g.ty.getD ⟨0, false, false, 0, 1, 0, 0, 0, []⟩
  let b ← ctxBlock g.ctx
  let base := b.frame (m.slot.getD 0)
  let get := fun (o n : Nat) => devGet v g.ctx (base + o) n
  let ng := if g.parked then ty.gregs else 64
  let nv := if g.parked then ty.vregs else 32
  let hd ← get 0 64
  let gs ← get 0x40 (8 * ng)
  let ks ← get 0x240 64
  let cs ← get 0x280 128
  let rs ← get 0x300 128
  let bs ← get 0x380 64
  let vs ← get 0x400 (64 * nv)
  let arr ← if ty.arr then arrFromFrame v g.ctx base else pure ArrState.reset
  let live ← get 0x12000 32768
  let shadow ← get 0x1A000 32768
  let region ← get 0x22000 (1024 * ty.store)
  modS (fun s => aboveRegion s v g.ctx ty.store)
  modS (fun s => homeWrite s none 0 (coreStoreAt v 0) region)
  modS (fun s => homeWrite s none 0 (bankAt v false 0) live)
  modS (fun s => homeWrite s none 0 (bankAt v true 0) shadow)
  let gw := fun (i : Nat) => if i = 0 ∨ ng ≤ i then (0 : Word) else BitVec.ofNat 64 (ofLe ((gs.drop (8 * i)).take 8))
  let vw := fun (i : Nat) => if nv ≤ i then (0 : VReg) else BitVec.ofNat 512 (ofLe ((vs.drop (64 * i)).take 64))
  let kw := fun (i : Nat) => if i = 0 then (0 : Word) else BitVec.ofNat 64 (ofLe ((ks.drop (8 * i)).take 8))
  let d := fun (i : Nat) => ofLe ((cs.drop (8 * i)).take 8)
  let stack := (List.range (minN (d 13 % 32) 16)).map (fun i => BitVec.ofNat 48 (ofLe ((rs.drop (8 * i)).take 8)))
  let bar := dword (ofLe bs)
  modS (fun s => updCore s v (fun c =>
    { invalL1 c with
      mode := .run, pc := BitVec.ofNat 48 (dword (ofLe hd) 1)
      g := Vector.ofFn (fun i : Fin 64 => gw i.val), v := Vector.ofFn (fun i : Fin 32 => vw i.val), k := Vector.ofFn (fun i : Fin 8 => kw i.val)
      fflags := BitVec.ofNat 5 (d 0), fenable := BitVec.ofNat 5 (d 1 / 4 * 4), rep := (RepCsr.ofWord (d 2)).getD ⟨0, 0, 0⟩
      sgen := BitVec.ofNat 64 (d 3), ssbthr := BitVec.ofNat 6 (d 4), ssbpol := BitVec.ofNat 2 (d 5)
      priv := if d 6 = 1 then .k else .u, status := c.status.low (d 7), epc := BitVec.ofNat 48 (d 8), cause := BitVec.ofNat 64 (d 9)
      tval := BitVec.ofNat 64 (d 10), scratchk := BitVec.ofNat 64 (d 11), rsp := BitVec.ofNat 48 (d 12)
      spilled := BitVec.ofNat 16 (d 13 / 65536), rstack := stack, ctx := BitVec.ofNat 6 g.ctx
      afterRett := m.consult, skipBkpt := m.touch, retouch := m.touch, cont := none, task := some ⟨g.gid, m.rank⟩, wait := .none
      halted := false, pend := { c.pend with preempt := false, halt := false }
      bar := ⟨bitOf (bar 0) 0, m.barPc, fld (bar 0) 7 4, BitVec.ofNat 64 (bar 1), BitVec.ofNat 64 (bar 2)⟩
      live := false, arr := arr, ssb := none, wins := [], lastCtx := some (BitVec.ofNat 6 g.ctx) }))

def loadAll (g : Gang) : List (Member × Nat) → M Unit
  | [] => pure ()
  | (m, v) :: r => do
    loadMember g m v
    loadAll g r

/-- Held tiles go back to the ranks' new cores, and to the anchor's for what the gang shared (04 R88). -/
def giveBack (s : State) (g : Gang) (cl : Nat) (on : List (Member × Nat)) : State :=
  let core := fun (r : Nat) => (on.find? (fun p => p.1.rank == r)).map (fun p => p.2 % 8)
  g.held.foldl (fun st t =>
    match t.rank with
    | some r => (match core r with | some n => setOwner st cl t.tile n | none => st)
    | none => (match on.head? with | some p => setOwner st cl t.tile (16 + p.2 % 8) | none => st)) s

/-- A member's entry finishes, the task's reference is released, and its grid is told (10 R208, R214). -/
def finishMember (s : State) (g : Gang) (m : Member) (st : FtState) (code : Nat) (value : Word) : State :=
  let s1 :=
    match m.slot.bind (fun k => (getCl s (k / 1024)).ft.find? (k % 1024)) with
    | none => s
    | some e => devEvent g.ctx (.ended e.handle st value code) (hears s (576 + hHome e.handle) (576 + g.cluster.getD g.home))
  gangDone (updMember (tellGrid s1 g st code) g.gid m.rank (fun x => { x with ended := true, writing := false })) g.gid

/-- A frame could not be read (06 R140): no member resumes. -/
def resumeFail (s : State) (g : Gang) (cl code : Nat) : State :=
  let s1 := g.held.foldl (fun st t => freeTile st cl t.tile) s
  let s2 := g.hadScan.foldl (fun st p => devEvent g.ctx (.finish p.2.handle .poisoned 0 code) st) s1
  (g.members.filter (fun m => !m.ended)).foldl (fun st m => finishMember st g m .poisoned code 0) (updGang s2 g.gid (fun x => { x with held := [] }))

/-- A saved gang resumes on its new cores. -/
def resumeGang (s : State) (g : Gang) (cl : Nat) (on : List (Member × Nat)) : State :=
  match loadAll g on s with
  | .error t => resumeFail s g cl t.code
  | .ok (_, s1) =>
    let s2 := giveBack s1 g cl on
    let s3 := updGang s2 g.gid (fun x =>
      { x with st := .running, held := [], hadScan := [], touched := 0,
               members := x.members.map (fun m => match on.find? (fun p => p.1.rank == m.rank) with
                 | some p => { m with core := some p.2, consult := false, touch := false }
                 | none => m) })
    let s4 := on.foldl (fun st p =>
      match (if (g.ty.map (fun t => t.arr)) = some true then reloadSlots g p.1 p.2 st else .ok ((), st)) with
      | .ok (_, st1) => st1
      | .error _ => st) s3
    g.hadScan.foldl (fun st p =>
      match on.find? (fun q => q.1.rank == p.1) with
      | some q => scanResume st q.2 p.2
      | none => st) s4

end Sys2Proof.Machine
end

