-- ==== Sys2Proof/Machine/Maint.lean ====
section
/-!
DEFINITION. Cache and translation maintenance: `cflush` and `tlbi` (07 R169, R170).
-/
namespace Sys2Proof.Machine

open Host (Outcome)

def sysIns (op sub : Nat) (o : SysOp) (reads writes : List RegId) : Ins :=
  { Ins.of (encSys op sub o) with la := o.la.toNat, d := o.d.toNat, reads := fun _ _ => reads, writes := fun _ _ => writes }

/-- `cflush.l1` (07 R169). -/
def execCflushL1 (o : SysOp) (s : State) : Outcome State Fault Refusal :=
  issue (sysIns 10 0 o [] []) noPre (fun _ _ _ => do
    modC invalL1
    pure .seq) s

/-- `cflush.line` (07 R169): a window address has no effect. -/
def execCflushLine (o : SysOp) (s : State) : Outcome State Fault Refusal :=
  issue (sysIns 10 1 o (regsOf .g o.s.toNat) []) noPre (fun _ _ _ => do
    let p ← rG o.s.toNat
    checkPtr false p
    if isWin (ptrVa p) then pure .seq
    else do
      let s ← getS
      let l ← translate (me s) (ptrVa p) 1
      if l.place == .hbm then
        modC (fun c => c.dropLine (l.at_ / 128))
      else pure ()
      pure .seq) s

/-- `cflush.wb` (07 R169). -/
def execCflushWb (o : SysOp) (s : State) : Outcome State Fault Refusal :=
  issue (sysIns 10 2 o [] []) noPre (fun _ _ _ => do
    let s ← getS
    if storesOut s s.cur none then holdIssue
    else do
      modS (fun s => drainCore s s.cur)
      pure .seq) s

/-- Does level K of the running context own context `x`: both entries valid and of one VM (07 R170)? -/
def ownsCtx (s : State) (x : Nat) : Bool :=
  let a := readRec s x
  let b := readRec s s.core.ctx.toNat
  a.valid && b.valid && a.vm == b.vm

/-- The level check of a `tlbi` of one context: at K it must be of the running context's VM (07 R170). -/
def tlbiPre (x : Ins) (t : Nat) (s : State) : Option Trap :=
  match s.core.priv with
  | .u => some (privTrap x)
  | .k => if ownsCtx s ((s.core.getG t).toNat % 64) || !s.core.knows (regsOf .g t) then none else some (privTrap x)
  | .h => none

def hyperPre (x : Ins) (s : State) : Option Trap := if s.core.priv = .h then none else some (privTrap x)

/-- Is an access that used one of these translations not performed yet: it waits at its home, or for an answer of another
node (07 R170)? -/
def usesXl (s : State) (l : List TlbEnt) : Bool :=
  let at_ := fun (ctx pa : Nat) => l.any (fun e => e.ctx == ctx && e.xl.pa / 65536 == pa / 65536)
  s.feq.any (fun w => at_ w.log.ctx w.pa) || s.bards.any (fun r => at_ r.log.ctx r.pa) ||
  s.fab.outs.any (fun o => o.chan != 2 && (match o.forw with | .fwd _ => false | _ => l.any (fun e => e.vpage == o.va / 65536 && o.ctx == e.ctx)))

def forgetRecs (s : State) (p : Nat → CtxRec → Bool) : State :=
  { s with ctxs := s.ctxs.map (fun e => (e.1, match e.2.rec? with
      | some r => if p e.1 r then { e.2 with rec? := none } else e.2
      | none => e.2)) }

/-- Table entries that walk caches hold are removed (07 R170). -/
def forgetWalks (s : State) (p : WalkEnt → Bool) : State := { s with walks := s.walks.filter (fun w => !p w) }

/-- The translations that `keep` does not keep are removed once every access that used one has been performed: the stores
in write buffers at once (log 16). -/
def tlbiBody (keep : State → TlbEnt → Bool) (f : State → State) : Nat → Nat → Nat → M Flow := fun _ _ _ => do
  modS drainAll
  let s ← getS
  if usesXl s (s.tlb.filter (fun e => !keep s e)) then holdIssue
  else do
    modS (fun s => f { s with tlb := s.tlb.filter (keep s) })
    pure .seq

/-- Registers s and t of a `tlbi` as what they name: an address, and a context or VM. -/
def tlbiAt (o : SysOp) (s : State) : Nat := ptrVa (s.core.getG o.s.toNat)
def tlbiOf (o : SysOp) (s : State) : Nat := (s.core.getG o.t.toNat).toNat % 64

/-- `tlbi.va` (07 R170). -/
def execTlbiVa (o : SysOp) (s : State) : Outcome State Fault Refusal :=
  let x := sysIns 9 0 o (regsOf .g o.s.toNat ++ regsOf .g o.t.toNat) []
  issue x (tlbiPre x o.t.toNat) (tlbiBody (fun st e =>
    !(e.ctx == tlbiOf o st && e.vpage * 65536 / 2 ^ e.xl.vbits == tlbiAt o st / 2 ^ e.xl.vbits))
    (fun st => forgetWalks st (fun w => w.covers false (tlbiOf o st) w.lvl (tlbiAt o st)))) s

/-- `tlbi.ctx` (07 R170). -/
def execTlbiCtx (o : SysOp) (s : State) : Outcome State Fault Refusal :=
  let x := sysIns 9 1 o (regsOf .g o.t.toNat) []
  issue x (tlbiPre x o.t.toNat)
    (tlbiBody (fun st e => e.ctx != tlbiOf o st)
      (fun st => forgetWalks (forgetRecs st (fun n _ => n == tlbiOf o st)) (fun w => !w.s2 && w.ctx == tlbiOf o st))) s

/-- `tlbi.gpa` (07 R170). -/
def execTlbiGpa (o : SysOp) (s : State) : Outcome State Fault Refusal :=
  let x := sysIns 9 2 o (regsOf .g o.s.toNat ++ regsOf .g o.t.toNat) []
  issue x (hyperPre x) (tlbiBody (fun st e =>
    let b := pageBits (3 - e.xl.s2size)
    !(e.vm == tlbiOf o st && e.xl.s2leaf != 0 && e.xl.gpa / 2 ^ b == tlbiAt o st / 2 ^ b))
    (fun st => forgetWalks st (fun w => w.covers true (tlbiOf o st) w.lvl (tlbiAt o st)))) s

/-- `tlbi.vm` (07 R170). -/
def execTlbiVm (o : SysOp) (s : State) : Outcome State Fault Refusal :=
  let x := sysIns 9 3 o (regsOf .g o.t.toNat) []
  issue x (hyperPre x)
    (tlbiBody (fun st e => e.vm != tlbiOf o st)
      (fun st => forgetWalks (forgetRecs st (fun _ r => r.vm == tlbiOf o st)) (fun w => w.vm == tlbiOf o st))) s

/-- `tlbi.all` (07 R170). -/
def execTlbiAll (o : SysOp) (s : State) : Outcome State Fault Refusal :=
  let x := sysIns 9 4 o [] []
  issue x (hyperPre x) (tlbiBody (fun _ _ => false) (fun st => forgetWalks (forgetRecs st (fun _ _ => true)) (fun _ => true))) s

end Sys2Proof.Machine
end

