-- ==== Sys2Proof/Machine/Task.lean ====
section
/-!
DEFINITION. The task instructions (11 R229 to R245, R251) and `sleept` (07 R166).
-/
namespace Sys2Proof.Machine

open Host (Outcome)

/-- The frame of a task instruction with the constant flag bits `fx`. -/
def taskIns (op fx : Nat) (o : TaskOp) (reads writes : List RegId) : Ins :=
  { Ins.of (encTask op fx o) with
    la := o.la.toNat, d := o.d.toNat, s := o.s.toNat, reads := fun _ _ => reads, writes := fun _ _ => writes }

def gr (n : BitVec 6) : List RegId := regsOf .g n.toNat

/-! Handles (11 R230) -/

/-- The local checks of a handle, with what else raises cause 21; where it names this node, its entry. `first` comes before a
board lookup that fails (06 R133). -/
def checkHandle (h : Word) (good : Bool := true) (first : M Unit := pure ()) : M (Option (At × Entry)) := do
  let s ← getS
  guardT (hNode h == ownNode s || nodeReach s (hNode h)) { code := 18, tval := BitVec.ofNat 64 (hNode h) }
  guardT (decide (hKind h ≤ 3) && hCtx h == s.core.ctx.toNat && good) (badHandle h)
  if hNode h = ownNode s then do
    let r ← tryM (findEntry h)
    match r with
    | .ok none => raise (badHandle h)
    | .ok (some p) => pure (some p)
    | .error t => do
      if t.code = 22 then first else pure ()
      raise t
  else pure none

/-- Send a request for a handle of another node and wait for its reply (11 R230). -/
def askNode (kind sub op d t : Nat) (x : Ins) (h : Word) (data : List Byte) : M Flow := do
  let s ← getS
  let forw := ReplyFor.task s.cur op d t h x.size
  if !canSend s (dieOf s.cur) (hNode h) 2 forw.slot then holdIssue
  else do
    let tag := nextTagOf s (hNode h) forw
    modS (fun s => sendReq s (hNode h) kind 2 h.toNat s.core.ctx.toNat sub data h.toNat forw)
    opensLater x
    modC (fun c => { c with wait := .reply tag })
    pure .hold

/-- Is a waiter of a handle on another node? -/
def farWaiter (s : State) (h : Word) : Bool := (waitersOf s h).any (fun r => r / 65536 != ownNode s)

/-! Results of a finished entry (11 R236 to R238) -/

/-- The registers that a finished entry gives, or the trap of the plain `touch`. -/
def touchEnd (soft : Bool) (d t : Nat) (h : Word) (st : FtState) (value : Word) (code : Nat) : M Unit :=
  match st with
  | .resolved => do
    wG d value
    if soft then wG t 0 else pure ()
  | .poisoned =>
    if soft then do
      wG d 0
      wG t (BitVec.ofNat 64 (code * 256 + 11))
    else raise { code := 11, sub := code, tval := h, carry := some code }
  | .cancelled =>
    if soft then do
      wG d 0
      wG t 12
    else raise { code := 12, tval := h }
  | _ => pure ()

/-- A local entry that has finished: its result, the toucher's place in the list, one reference, the acquire. -/
def takeResult (soft : Bool) (d t : Nat) (h : Word) (a : At) (e : Entry) : M Unit := do
  touchEnd soft d t h e.st e.value e.code
  let s ← getS
  leaveList a e (waiterRef s)
  releaseEntry a e
  modC invalL1

/-! `touch` (11 R237) -/

/-- The toucher joins the waiters of an entry, once; a record on the board shows it. -/
def joinWaiters (h : Word) (at? : Option (At × Entry)) : M Unit := do
  let s ← getS
  let ref := waiterRef s
  if (ownSlot s s.cur).isNone || s.waits.contains ⟨h, ref⟩ then pure ()
  else do
    match at? with
    | some (a, e) => joinList a e ref
    | none => modS (addWaiter h ref)

/-- The active core's task waits for `h`: for scans of its gang and for requests on its core store first (16 R309,
18 R328), then the whole gang parks (10 R209). A core without a task waits at issue. -/
def parkOn (h : Word) : M Flow := do
  let s ← getS
  match gangOfCore s s.cur with
  | none => holdIssue
  | some g =>
    if gangScans s g || storeCopies s g then do
      modC (fun c => { c with wait := .drain, retouch := true })
      pure .hold
    else do
      modC (fun c => { c.closeWins with wait := .park h })
      modS (fun s => beginStop s g s.cur 1 h)
      pure .hold

/-- What a gang does once its members may all have stopped. -/
def saveIfStopped (v : Nat) (r : Outcome State Fault Refusal) : Outcome State Fault Refusal :=
  match r with
  | .next s => .next (match (getCore s v).task with
    | some t => if stopped (getCore s v).wait then gangSave s t.gid else s
    | none => s)
  | x => x

def touchIns (soft : Bool) (o : TaskOp) : Ins :=
  taskIns 1 (b2n soft) o (gr o.s) (gr o.d ++ (if soft then gr o.t else []))

def touchBody (soft : Bool) (o : TaskOp) (s : State) : Outcome State Fault Refusal :=
  let x := touchIns soft o
  let d := o.d.toNat
  let t := o.t.toNat
  saveIfStopped s.cur (issue x noPre (fun _ _ _ => do
    let h ← rG o.s.toNat
    let s ← getS
    let alive : M Unit := if s.core.retouch then pure () else notCancelled
    let r ← checkHandle h true alive
    alive
    match r with
    | none => do
      let s ← getS
      if (ownSlot s s.cur).isNone then askNode 5 4 (1 + 16 * b2n soft) d t x h []
      else askNode 6 (b2n soft) (1 + 16 * b2n soft) d t x h (leBytes 8 (waiterRef s))
    | some (a, e) =>
      if e.st.done then do
        takeResult soft d t h a e
        modC (fun c => { c with retouch := false })
        pure .seq
      else do
        joinWaiters h r
        parkOn h) s)

/-- `touch` (11 R237). -/
def execTouch (o : TaskOp) (s : State) : Outcome State Fault Refusal := touchBody false o s
/-- `touch.soft` (11 R237). -/
def execTouchSoft (o : TaskOp) (s : State) : Outcome State Fault Refusal := touchBody true o s

/-- `tpoll` (11 R238). -/
def execTpoll (o : TaskOp) (s : State) : Outcome State Fault Refusal :=
  let x := taskIns 2 0 o (gr o.s) (gr o.d ++ gr o.t)
  issue x noPre (fun _ _ _ => do
    let h ← rG o.s.toNat
    let r ← checkHandle h
    match r with
    | none => askNode 5 4 2 o.d.toNat o.t.toNat x h []
    | some (a, e) =>
      if e.st.done then do
        touchEnd true o.d.toNat o.t.toNat h e.st e.value e.code
        releaseEntry a e
        modC invalL1
        pure .seq
      else do
        wG o.d.toNat 0
        wG o.t.toNat 1
        pure .seq) s

/-! Creating work (11 R232 to R235) -/

/-- The checks and the effect of a spawn on this node. -/
def spawnHere (o : TaskOp) (far : Bool) (dw0 a0 a1 tv : Word) : M Flow := do
  let s ← getS
  let named := tv.toNat % 64
  let ctx := s.core.ctx.toNat
  let place := o.fl.toNat % 4
  guardT (far || place != 3 || samePart s (quadOf s.cur) (named / 8)) { code := 17, tval := BitVec.ofNat 64 named }
  guardT (ctxValid s ctx) (badHandle dw0)
  notCancelled
  let w ← ackWait true 2
  if w || spillWaits s ctx (spawnHome s ctx place named (clusterOf s.cur) dw0) then holdIssue
  else do
    releaseBefore 2
    let s ← getS
    let h ← spawnAt ctx place named (clusterOf s.cur) dw0 a0 a1 (parentOf s) (b2n (o.fl.getLsbD 3)) (o.d != 0)
    modS (fun s => hearSpawn s h s.cur)
    wG o.d.toNat h
    pure .seq

/-- A spawn to another node (11 R234): the record travels with the parent's handle as its address (log 15). -/
def spawnFarBody (o : TaskOp) (x : Ins) (dw0 a0 a1 tv : Word) : M Flow := do
  let node := fld tv.toNat 25 16
  let s ← getS
  guardT (nodeReach s node) { code := 18, tval := BitVec.ofNat 64 node }
  notCancelled
  let w ← ackWait true 3
  let forw := ReplyFor.task s.cur 0 o.d.toNat 0 dw0 x.size
  if w || !canSend s (dieOf s.cur) node 2 forw.slot then holdIssue
  else do
    releaseBefore 3
    let tag := nextTagOf s node forw
    modS (fun s => sendReq s node 4 2 (parentOf s).toNat s.core.ctx.toNat (o.fl.toNat % 4 + 4 * b2n (o.fl.getLsbD 3) + 8 * b2n (o.d == 0) + 16 * (tv.toNat % 64))
      (leBytes 8 dw0.toNat ++ leBytes 8 a0.toNat ++ leBytes 8 a1.toNat ++ leBytes 8 0) dw0.toNat forw)
    opensLater x
    modC (fun c => { c with wait := .reply tag })
    pure .hold

def spawnBody (far : Bool) (o : TaskOp) (s : State) : Outcome State Fault Refusal :=
  let sn := o.s.toNat
  let x := taskIns 0 (4 * b2n far) o (regsOf .g sn ++ regsOf .g (sn + 1) ++ regsOf .g (sn + 2) ++ gr o.t) (gr o.d)
  issue x noPre (fun _ _ _ => do
    let dw0 ← rG sn
    let a0 ← rG (sn + 1)
    let a1 ← rG (sn + 2)
    let tv ← rG o.t.toNat
    let s ← getS
    if far && fld tv.toNat 25 16 != ownNode s then spawnFarBody o x dw0 a0 a1 tv
    else spawnHere o false dw0 a0 a1 tv) s

/-- `spawn` (11 R232). -/
def execSpawn (o : TaskOp) (s : State) : Outcome State Fault Refusal := spawnBody false o s
/-- `spawn` with `.far` (11 R234). -/
def execSpawnFar (o : TaskOp) (s : State) : Outcome State Fault Refusal := spawnBody true o s

/-- `fnew` (11 R235). -/
def execFnew (o : TaskOp) (s : State) : Outcome State Fault Refusal :=
  issue (taskIns 3 0 o [] (gr o.d)) noPre (fun _ _ _ => do
    let s ← getS
    if spillWaits s s.core.ctx.toNat (clusterOf s.cur) then holdIssue
    else do
      let h ← allocEntry (clusterOf s.cur) s.core.ctx.toNat 1 (parentOf s) (1 + o.fl.toNat % 4)
      wG o.d.toNat h
      pure .seq) s

/-! Finishing promises (11 R239) -/

def settle (op : Nat) (st : FtState) (x : Ins) (hn : Nat) (value : Word) (code : Nat) (okCode : Bool) : M Flow := do
  let h ← rG hn
  let r ← checkHandle h (hKind h == 1 && okCode)
  let s ← getS
  let w ← ackWait true 2
  if w then holdIssue
  else do
    releaseBefore (if r.isNone || farWaiter s h then 3 else 2)
    match r with
    | none => askNode 5 (op - 4) op 0 0 x h (leBytes 8 value.toNat)
    | some (a, e) => do
      modS (fun s => hears s (576 + hHome h) s.cur)
      finishEntry a e st value code
      pure .seq

/-- `resolve` (11 R239). -/
def execResolve (o : TaskOp) (s : State) : Outcome State Fault Refusal :=
  let x := taskIns 4 0 o (gr o.s ++ gr o.t) []
  issue x noPre (fun _ _ _ => do
    let v ← rG o.t.toNat
    settle 4 .resolved x o.s.toNat v 0 true) s

/-- `poison` (11 R239). -/
def execPoison (o : TaskOp) (s : State) : Outcome State Fault Refusal :=
  let x := taskIns 5 0 o (gr o.s ++ gr o.t) []
  issue x noPre (fun _ _ _ => do
    let v ← rG o.t.toNat
    let code := v.toNat % 256
    settle 5 .poisoned x o.s.toNat (BitVec.ofNat 64 code) code (code != 0)) s

/-- `poison.self` (11 R239). -/
def execPoisonSelf (o : TaskOp) (s : State) : Outcome State Fault Refusal :=
  issue (taskIns 5 1 o (gr o.t) []) noPre (fun _ _ _ => do
    let v ← rG o.t.toNat
    modS (fun s => setCarried s s.cur (v.toNat % 256))
    pure .seq) s

/-! Cancelling (11 R240, 10 R222, R223) -/

/-- One cancel request, with the discard of a record that it ends (10 R204). -/
def cancelOne (a : At) (e : Entry) : M Unit := do
  let c ← cancelAt a e
  if c then modS (fun s => discardRecord s e.handle) else pure ()

/-- Entries whose chain of parents reaches the target, the target apart. -/
def descend (target : Word) : List (At × Entry) → M (List (At × Entry))
  | [] => pure []
  | p :: r => do
    let l ← descend target r
    if p.2.handle = target then pure l
    else do
      let b ← reaches target 1048576 p.2.parent
      pure (if b then p :: l else l)

def insertSeq (p : At × Entry) : List (At × Entry) → List (At × Entry)
  | [] => [p]
  | q :: r => if p.2.seq < q.2.seq then p :: q :: r else q :: insertSeq p r

def cancelList : List (At × Entry) → M Unit
  | [] => pure ()
  | p :: r => do
    let f ← findEntry p.2.handle
    match f with
    | some (a, e) => cancelOne a e
    | none => pure ()
    cancelList r

/-- The walk of `cancel.deep` over the entries of a context (10 R223). -/
def cancelTree (a : At) (e : Entry) : M Unit := do
  let all ← allEntries (hCtx e.handle)
  let l ← descend e.handle all
  cancelOne a e
  cancelList (l.foldl (fun m p => insertSeq p m) [])

def cancelBody (deep : Bool) (o : TaskOp) (s : State) : Outcome State Fault Refusal :=
  let x := taskIns 6 (b2n deep) o (gr o.s) []
  issue x noPre (fun _ _ _ => do
    let h ← rG o.s.toNat
    let r ← checkHandle h
    match r with
    | none => askNode 5 (2 + b2n deep) 6 0 0 x h []
    | some (a, e) => do
      modS (fun s => hears s (576 + hHome h) s.cur)
      if deep then cancelTree a e else cancelOne a e
      pure .seq) s

/-- `cancel` (11 R240). -/
def execCancel (o : TaskOp) (s : State) : Outcome State Fault Refusal := cancelBody false o s
/-- `cancel.deep` (11 R240). -/
def execCancelDeep (o : TaskOp) (s : State) : Outcome State Fault Refusal := cancelBody true o s

/-- `tcheck` (11 R241). -/
def execTcheck (o : TaskOp) (s : State) : Outcome State Fault Refusal :=
  issue (taskIns 7 0 o [] (gr o.d)) noPre (fun _ _ _ => do
    let s ← getS
    wG o.d.toNat (BitVec.ofNat 64 (((ownEntry s s.cur).map (fun e => e.carried * 256 + b2n e.creq)).getD 0))
    pure .seq) s

/-- `fdrop` (11 R241). -/
def execFdrop (o : TaskOp) (s : State) : Outcome State Fault Refusal :=
  let x := taskIns 12 0 o (gr o.s) []
  issue x noPre (fun _ _ _ => do
    let h ← rG o.s.toNat
    let r ← checkHandle h
    match r with
    | none => askNode 5 5 12 0 0 x h []
    | some (a, e) => do
      releaseEntry a e
      pure .seq) s

/-! Ending (11 R242, 10 R208, R214) -/

/-- The outcome that `tend` decides: state, code, value. -/
def tendOutcome (s : State) (value : Word) : FtState × Nat × Word :=
  let c := s.core
  match ownEntry s s.cur with
  | some e =>
    if e.carried ≠ 0 then (.poisoned, e.carried, 0)
    else if e.creq then (.cancelled, 0, 0)
    else if c.priv = .k then
      (if c.cause.toNat % 256 = 12 then (.cancelled, 0, 0) else (.poisoned, c.cause.toNat % 256, 0))
    else (.resolved, 0, value)
  | none => (.resolved, 0, value)

/-- Tiles that requests in flight will bring to a task. -/
def comingTiles (s : State) (cl : Nat) (r : TaskRef) : List Nat :=
  ((getCl s cl).copies.filter (fun q => q.op < 6)).flatMap (fun q =>
    if q.op == 0 then (if q.task == some r then q.tiles else [])
    else (if q.recv == some r && q.next.isNone then [tileOf (ptrVa q.dst)] else []) ++
      (if q.task == some r then q.tiles.filter (fun t => t != tileOf (ptrVa q.dst)) else []))

/-- The state code of a finished entry in a status word (11 R236). -/
def statusOf (st : FtState) : Nat :=
  match st with
  | .resolved => 0
  | .poisoned => 11
  | .cancelled => 12
  | _ => 1

/-- A member has been written back, or had nothing to write back: its entry finishes (10 R208). -/
def memberDone (s : State) (g : Gang) (m : Member) (st : FtState) (code : Nat) (value : Word) : State :=
  let s1 := match m.core with
    | some v => hears (emit s v g.ctx 0x85 1 0 (statusOf st + 256 * code) (some (m.fut.toNat, s.cycle.toNat))) (576 + g.cluster.getD g.home) v
    | none => s
  finishMember s1 g m st code value

/-- The task of the active core ends: its tiles go to the CLS, its outcome is decided, the core becomes free. -/
def endTask (s : State) (r : TaskRef) (value : Word) : State :=
  let v := s.cur
  let cl := clusterOf v
  let old := (gangOf s r.gid).bind (fun g => (g.anchor.bind (fun m => m.core)).map (fun w => 16 + w % 8))
  let res := tendOutcome s value
  let s1 := updMember s r.gid r.rank (fun m => { m with ended := true, writing := true, result := res.1, code := res.2.1, value := res.2.2 })
  match gangOf s1 r.gid with
  | none => s1
  | some g =>
    let mine := ((getCl s1 cl).owners.filter (fun p => p.2 == v % 8)).map (fun p => p.1)
    let shared := ((getCl s1 cl).owners.filter (fun p => some p.2 == old)).map (fun p => p.1)
    let next := g.anchor.bind (fun m => m.core)
    let s2 := match next with
      | some w => shared.foldl (fun st t => setOwner st cl t (16 + w % 8)) s1
      | none => s1
    let wb0 := mine ++ (if next.isSome then [] else shared)
    let s3 := wb0.foldl (fun st t => setOwner st cl t 9) s2
    let wb := wb0 ++ (comingTiles s cl r).filter (fun t => !wb0.contains t)
    let s4 := (wb.filterMap (fun t => (getCl s3 cl).tdesc.find? t)).foldl (fun st d => if d.writes then tilePromise st cl d else st) s3
    let s5 := updMember (if wb.isEmpty then s4 else queueWork s4 cl 7 g.ctx (some r) wb) r.gid r.rank (fun m => { m with wb := wb })
    let s6 := updCore s5 v Core.vacate
    let s7 := updGang s6 r.gid (fun x => { x with st := if x.members.all (fun m => m.ended) then .ending else x.st })
    match wb, gangOf s7 r.gid with
    | [], some g7 =>
      (match g7.members.find? (fun m => m.rank == r.rank) with
       | some m => memberDone s7 g7 m res.1 res.2.1 res.2.2
       | none => s7)
    | _, _ => s7

/-- Does `tend` still wait: a scan, a request on the core store, or acknowledgements of the core's remote stores (23 R372)? -/
def tendWaits (s : State) : Bool :=
  s.core.ssb.isSome ||
  (getCl s (clusterOf s.cur)).copies.any (fun q => q.touchesStore && q.core == s.cur && q.task == s.core.task) ||
  storesOut s s.cur none

/-- `tend` (11 R242). At H it raises cause 2. It raises cause 21 where its task's entry has no reference left that it could
release (10 R212). A core without a task becomes free. -/
def execTend (o : TaskOp) (s : State) : Outcome State Fault Refusal :=
  let x := taskIns 8 0 o (gr o.s) []
  issue x (fun st => if st.core.priv = .h then some (privTrap x) else none) (fun _ _ _ => do
    let value ← rG o.s.toNat
    let s ← getS
    match ownEntry s s.cur with
    | some e => guardT (e.refs != 0) (badHandle e.handle)
    | none => pure ()
    if tendWaits s then do
      modC (fun c => { c with wait := .drain })
      pure .hold
    else do
      modC Core.closeWins
      modS (fun s => flushXsts (drainCore s s.cur) s.cur)
      match s.core.task with
      | none => modC Core.vacate
      | some r => modS (fun s => endTask s r value)
      pure .leave) s

/-- `tyield` (11 R243). A core without a task has no queue to return to. -/
def execTyield (o : TaskOp) (s : State) : Outcome State Fault Refusal :=
  let x := taskIns 9 0 o [] []
  saveIfStopped s.cur (issue x noPre (fun _ _ _ => do
    notCancelled
    let s ← getS
    match gangOfCore s s.cur with
    | none => pure .seq
    | some g => do
      modC (fun c => { c.closeWins with wait := .yield x.size })
      modS (fun s => beginStop s g s.cur 3 0)
      pure .hold) s)

/-! Tiles (11 R244, R245) -/

/-- The tile that a pointer names: causes 7 and 4. -/
def tileArg (p : Word) : M Nat := do
  checkPtr false p
  let va := ptrVa p
  guardT (isWin va && decide (va < winBase + 960 * 4096)) { code := 4, tval := p }
  pure (tileOf va)

/-- The hand-over that the active core's `tgive` left to the device takes place: a tile of a task that is off its core travels
with it, one of a task that has ended is written back and freed (11 R244). -/
def landGive (s : State) : State :=
  match s.core.gave with
  | none => s
  | some (tile, r) =>
    let s1 := { s with core := { s.core with gave := none } }
    match r with
    | none => setOwner s1 (clusterOf s.cur) tile (16 + ((anchorCore s s.cur).getD s.cur) % 8)
    | some _ => giveTile s1 (clusterOf s.cur) s.cur tile r

/-- `tgive` (11 R244): the hand-over takes place now or, as the device chooses, before the core's next step (log 96). -/
def execTgive (o : TaskOp) (s : State) : Outcome State Fault Refusal :=
  issue (taskIns 10 0 o (gr o.s ++ gr o.t) []) noPre (fun _ _ _ => do
    let p ← rG o.s.toNat
    let tv ← rG o.t.toNat
    let tile ← tileArg p
    let target := tv.toNat % 32
    let s ← getS
    let cl := clusterOf s.cur
    let own := ownerOf s cl tile
    guardT (ownerOk s s.cur own && (decide (target ≤ 7) || target == 16) && (decide (7 < target) || runsOurs s target) && !(target == 16 && decide (16 ≤ own)))
      { code := 8, tval := p }
    let w ← ackWait true 2
    if w then holdIssue
    else do
      releaseBefore 2
      let later ← liftS (fun s => pick s 2)
      modC (fun c => { c with gave := some (tile, if target = 16 then none else (getCore s (s.cur / 8 * 8 + target)).task) })
      if later = 0 then modS landGive else pure ()
      pure .seq) s

/-- `town` (11 R245). -/
def execTown (o : TaskOp) (s : State) : Outcome State Fault Refusal :=
  issue (taskIns 11 0 o (gr o.s) (gr o.d)) noPre (fun _ _ _ => do
    let p ← rG o.s.toNat
    let tile ← tileArg p
    let s ← getS
    wG o.d.toNat (BitVec.ofNat 64 (ownerOf s (clusterOf s.cur) tile))
    pure .seq) s

/-! Grids (11 R251) -/

/-- A launch packet joins the launch queue of a quadrant. -/
def queueGrid (s : State) (q ctx : Nat) (packet : List Word) (h : Word) : State :=
  let id := s.nextId
  let g : Grid := ⟨id, ctx, q, packet, h, false, 0, 0, 0, true, none, false, none, 1⟩
  { s with
    nextId := id + 1, grids := s.grids ++ [g]
    bqes := s.bqes.insert q (let b := s.bqes.getD q Bqe.reset; { b with grids := b.grids ++ [id] }) }

/-- `glaunch` (11 R251). -/
def execGlaunch (o : TaskOp) (s : State) : Outcome State Fault Refusal :=
  let x := taskIns 13 0 o (gr o.s) (gr o.d)
  issue x noPre (fun _ _ _ => do
    let p ← rG o.s.toNat
    checkPtr false p
    checkAlign (ptrVa p % 128 == 0) (ptrVa p)
    let r ← readDwords (ptrVa p) 16 x.size
    match r with
    | none => pure .hold
    | some d => do
      let s ← getS
      let ctx := s.core.ctx.toNat
      guardT (ctxValid s ctx) (badHandle p)
      let w ← ackWait true 2
      if w || spillWaits s ctx (clusterOf s.cur) then holdIssue
      else do
        releaseBefore 2
        let h ← allocEntry (clusterOf s.cur) ctx 3 (parentOf s) 1
        modS (fun s => queueGrid s (quadOf s.cur) ctx ((List.range 16).map (fun i => BitVec.ofNat 64 (d i))) h)
        giveHandle o.d.toNat h
        pure .seq) s

/-! `sleept` (07 R166) -/

/-- Has the entry finished? One that exists no more counts as finished. -/
def settled (h : Word) : M Bool := do
  let r ← findEntry h
  pure (match r with
    | none => true
    | some (_, e) => e.st.done)

/-- After the target: go on, sleep on without a trap inside a trace stall, or cause 10. -/
def sleepEnd (target : Word) (h : Option Word) (size : Nat) : M Flow :=
  match h with
  | none => pure .seq
  | some x => do
    let ok ← settled x
    if ok then pure .seq
    else do
      let s ← getS
      if s.core.stalls.any (fun p => decide (p.1 ≤ target.toNat) && decide (target.toNat ≤ p.2)) then do
        modC (fun c => { c with wait := .sleep target h size })
        pure .hold
      else raise { code := 10, tval := x, after := true }

/-- `sleept` (07 R166). -/
def execSleept (o : SysOp) (s : State) : Outcome State Fault Refusal :=
  let x := sysIns 3 0 o (gr o.s ++ gr o.t) []
  issue x noPre (fun _ _ _ => do
    let target ← rG o.s.toNat
    let hv ← rG o.t.toNat
    let s ← getS
    let h := if o.t = 0 then none else some hv
    match h with
    | some y => guardT (decide (hKind y ≤ 3) && hCtx y == s.core.ctx.toNat && hNode y == ownNode s) (badHandle y)
    | none => pure ()
    if s.cycle.toNat < target.toNat then do
      modC (fun c => { c with wait := .sleep target h x.size })
      pure .hold
    else sleepEnd target h x.size) s

/-- The sleeping active core, once its target has come. -/
def wakeSleeper (s : State) : State :=
  match s.core.wait with
  | .sleep target h size =>
    if s.cycle.toNat < target.toNat then s
    else
      match sleepEnd target h size s with
      | .ok (.seq, s1) => { s1 with core := s1.core.complete size }
      | .ok (_, _) => s
      | .error t => takeTrap s size t
  | _ => s

/-- The target of a sleeping core has come (07 R166). -/
def execSleeptWake (v : Nat) (s : State) : Outcome State Fault Refusal := .next (asCore s v wakeSleeper)

end Sys2Proof.Machine
end

