-- ==== Sys2Proof/Machine/Sched.lean ====
section
/-!
DEFINITION. The cluster schedulers (04 R77, R92 to R98, 10 R204 to R220), pre-emption, and the steps of the futures
that no instruction takes: wakes, stalls (10 R215, R225).
-/
namespace Sys2Proof.Machine

open Host (Outcome)

/-! Dispatch (10 R206, R220, 12 R254) -/

/-- Why a gang is not dispatched now. -/
def noRoom : Trap := { code := 255 }
def noRecord : Trap := { code := 254 }

/-- The on-chip entry of a member, RUNNING from now on: its slot. -/
def takeEntry (cl ctx : Nat) (m : Member) : M Nat :=
  if m.fut = 0 then do
    let r ← allocRunning cl ctx
    match r with
    | none => raise noRoom
    | some slot => pure (cl * 1024 + slot)
  else do
    let r ← findEntry m.fut
    match r with
    | none => raise noRecord
    | some (a, e) =>
      if e.st != .pending then raise noRecord
      else
        let e1 := { e with st := .running }
        match a with
        | .chip c slot => do
          putEntry a e1
          pure (c * 1024 + slot)
        | .board c j => do
          let q ← refillEntry c j e1
          match q with
          | none => raise noRoom
          | some slot => pure (c * 1024 + slot)

def takeEntries (cl ctx : Nat) : List Member → M (List Member)
  | [] => pure []
  | m :: r => do
    let k ← takeEntry cl ctx m
    let l ← takeEntries cl ctx r
    pure ({ m with slot := some k, started := true } :: l)

/-- The head of the highest non-empty queue (10 R205). -/
def headOf (s : State) (cl : Nat) : Option Gang :=
  let at_ := fun (q : Nat) => s.gangs.find? (fun g =>
    g.cluster == some cl && g.st == .ready && !g.aside && g.queue == q && !(getCtx s g.ctx).halted)
  (at_ 3).orElse (fun _ => (at_ 2).orElse (fun _ => (at_ 1).orElse (fun _ => at_ 0)))

def setAside (s : State) (gid : Nat) : State := updGang s gid (fun g => { g with aside := true })

/-- A dispatch that fails under R104: the hypervisor is told, and none of the context's tasks runs. -/
def dispatchFails (s : State) (g : Gang) (v : Nat) : State :=
  setAside (asCore s v (fun st =>
    enterAt { st with core := { st.core with mode := .irq, ctx := BitVec.ofNat 6 g.ctx, priv := .u } } .h 6 0 0 false st.core.pc)) g.gid

/-- The context's record, as it must be for a dispatch: loaded where none is (05 R104, 06 R138, R139). -/
def ctxReady (s : State) (ctx : Nat) : Option State :=
  let r := readRec s ctx
  if !r.valid || r.bad then none
  else
    match ctxBlock ctx (if (getCtx s ctx).rec?.isNone then updCtx s ctx (fun c => { c with rec? := some r }) else s) with
    | .ok (_, s1) => some s1
    | .error _ => none

/-- Dispatch records and the queue wait of a gang's members (10 R228, 24 R379). -/
def noteDispatch (s : State) (g : Gang) (on : List (Member × Nat)) : State :=
  on.foldl (fun st p =>
    emit (updCtx st g.ctx (fun c => { c with qwait := c.qwait + (s.cycle.toNat - g.enq) })) p.2 g.ctx 0x82 1 0
      (fld g.dw0.toNat 11 0 * 4096 + fld g.dw0.toNat 15 12 * 256) (some (p.1.fut.toNat, g.enq)) (heardAt st (576 + p.2 / 8) p.2)) s

/-- First dispatch to the cores of `on` (04 R88, R92, R94). -/
def dispatchFirst (s : State) (g : Gang) (cl : Nat) (on : List (Member × Nat)) : State :=
  match takeEntries cl g.ctx (on.map (fun p => p.1)) s with
  | .error t =>
    if t.code = 254 then endUnrun s g .cancelled 0
    else if t.code = 255 then setAside s g.gid
    else if t.code = 23 then { postExit s (irqCore s g.ctx) g.ctx t.tval with dirtyHeld := s.dirtyHeld ++ [(70, cl)] }
    else setAside (postDeferred s (irqCore s g.ctx) 22 0 g.ctx) g.gid
  | .ok (ms, s1) =>
    let on1 := (ms.zip (on.map (fun p => p.2))).map (fun p => ({ p.1 with core := some p.2 }, p.2))
    let seq := (on1.head?.bind (fun p => (p.1.slot).bind (fun k => ((getCl s1 (k / 1024)).ft.find? (k % 1024)).map (fun e => e.seq)))).getD 0
    let g1 := { g with st := .running, seq := if g.seq = 0 then seq else g.seq, members := on1.map (fun p => p.1) }
    let s2 := updGang s1 g.gid (fun _ => g1)
    let s3 := on1.foldl (fun st p => p.1.tiles.foldl (fun st2 t => setOwner st2 cl t.tile (p.2 % 8)) st) s2
    let s4 := match g.contTile, on1.head? with
      | some a, some p => setOwner s3 cl (tileOf a) (p.2 % 8)
      | _, _ => s3
    noteDispatch (on1.foldl (fun st p => startMember st g1 p.1 p.2) s4) g1 on1

/-- The queue head of a cluster takes the lowest free cores (10 R206). -/
def dispatch (s : State) (cl : Nat) : State :=
  match headOf s cl with
  | none => s
  | some g =>
    let free := (coresOf cl).filter (freeCore s)
    let live := g.members.filter (fun m => !m.ended)
    match free with
    | [] => s
    | v :: _ =>
      if free.length < live.length then s
      else
        match ctxReady s g.ctx with
        | none => dispatchFails s g v
        | some s1 =>
          let on := live.zip free
          if live.any (fun m => m.started) then
            let s2 := resumeGang s1 g cl on
            if (gangOf s2 g.gid).any (fun x => x.st == .running) then noteDispatch s2 g on else s2
          else dispatchFirst s1 g cl on

/-- Does the scheduler of a cluster dispatch nothing: it waits for room in a trace buffer (24 R385), or a refill waits on a
full dirty log (05 R112)? -/
def schedWaits (s : State) (cl : Nat) : Bool := stalledSrc s (576 + cl) || s.dirtyHeld.contains (70, cl)

/-- A free core takes work (10 R206). -/
def execDispatch (cl : Nat) (s : State) : Outcome State Fault Refusal := .next (if schedWaits s cl then s else dispatch s cl)

/-- A record that was set aside is tried again once its entry finds room (10 R220). -/
def execRefillRetry (cl gid : Nat) (s : State) : Outcome State Fault Refusal :=
  .next (match gangOf s gid with
    | none => s
    | some g =>
      let home := match g.members.head? with | some m => if m.fut = 0 then cl else hHome m.fut | none => cl
      if g.aside && g.cluster == some cl && !schedWaits s cl && (refillSlot s g.ctx home).isSome then dispatch (updGang s gid (fun x => { x with aside := false })) cl
      else s)

/-! Pre-emption (04 R96 to R98) -/

/-- The device pre-empts the gang of core `v`. -/
def execPreemption (v : Nat) (s : State) : Outcome State Fault Refusal :=
  .next (match gangOfCore s v with
    | none => s
    | some g =>
      let s1 := beginStop s g 512 2 0
      let s2 := asCore s1 v (fun st => if atBoundary st && dueEvent st == some .preempt then takeDue (landGive st) .preempt else st)
      gangSave s2 g.gid)

/-- Every member has stopped: the gang is saved (04 R98). -/
def execGangPreemptSave (gid : Nat) (s : State) : Outcome State Fault Refusal := .next (gangSave s gid)

/-- The active core takes the event that is due at its boundary (06 R134). -/
def execTakeEvent (s : State) : Outcome State Fault Refusal :=
  .next (if !atBoundary s then s
    else
      match dueEvent s with
      | none => s
      | some d => takeDue (landGive s) d)

/-! Stealing (10 R207) -/

/-- Quadrants in the order of a search. -/
def searchOrder (s : State) (q : Nat) : List Nat := q :: (List.range 8).filter (fun x => x != q && samePart s q x)

/-- Plane order of a grid (11 R249): Hilbert's curve. -/
def hilbertAux : Nat → Nat → Nat → Nat → Nat → Nat → Nat × Nat
  | 0, _, _, _, x, y => (x, y)
  | f + 1, n, s, t, x, y =>
    if n ≤ s then (x, y)
    else
      let rx := t / 2 % 2
      let ry := (t ^^^ rx) % 2
      let p := if ry = 0 then (if rx = 1 then (s - 1 - y, s - 1 - x) else (y, x)) else (x, y)
      hilbertAux f n (2 * s) (t / 4) (p.1 + s * rx) (p.2 + s * ry)

def hilbert (d n : Nat) : Nat × Nat := hilbertAux 17 n 1 d 0 0

def evenBits : Nat → Nat → Nat
  | 0, _ => 0
  | f + 1, d => d % 2 + 2 * evenBits f (d / 4)

def morton (d : Nat) : Nat × Nat := (evenBits 17 d, evenBits 17 (d / 2))

def pow2Above : Nat → Nat → Nat → Nat
  | 0, p, _ => p
  | f + 1, p, n => if n ≤ p then p else pow2Above f (2 * p) n

/-- Point number d of the enlarged plane in traversal order, before points outside are skipped. -/
def planePoint (ex ey trav w d : Nat) : Nat × Nat :=
  let wide := 2 ^ w
  match trav with
  | 0 => let c := if w = 0 then ex else wide; (d / (c * ey) * c + d % c, d / c % ey)
  | 1 => let r := if w = 0 then ey else wide; (d / r % ex, d / (r * ex) * r + d % r)
  | t =>
    let n := if w = 0 then pow2Above 17 1 (maxN ex ey) else wide
    let across := ceilDiv ex n
    let b := d / (n * n)
    let p := if t = 2 then morton (d % (n * n)) else hilbert (d % (n * n)) n
    (b % across * n + p.1, b / across * n + p.2)

/-- The point that gang d of a plane has: points outside X x Y consume no number. `at_` is a point number of the
enlarged plane. -/
def planeFrom (ex ey trav w : Nat) : Nat → Nat → Nat → Nat × Nat
  | 0, at_, _ => planePoint ex ey trav w at_
  | f + 1, at_, d =>
    let p := planePoint ex ey trav w at_
    if p.1 < ex ∧ p.2 < ey then (if d = 0 then p else planeFrom ex ey trav w f (at_ + 1) (d - 1))
    else planeFrom ex ey trav w f (at_ + 1) d

/-- Coordinates of gang n of a grid (11 R249). -/
def gridPoint (ex ey trav w n : Nat) : Nat × Nat × Nat :=
  let p := planeFrom ex ey trav w (2 ^ 36) 0 (n % (ex * ey))
  (p.1, p.2, n / (ex * ey))

def gField (p : List Word) (i hi lo : Nat) : Nat := fld (p.getD i 0).toNat hi lo

/-- The next gang of a started grid (11 R249). -/
def handOut (s : State) (x : Grid) (cl : Nat) : State :=
  let gid := s.nextId
  let p := gridPoint (gField x.packet 1 15 0) (gField x.packet 1 31 16) (gField x.packet 0 47 46) (gField x.packet 0 51 48) x.next
  let dw0 := gField x.packet 0 15 0 + p.1 * 2 ^ 16 + p.2.1 * 2 ^ 32 + p.2.2 * 2 ^ 48
  let g := { mkGang gid x.ctx (BitVec.ofNat 64 dw0) (x.packet.getD 12 0) (x.packet.getD 13 0) 0 cl 0 with
    grid := some x.id, size := x.gang, members := (List.range x.gang).map (fun r => Member.fresh r 0)
    enq := s.cycle.toNat, since := s.cycle.toNat }
  placeGang { s with
    nextId := gid + 1, gangs := s.gangs ++ [g]
    grids := s.grids.map (fun y => if y.id = x.id then { y with next := y.next + 1, live := y.live + 1 } else y) } gid cl

/-- What a cluster steals from a quadrant's queue engine: a gang of the earliest-started grid, else the oldest record. -/
def stealAt (s : State) (cl q : Nat) : Option State :=
  match s.grids.find? (fun x => x.q == q && x.started && !x.ended && decide (x.next < x.total)) with
  | some x => some (handOut (emit s (576 + cl) x.ctx 0x89 2 0 q (some (0, s.cycle.toNat)) (heardAt s (640 + q) (576 + cl))) x cl)
  | none =>
    match (s.bqes.getD q Bqe.reset).tasks with
    | [] => none
    | gid :: r =>
      match gangOf s gid with
      | none => some { s with bqes := s.bqes.insert q { s.bqes.getD q Bqe.reset with tasks := r } }
      | some g =>
        let s1 := emit s (576 + cl) g.ctx 0x89 2 0 q (some (((g.members.head?).map (fun m => m.fut.toNat)).getD 0, g.enq))
          (heardAt s (640 + q) (576 + cl))
        some (placeGang { s1 with bqes := s1.bqes.insert q { s1.bqes.getD q Bqe.reset with tasks := r } } gid cl)

def stealFrom (s : State) (cl : Nat) : List Nat → Option State
  | [] => none
  | q :: r => (stealAt s cl q).orElse (fun _ => stealFrom s cl r)

/-- A search for work, or its repetition 64 cycles after a failure (10 R207). -/
def execStealSearch (cl : Nat) (s : State) : Outcome State Fault Refusal :=
  let c := getCl s cl
  let due := match c.searchSince with | none => true | some t => decide (t + 64 ≤ s.cycle.toNat)
  if anyReady s cl || !(coresOf cl).any (freeCore s) then .next (updCl s cl (fun x => { x with searchSince := none }))
  else if !due || stalledSrc s (576 + cl) then .next s
  else
    match stealFrom s cl (searchOrder s (cl / 8)) with
    | some s1 => .next (updCl s1 cl (fun x => { x with searchSince := none }))
    | none => .next (updCl s cl (fun x => { x with failed := x.failed + 1, searchSince := some s.cycle.toNat }))

/-! Write-back (10 R208) -/

/-- The outcome of a member, its write-backs included (10 R214): `code` is the first cause that they met. -/
def withFault (m : Member) (code : Option Nat) : FtState × Nat × Word :=
  match code with
  | some c => if m.result == .resolved then (.poisoned, c % 256, 0) else (m.result, m.code, m.value)
  | none => (m.result, m.code, m.value)

/-- The tiles of an ended member are written back and freed, and its entry finishes; the copy engine does it in its order
(18 R311). `jid` is gang * 8 + rank. -/
def execWritebackComplete (jid : Nat) (s : State) : Outcome State Fault Refusal :=
  match gangOf s (jid / 8) with
  | none => .next s
  | some g =>
    match g.members.find? (fun m => m.rank == jid % 8), g.cluster with
    | some m, some cl =>
      let q := (findWork s cl 7 ⟨g.gid, m.rank⟩).getD { Copy.blank 0 7 512 none g.ctx .u 0 with tiles := m.wb }
      if !m.writing || m.wb.any (fun t => ownerOf s cl t == 8) || s.dirtyHeld.contains (64, jid) || stalledSrc s (512 + cl) ||
         stalledSrc s (576 + cl) || !turnOf s cl q.id then .next s
      else
        match storeTiles cl q.tiles q s with
        | (some t, q1, s1) =>
          .next { postExit (setCopy s1 cl q1) (irqCore s g.ctx) g.ctx t.tval with dirtyHeld := s.dirtyHeld ++ [(64, jid)] }
        | (none, q1, s1) =>
          let s2 := m.wb.foldl (fun st t => freeTile st cl t) (dropCopy s1 cl q.id)
          let o := withFault m (q1.fail.map (fun p => p.2))
          .next (memberDone s2 g m o.1 o.2.1 o.2.2)
    | _, _ => .next s

/-! Wakes and stalls -/

/-- A waiter of a finished entry is woken (10 R215), unless its scheduler, whose record that is, stalls (24 R385); the wake of one on another
node is a packet (21 R361). -/
def execWake (h : BitVec 64) (s : State) : Outcome State Fault Refusal :=
  if hNode h ≠ ownNode s then .next s
  else
    let ref := (waitersOf s h).headD (ownNode s * 65536 + hHome h * 1024)
    let far := ref / 65536
    if stalledSrc s (576 + hHome h) || (far == ownNode s && stalledSrc s (576 + ref / 1024 % 64)) || (far != ownNode s && !canSend s 0 far 2 false) then .next s
    else .next (devEvent (hCtx h) (.wake h) s)

/-- 4096 cycles without progress: a report and cause 24, once per onset (10 R225). -/
def execContextStall (ctx : Nat) (s : State) : Outcome State Fault Refusal :=
  .next (match (getCtx s ctx).stallSince with
    | some t =>
      if standsStill s ctx && !(getCtx s ctx).stallOnset && decide (t + 4096 ≤ s.cycle.toNat) then
        updCtx (report s ctx 1 []) ctx (fun c => { c with stallOnset := true })
      else s
    | none => s)

end Sys2Proof.Machine
end

