-- ==== Sys2Proof/Machine/Memory.lean ====
section
/-!
DEFINITION. Scalar loads and stores, and full/empty accesses with their homes' retry lists (07 R153 to R159).
-/
namespace Sys2Proof.Machine

open Host (Outcome)

/-- The effective address of a scalar access in one iteration, after its checks of the pointer and of alignment (07 R153). -/
def scalarEa (b : Nat) (imm : Int) (n m : Nat) : M Nat := do
  let p ← rG b
  checkPtr false p
  let ea := vaAdd (ptrVa p) ((imm + m) * n)
  checkAlign (ea % n == 0) ea
  pure ea

/-- The frame of a scalar load or store. -/
def memIns (st sx : Nat) (o : MemOp) : Ins :=
  { Ins.of (encMem st sx o) with
    la := o.la.toNat, rep := o.rep, kd := .g, ks := .g, mem := true, d := o.d.toNat, s := o.b.toNat
    reads := fun d b => regsOf .g b ++ (if st = 1 then regsOf .g d else [])
    writes := fun d _ => if st = 1 then [] else regsOf .g d
    late := fun d _ => if st = 1 then regsOf .g d else [] }

def scalarLoad (sx : Bool) (o : MemOp) (s : State) : Outcome State Fault Refusal :=
  let x := memIns 0 (b2n sx) o
  let n := 2 ^ o.size.toNat
  issue x noPre (fun d b m => do
    let ea ← scalarEa b (o.imm.sval 5) n m
    let sc := memScope o.scope
    let r ← loadVa ea n o.order.toNat sc (fun v => .reg v d (if sx then 8 * n else 0) (o.order != 0 && decide (2 ≤ sc)) x.size)
    match r with
    | none => pure .hold
    | some bs => do
      wG d (loadValue sx n bs)
      pure .seq) s

/-- `ld` (07 R153). -/
def execLd (o : MemOp) (s : State) : Outcome State Fault Refusal := scalarLoad false o s
/-- `lds` (07 R153). -/
def execLds (o : MemOp) (s : State) : Outcome State Fault Refusal := scalarLoad true o s

/-- `st` (07 R153). -/
def execSt (o : MemOp) (s : State) : Outcome State Fault Refusal :=
  let n := 2 ^ o.size.toNat
  issue (memIns 1 0 o) noPre (fun d b m => do
    let ea ← scalarEa b (o.imm.sval 5) n m
    let v ← rG d
    let ok ← storeVa ea (leBytes n v.toNat) o.order.toNat (memScope o.scope)
    pure (if ok then .seq else .hold)) s

/-! Full/empty accesses (07 R155 to R159). Modes are numbered as in 07 R156. -/

def feReady (full : Bool) (mode : Nat) : Bool :=
  match mode with
  | 1 => full
  | 2 => full
  | 3 => !full
  | _ => true

def feStores (mode : Nat) : Bool := mode == 3 || mode == 4
def feLoads (mode : Nat) : Bool := mode == 1 || mode == 2 || mode == 5

/-- The access at its home: what it returns, and the state after it, with the bit as 07 R156 gives. -/
def feApply (s : State) (kv pa mode : Nat) (data : Word) : Word × State :=
  let v := BitVec.ofNat 64 (ofLe (homeRead s kv pa 8))
  match mode with
  | 1 => (v, s)
  | 2 => (v, setFull s pa false)
  | 3 => (0, setFull (homeWrite s none kv pa (leBytes 8 data.toNat)) pa true)
  | 4 => (0, setFull (homeWrite s none kv pa (leBytes 8 data.toNat)) pa true)
  | 5 => (v, setFull s pa false)
  | _ => (BitVec.ofNat 64 (b2n (feFull s pa)), s)

/-- The same by a core of this device, whose fetches may still read what its store replaces (07 R147), or for a packet; of a
doubleword in error nothing is known (25 R399). -/
def feAt (s : State) (core : Option Nat) (kv pa mode : Nat) (data : Word) : Word × State :=
  let s1 := match core with | some v => if feStores mode then noteOwn s v kv pa 8 else s | none => s
  feApply (if feLoads mode then garble s1 kv pa 8 else s1) kv pa mode data

/-- A satisfied waiter gets its result. -/
def feDone (s : State) (w : FeWait) (x : Word) : State :=
  match w.core with
  | some v =>
    updCore s v (fun c =>
      match c.wait with
      | .fe d size =>
        let c1 := match d with | some n => c.setG n x | none => c
        invalL1 (c1.complete size)
      | _ => c)
  | none =>
    match w.packet with
    | some p => sendReply s p 3 (if w.err then 20 else 0) p.addr.toNat (if feStores w.mode then [] else leBytes 8 x.toNat)
    | none => s

/-- The number in `ecc` of the overflow record of the waiters on words of a line (19 R329). -/
def overflowLine (pa : Nat) : Nat := 2 ^ 40 + pa / 128

/-- An access to the overflow record of a line meets an uncorrectable error: every core that waits on it gets cause 20 with
sub 1, once (19 R329); one of another node with the answer that ends its wait (DESIGN CHOICE, log 102). -/
def overflowError (s : State) (pa : Nat) : State :=
  if s.ecc.contains (overflowLine pa) then
    let cores := (s.feq.filter (fun w => w.pa / 128 == pa / 128)).filterMap (fun w => w.core) ++
      (s.bards.filter (fun r => r.pa / 128 == pa / 128)).filterMap (fun r => r.core)
    cores.foldl (fun st v => postDeferred st v 1 ((getCore st v).pc.setWidth 64) (getCore st v).ctx.toNat)
      { s with
        ecc := s.ecc.erase (overflowLine pa)
        feq := s.feq.map (fun w => if w.pa / 128 == pa / 128 && w.core.isNone then { w with err := true } else w)
        bards := s.bards.map (fun r => if r.pa / 128 == pa / 128 && r.core.isNone then { r with err := true } else r) }
  else s

/-- A parked store's write meets a full dirty log (05 R112): a core issues its access again, and takes cause 23 there; a
request of another node waits for room. -/
def feUnlogged (s : State) (w : FeWait) : State :=
  match w.core with
  | some v => updCore s v (fun c => { c with wait := .issue })
  | none =>
    match w.packet with
    | some p => { s with fab := { s.fab with full := s.fab.full ++ [p] } }
    | none => s

/-- The home retries its list for the doubleword of `a` from the head, until no waiter's condition holds (07 R157); a
waiter's store is logged before it is performed (05 R111). -/
def feRetry (a : Nat) : Nat → State → State
  | 0, s => s
  | f + 1, s =>
    match s.feq.find? (fun w => w.pa / 8 == a / 8 && feReady (feFull s a) w.mode) with
    | none => s
    | some w =>
      let s1 := { s with feq := s.feq.erase w }
      match (if feStores w.mode then logLater s1 w.log else some s1) with
      | none => feRetry a f (feUnlogged s1 w)
      | some s2 =>
        let bad := feLoads w.mode && eccHit s2 w.pa 8
        let r := feAt s2 w.core w.key w.pa w.mode w.data
        feRetry a f (feDone (match w.core with | some v => if bad then eccTo r.2 v else r.2 | none => r.2) { w with err := w.err || bad } r.1)

/-- The access at its home and what a change of the bit brings about. -/
def feHome (s : State) (core : Option Nat) (kv pa mode : Nat) (data : Word) : Word × State :=
  let r := feAt s core kv pa mode data
  if feFull r.2 pa = feFull s pa then r else (r.1, feRetry pa (s.feq.length + 1) (overflowError r.2 pa))

def feIns (st mode : Nat) (o : FeOp) : Ins :=
  { Ins.of (encFe st mode o) with
    la := o.la.toNat, rep := o.rep, kd := .g, ks := .g, mem := true, d := o.d.toNat, s := o.b.toNat
    reads := fun d b => regsOf .g b ++ (if st = 1 then regsOf .g d else [])
    writes := fun d _ => if st = 1 then [] else regsOf .g d
    late := fun d _ => if st = 1 then regsOf .g d else [] }

/-- A full/empty access by a core. -/
def feAccess (st mode : Nat) (o : FeOp) (s : State) : Outcome State Fault Refusal :=
  let x := feIns st mode o
  issue x noPre (fun d b m => do
    let ea ← scalarEa b (o.imm.sval 5) 8 m
    let s ← getS
    guardT (!isWin ea) (accTrap ea false 19)
    let a := me s
    let l ← translate a ea (if st = 1 then 2 else 1)
    guardT (l.place != .pinned) (accTrap ea false 19)
    let data ← rG d
    if l.place == .remote then
      let forw : ReplyFor := .reg s.cur (if st = 1 then 0 else d) 0 true x.size
      if storesOut s s.cur none || !canSend s (dieOf s.cur) l.node 1 true then holdIssue
      else do
        let tag := nextTagOf s l.node forw
        releaseBefore 3
        modS (fun s => sendReq s l.node 3 1 l.at_ s.core.ctx.toNat mode (if st = 1 then leBytes 8 data.toNat else []) ea forw)
        modC (fun c => { c with wait := .reply tag })
        pure .hold
    else if storesOut s s.cur none || syeStalled s l then holdIssue
    else do
      if st = 1 then logWrite a l else pure ()
      releaseBefore 2
      let s ← getS
      if feReady (feFull s l.at_) mode then do
        eccPost (feLoads mode && eccHit s l.at_ 8)
        let r ← liftS (fun s => feHome s (some s.cur) l.kv l.at_ mode data)
        if st = 1 then pure () else wG d r
        modC invalL1
        pure .seq
      else do
        modS (fun s => { s with
          feq := s.feq ++ [⟨l.at_, mode, data, l.kv, l.logAt a, some s.cur, none, false⟩]
          core := { s.core with wait := .fe (if st = 1 then none else some d) x.size } })
        pure .hold) s

/-- `ld.d.wf` (07 R156). -/
def execLdWf (o : FeOp) (s : State) : Outcome State Fault Refusal := feAccess 0 1 o s
/-- `ld.d.take` (07 R156). -/
def execLdTake (o : FeOp) (s : State) : Outcome State Fault Refusal := feAccess 0 2 o s
/-- `st.d.put` (07 R156). -/
def execStPut (o : FeOp) (s : State) : Outcome State Fault Refusal := feAccess 1 3 o s
/-- `st.d.sf` (07 R156). -/
def execStSf (o : FeOp) (s : State) : Outcome State Fault Refusal := feAccess 1 4 o s
/-- `ld.d.se` (07 R156). -/
def execLdSe (o : FeOp) (s : State) : Outcome State Fault Refusal := feAccess 0 5 o s
/-- `ld.d.fes` (07 R156). -/
def execLdFes (o : FeOp) (s : State) : Outcome State Fault Refusal := feAccess 0 6 o s

/-- The request that this tag names, where it is a wait that can be withdrawn: a full/empty access or a `bard`. -/
def waitTag (s : State) (tag : Nat) : Option Out :=
  s.fab.outs.find? (fun o => o.tag == tag && (o.kind == 3 || (match o.forw with | .bard _ _ _ => true | _ => false)))

/-- The sub field of a request to withdraw a full/empty access or a `bard` (log 15). -/
def withdrawSub : Nat := 1023

/-- A core asks a remote home to withdraw its wait (07 R159, 19 R345): the home answers on the tag of the access. -/
def withdrawRemote (s : State) (v : Nat) : State :=
  let c := getCore s v
  match c.wait with
  | .reply tag =>
    match waitTag s tag with
    | some o =>
      if o.left ≠ 1 || !canSend s (dieOf v) o.dst 1 false then s
      else
        let q := takeSeq s o.dst 1
        let p : Packet :=
          { dst := BitVec.ofNat 10 o.dst, src := s.fab.own, kind := BitVec.ofNat 4 o.kind, nflit := 0, chan := 1, cls := 0,
            seq := BitVec.ofNat 32 q.1, addr := BitVec.ofNat 64 o.addr, ctx := c.ctx, sub := BitVec.ofNat 10 withdrawSub,
            tag := BitVec.ofNat 16 tag, relay := s.fab.own, rz := 0, cause := 0,
            stamp := BitVec.ofNat 64 (traceTime s (dieOf v)), data := [] }
        let s1 := post q.2 p
        { s1 with fab := { s1.fab with outs := s1.fab.outs.map (fun x => if x.tag == tag then { x with left := 2 } else x) } }
    | none => s
  | _ => s

/-- A core asks the home to withdraw its access (07 R159), after a trace stall (24 R385): a local home answers at once. -/
def withdrawFe (s : State) (v : Nat) : State :=
  if stalledSrc s v then s
  else match (getCore s v).wait with
  | .fe _ _ =>
    if s.feq.any (fun w => w.core == some v) then
      let s1 := (s.feq.filter (fun w => w.core == some v)).foldl (fun st w => overflowError st w.pa) s
      updCore { s1 with feq := s1.feq.filter (fun w => w.core != some v) } v (fun c => { c with wait := .none })
    else s
  | _ => withdrawRemote s v

/-- A waiting full/empty access is withdrawn, or found satisfied already (07 R159). -/
def execFeWithdraw (v : Nat) (s : State) : Outcome State Fault Refusal := .next (withdrawFe s v)

end Sys2Proof.Machine
end

