-- ==== Sys2Proof/Machine/Sync.lean ====
section
/-!
DEFINITION. Atomics, exact-sum cells and device barriers (19 R329 to R346).
-/
namespace Sys2Proof.Machine

open Host (Outcome)

/-! What an atomic computes (19 R334, R340): the new memory and the result, of `n` bytes of memory -/

/-- A binary operation on FP32 values, rounded RNE. -/
def f32op (op : FVal → FVal → FVal) (a b : Nat) : Nat := (rne fp32 (op (fp32.dec a) (fp32.dec b))).1

/-- New value of a word of `w` bits. -/
def atomNew (op w old v t : Nat) : Nat :=
  let so := sextI old w
  let sv := sextI v w
  match op with
  | 0 => (old + v) % 2 ^ w
  | 1 => old &&& v
  | 2 => old ||| v
  | 3 => old ^^^ v
  | 4 => if so ≤ sv then old else v
  | 5 => if so ≤ sv then v else old
  | 6 => minN old v
  | 7 => maxN old v
  | 8 => v
  | 9 => if old = t then v else old
  | 10 => f32op (fun a b => (fadd a b).1) old v
  | 11 => f32op fmin old v
  | 12 => f32op fmax old v
  | _ => if t ≤ old + 1 then 0 else old + 1

/-- Bits of the result that are sign-extended: those of `amin` and `amax` (19 R334). -/
def atomSx (op w : Nat) : Nat := if op = 4 ∨ op = 5 then w else 0

def xlim : Int := 2 ^ 319 - 1

/-- `axsum` (19 R340): the cell after it. -/
def axsumCell (c v : Nat) : Nat :=
  let st := fld c 323 320
  let i := sextI c 320
  let r : Int × Nat :=
    match fp32.dec v with
    | .nan => (i, st ||| 4)
    | .inf s => (i, st ||| (if s then 2 else 1))
    | .fin s n e _ =>
      let x := i + scaled s n e (-149)
      if xlim < x then (xlim, st ||| 8) else if x < -xlim then (-xlim, st ||| 8) else (x, st)
  wrapN 320 r.1 + r.2 * 2 ^ 320

/-- `axread` (19 R340). -/
def axreadCell (c : Nat) : Nat :=
  let b := fun (n : Nat) => bitOf c (320 + n)
  let i := sextI c 320
  if b 2 || (b 0 && b 1) then 0x7FC00000
  else if b 0 then 0x7F800000
  else if b 1 then 0xFF800000
  else if b 3 then (if 0 < i then 0x7F800000 else 0xFF800000)
  else (rne fp32 (ofScaled i (-149) false)).1

/-- Bytes that an atomic covers. -/
def atomBytes (op : Nat) (dbl : Bool) : Nat := if op = 13 ∨ op = 14 then 64 else if dbl then 8 else 4

/-- Old memory of `n` bytes to new memory and result, before sign extension. -/
def atomApply (op n old v t : Nat) : Nat × Nat :=
  match op with
  | 13 => (axsumCell old (v % 2 ^ 32), fld old 323 320)
  | 14 => (old, axreadCell old)
  | _ => (atomNew op (8 * n) old (v % 2 ^ (8 * n)) (t % 2 ^ (8 * n)), old)

/-- The atomic at its home, indivisibly (19 R333). -/
def atomHome (s : State) (kv pa op : Nat) (dbl : Bool) (v t : Nat) : Nat × State :=
  let n := atomBytes op dbl
  let r := atomApply op n (ofLe (homeRead s kv pa n)) v t
  (r.2, if op = 14 then s else homeWrite s none kv pa (leBytes n r.1))

/-- The result register of an atomic from what its home returns. -/
def atomResult (op : Nat) (dbl : Bool) (x : Nat) : Word :=
  let w := 8 * atomBytes op dbl
  if atomSx op w = 0 then BitVec.ofNat 64 x else sextW x w

/-- Kind-specific field of an atomic packet (log 15). -/
def atomSub (op : Nat) (dbl : Bool) (order scope : Nat) : Nat := op + 32 * b2n dbl + 64 * (order % 4) + 256 * (scope % 4)

/-- The home that 19 R331 gives: a cause where there is none. -/
def atomPlace (a : Agent) (ea : Nat) (l : Loc) : M Unit := do
  let s ← getS
  match l.place with
  | .pad =>
    let o := ownerOf s (clusterOf a.v) (tileOf ea)
    if 0x10 ≤ o && o < 0x18 then guardT (ownerOk s a.v o) (accTrap ea false 8) else raise (accTrap ea false 19)
  | .hbm => guardT l.sync (accTrap ea false 19)
  | .remote => guardT l.sync (accTrap ea false 19)
  | _ => raise (accTrap ea false 19)

def atomIns (op : Nat) (o : Atom) : Ins :=
  let t := (o.t.map (fun x => x.toNat)).getD 0
  { Ins.of (encAtom op o) with
    la := o.la.toNat, d := o.d.toNat, s := o.a.toNat
    reads := fun _ a => regsOf .g a ++ regsOf .g o.v.toNat ++ regsOf .g t
    writes := fun d _ => regsOf .g d
    late := fun _ _ => regsOf .g o.v.toNat ++ regsOf .g t }

def atomic (op : Nat) (o : Atom) (s : State) : Outcome State Fault Refusal :=
  let x := atomIns op o
  let rel := o.order.getLsbD 1
  let acq := o.order.getLsbD 0
  let scope := memScope o.scope
  issue x noPre (fun d ra _ => do
    let p ← rG ra
    checkPtr false p
    let ea := ptrVa p
    checkAlign (ea % atomBytes op o.dbl == 0) ea
    let s ← getS
    let a := me s
    let l ← translate a ea (if op = 14 then 1 else 3)
    atomPlace a ea l
    let v ← rG o.v.toNat
    let t ← rG ((o.t.map (fun x => x.toNat)).getD 0)
    let w ← ackWait rel scope
    let ok ← if w then pure true else bankTurn ea l
    if !ok then pure .hold
    else if w || (l.place == .remote && (storesOut s s.cur (some (l.node, l.at_)) || !canSend s (dieOf s.cur) l.node 1 true)) then holdIssue
    else do
      if op = 14 || l.place == .remote then pure () else logWrite a l
      if rel then releaseBefore scope else pure ()
      if l.place == .remote then do
        let s ← getS
        let forw : ReplyFor := .reg s.cur d (atomSx op (8 * atomBytes op o.dbl)) (acq && decide (2 ≤ scope)) x.size
        let tag := nextTagOf s l.node forw
        modS (fun s => sendReq s l.node 2 1 l.at_ s.core.ctx.toNat (atomSub op o.dbl o.order.toNat scope)
          (leBytes 8 v.toNat ++ leBytes 8 t.toNat) ea forw)
        modC (fun c => { c with wait := .reply tag })
        pure .hold
      else do
        modS (fun s => drainAt s s.cur l.at_ (atomBytes op o.dbl))
        modS (fun s => if op = 14 then s else noteOwn s s.cur l.kv l.at_ (atomBytes op o.dbl))
        meetEcc l.kv l.at_ (atomBytes op o.dbl)
        let r ← liftS (fun s => atomHome s l.kv l.at_ op o.dbl v.toNat t.toNat)
        wG d (atomResult op o.dbl r)
        if acq then acquireAfter scope else pure ()
        pure .seq) s

/-- `aadd` (19 R334). -/
def execAadd (o : Atom) (s : State) : Outcome State Fault Refusal := atomic 0 o s

/-- `aand` (19 R334). -/
def execAand (o : Atom) (s : State) : Outcome State Fault Refusal := atomic 1 o s

/-- `aor` (19 R334). -/
def execAor (o : Atom) (s : State) : Outcome State Fault Refusal := atomic 2 o s

/-- `axor` (19 R334). -/
def execAxor (o : Atom) (s : State) : Outcome State Fault Refusal := atomic 3 o s

/-- `amin` (19 R334). -/
def execAmin (o : Atom) (s : State) : Outcome State Fault Refusal := atomic 4 o s

/-- `amax` (19 R334). -/
def execAmax (o : Atom) (s : State) : Outcome State Fault Refusal := atomic 5 o s

/-- `aminu` (19 R334). -/
def execAminu (o : Atom) (s : State) : Outcome State Fault Refusal := atomic 6 o s

/-- `amaxu` (19 R334). -/
def execAmaxu (o : Atom) (s : State) : Outcome State Fault Refusal := atomic 7 o s

/-- `aswap` (19 R334). -/
def execAswap (o : Atom) (s : State) : Outcome State Fault Refusal := atomic 8 o s

/-- `acas` (19 R334). -/
def execAcas (o : Atom) (s : State) : Outcome State Fault Refusal := atomic 9 o s

/-- `afadd` (19 R334). -/
def execAfadd (o : Atom) (s : State) : Outcome State Fault Refusal := atomic 10 o s

/-- `afmin` (19 R334). -/
def execAfmin (o : Atom) (s : State) : Outcome State Fault Refusal := atomic 11 o s

/-- `afmax` (19 R334). -/
def execAfmax (o : Atom) (s : State) : Outcome State Fault Refusal := atomic 12 o s

/-- `axsum` (19 R340). -/
def execAxsum (o : Atom) (s : State) : Outcome State Fault Refusal := atomic 13 o s

/-- `axread` (19 R340). -/
def execAxread (o : Atom) (s : State) : Outcome State Fault Refusal := atomic 14 o s

/-- `aincw` (19 R334). -/
def execAincw (o : Atom) (s : State) : Outcome State Fault Refusal := atomic 15 o s

/-! Combines (07 R160) -/

def combine (sub : Nat) (l : List Word) : Word :=
  match sub with
  | 0 => l.foldl (fun a b => a &&& b) (BitVec.allOnes 64)
  | 1 => l.foldl (fun a b => a ||| b) 0
  | 2 => l.foldl (fun a b => a + b) 0
  | 3 => BitVec.ofNat 64 (l.filter (fun x => x != 0)).length
  | 4 => l.foldl (fun a b => if a.toInt ≤ b.toInt then a else b) (BitVec.ofNat 64 (2 ^ 63 - 1))
  | 5 => l.foldl (fun a b => if a.toInt ≤ b.toInt then b else a) (BitVec.ofNat 64 (2 ^ 63))
  | _ => 0

/-! Device barriers (19 R342 to R346) -/

def objN (x : Nat) : Nat := x % 65536
def objArr (x : Nat) : Nat := fld x 31 16
def objEpoch (x : Nat) : Nat := fld x 63 32
def mkObj (epoch arr n : Nat) : Nat := epoch % 2 ^ 32 * 2 ^ 32 + arr % 65536 * 65536 + n % 65536

def objGet (s : State) (kv pa : Nat) : Nat := ofLe (homeRead s kv pa 8)
def objPut (s : State) (kv pa x : Nat) : State := homeWrite s none kv pa (leBytes 8 x)

/-- A participant gets its result (19 R344). -/
def bardDone (s : State) (r : BardRec) (x : Word) : State :=
  match r.core with
  | some v =>
    updCore s v (fun c =>
      match c.wait with
      | .bard d size => invalL1 ((c.setG d x).complete size)
      | _ => c)
  | none =>
    match r.packet with
    | some p => sendReply s p 2 (if r.err then 20 else 0) p.addr.toNat (leBytes 8 x.toNat)
    | none => s

/-- The participants of an episode whose record has been generated get their results at one moment (19 R344). -/
def bardGive (s : State) (kv pa : Nat) : State :=
  let mine := s.bards.filter (fun r => r.pa == pa)
  let x := objGet s kv pa
  let pay := mine.map (fun r => r.payload)
  let s1 := objPut { s with bards := s.bards.filter (fun r => r.pa != pa) } kv pa (mkObj (objEpoch x + 1) 0 (objN x))
  let s2 := mine.foldl (fun st r => bardDone st r (combine r.sub pay)) s1
  (mine.filterMap (fun r => r.core)).foldl (fun st v => hears st v (syeSrc pa)) s2

/-- The episode at `pa` completes (19 R344): its record is stamped past those of the messages that brought it about, and where
the engine stalls on the record the participants wait for it (24 R380, R385). -/
def bardComplete (s0 : State) (ctx kv pa : Nat) (least : Nat := 0) : State :=
  let s := overflowError s0 pa
  let x := objGet s kv pa
  let heard := (s.bards.filter (fun r => r.pa == pa)).foldl (fun t r => maxN t r.heard) least
  let s1 := emit s (syeSrc pa) ctx 0x0F 6 0 ((objEpoch x + 1) % 2 ^ 24) none heard
  if stalledSrc s1 (syeSrc pa) then { s1 with bards := s1.bards.map (fun r => if r.pa == pa then { r with told := true } else r) }
  else bardGive s1 kv pa

/-- A synchronisation engine that no longer stalls gives the results that it held back. -/
def syeGoOn (s : State) (src : Nat) : State :=
  if stalledSrc s src then s
  else (s.bards.filter (fun r => r.told && syeSrc r.pa == src)).foldl (fun st r => if st.bards.contains r then bardGive st r.key r.pa else st) s

/-- An arrival at the home. -/
def bardArrive (s : State) (ctx : Nat) (r : BardRec) : State :=
  let x := objGet s r.key r.pa
  let a := (objArr x + 1) % 65536
  let s1 := objPut { s with bards := s.bards ++ [r] } r.key r.pa (mkObj (objEpoch x) a (objN x))
  if objN x = 0 ∨ objN x ≤ a then bardComplete s1 ctx r.key r.pa else s1

/-- `bard.drop` at the home (19 R343). -/
def bardDropAt (s : State) (ctx kv pa : Nat) (least : Nat := 0) : State :=
  let x := objGet s kv pa
  let n := objN x - 1
  let s1 := if objN x = 0 then s else objPut s kv pa (mkObj (objEpoch x) (objArr x) n)
  if 0 < objArr x ∧ n ≤ objArr x then bardComplete s1 ctx kv pa least else s1

/-- `bard.init` at the home (19 R343): the object before it. -/
def bardInitAt (s : State) (kv pa n : Nat) : Nat × State :=
  let x := objGet s kv pa
  (x, if objArr x = 0 then objPut s kv pa (mkObj (objEpoch x) 0 n) else s)

def bardIns (sub : Nat) (o : SysOp) : Ins :=
  sysIns 2 sub o (regsOf .g o.s.toNat ++ regsOf .g o.t.toNat) (regsOf .g o.d.toNat)

/-- The object of a `bard` (19 R343). -/
def bardObj (t : Nat) : M (Nat × Loc) := do
  let p ← rG t
  checkPtr false p
  let ea := ptrVa p
  checkAlign (ea % 8 == 0) ea
  guardT (!isWin ea) (accTrap ea false 19)
  let s ← getS
  let l ← translate (me s) ea 3
  guardT (l.sync && (l.place == .hbm || l.place == .remote)) (accTrap ea false 19)
  pure (ea, l)

/-- A `bard` to a remote object travels as an atomic of op 16 + sub (log 15). -/
def bardSend (x : Ins) (sub d : Nat) (size : Nat) (ea : Nat) (l : Loc) (pay : Word) : M Flow := do
  let s ← getS
  let forw : ReplyFor := if sub < 7 then .bard s.cur d size else .reg s.cur d 0 false size
  if storesOut s s.cur none || !canSend s (dieOf s.cur) l.node 1 true then holdIssue
  else do
    let tag := nextTagOf s l.node forw
    releaseBefore 3
    modS (fun s => sendReq s l.node 2 1 l.at_ s.core.ctx.toNat (atomSub (16 + sub) true 3 3) (leBytes 8 pay.toNat ++ leBytes 8 0) ea forw)
    opensLater x
    modC (fun c => { c with wait := .reply tag })
    pure .hold

/-- An arrival (19 R344). -/
def bardBody (sub : Nat) (o : SysOp) (s : State) : Outcome State Fault Refusal :=
  let x := bardIns sub o
  issue x noPre (fun _ _ _ => do
    let q ← bardObj o.t.toNat
    let pay ← rG o.s.toNat
    if q.2.place == .remote then bardSend x sub o.d.toNat x.size q.1 q.2 pay
    else do
      let s ← getS
      if storesOut s s.cur none || syeStalled s q.2 then holdIssue
      else do
        logWrite (me s) q.2
        releaseBefore 2
        meetEcc q.2.kv q.2.at_ 8
        opensLater x
        modC (fun c => { c with wait := .bard o.d.toNat x.size })
        modS (fun s => bardArrive s s.core.ctx.toNat ⟨q.2.at_, sub, pay, q.2.kv, q.2.logAt (me s), some s.cur, none,
          heardAt s s.cur (syeSrc q.2.at_), false, false⟩)
        pure .hold) s

/-- `bard.and` (19 R344). -/
def execBardAnd (o : SysOp) (s : State) : Outcome State Fault Refusal := bardBody 0 o s

/-- `bard.or` (19 R344). -/
def execBardOr (o : SysOp) (s : State) : Outcome State Fault Refusal := bardBody 1 o s

/-- `bard.add` (19 R344). -/
def execBardAdd (o : SysOp) (s : State) : Outcome State Fault Refusal := bardBody 2 o s

/-- `bard.popc` (19 R344). -/
def execBardPopc (o : SysOp) (s : State) : Outcome State Fault Refusal := bardBody 3 o s

/-- `bard.min` (19 R344). -/
def execBardMin (o : SysOp) (s : State) : Outcome State Fault Refusal := bardBody 4 o s

/-- `bard.max` (19 R344). -/
def execBardMax (o : SysOp) (s : State) : Outcome State Fault Refusal := bardBody 5 o s

/-- `bard.none` (19 R344). -/
def execBardNone (o : SysOp) (s : State) : Outcome State Fault Refusal := bardBody 6 o s

/-- `bard.drop` (19 R343). -/
def execBardDrop (o : SysOp) (s : State) : Outcome State Fault Refusal :=
  let x := bardIns 7 o
  issue x noPre (fun _ _ _ => do
    let q ← bardObj o.t.toNat
    if q.2.place == .remote then bardSend x 7 0 x.size q.1 q.2 0
    else do
      let s ← getS
      if syeStalled s q.2 then holdIssue
      else do
        logWrite (me s) q.2
        modS (fun s => drainAt s s.cur q.2.at_ 8)
        meetEcc q.2.kv q.2.at_ 8
        modS (fun s => bardDropAt s s.core.ctx.toNat q.2.kv q.2.at_ (heardAt s s.cur (syeSrc q.2.at_)))
        pure .seq) s

/-- `bard.init` (19 R343). -/
def execBardInit (o : SysOp) (s : State) : Outcome State Fault Refusal :=
  let x := bardIns 8 o
  issue x noPre (fun _ _ _ => do
    let q ← bardObj o.t.toNat
    let n ← rG o.s.toNat
    if q.2.place == .remote then bardSend x 8 o.d.toNat x.size q.1 q.2 n
    else do
      let s ← getS
      if syeStalled s q.2 then holdIssue
      else do
        logWrite (me s) q.2
        modS (fun s => drainAt s s.cur q.2.at_ 8)
        meetEcc q.2.kv q.2.at_ 8
        let r ← liftS (fun s => bardInitAt s q.2.kv q.2.at_ (n.toNat % 65536))
        wG o.d.toNat (BitVec.ofNat 64 r)
        pure .seq) s

/-- The home withdraws the arrival of an episode under way (19 R345): none where it has completed; its write of the object
is logged first, and waits where the log is full (05 R111, R112). -/
def bardTake (s : State) (p : BardRec → Bool) : Option (Except BardRec State) :=
  match s.bards.find? p with
  | none => none
  | some r =>
    match logLater s r.log with
    | none => some (.error r)
    | some s1 =>
      let x := objGet s1 r.key r.pa
      some (.ok (objPut { s1 with bards := s1.bards.erase r } r.key r.pa (mkObj (objEpoch x) (objArr x + 65535) (objN x))))

/-- A core asks to withdraw its arrival (19 R345). -/
def withdrawBard (s : State) (v : Nat) : State :=
  match (getCore s v).wait with
  | .bard _ _ =>
    match bardTake (s.bards.foldl (fun st r => if r.core == some v then overflowError st r.pa else st) s) (fun r => r.core == some v) with
    | some (.ok s1) => updCore s1 v (fun c => { c with wait := .none })
    | some (.error r) =>
      if s.dirtyHeld.contains (69, v) then s
      else { postExit s (irqCore s r.log.ctx) r.log.ctx (BitVec.ofNat 64 r.log.gpa) with dirtyHeld := s.dirtyHeld ++ [(69, v)] }
    | none => s
  | _ => s

/-- A waiting arrival is withdrawn, or found completed already (19 R345); a stall of the core or of the engine comes first (24 R385). -/
def execBardWithdraw (v : Nat) (s : State) : Outcome State Fault Refusal :=
  .next (match (getCore s v).wait with
    | .bard _ _ =>
      if s.dirtyHeld.contains (69, v) || stalledSrc s v || s.bards.any (fun r => r.core == some v && syeBusy s (syeSrc r.pa)) then s
      else withdrawBard s v
    | _ => withdrawRemote s v)

end Sys2Proof.Machine
end

