-- ==== Sys2Proof/Machine/Grid.lean ====
section
/-!
DEFINITION. Grids: start, completion and host doors (11 R246 to R253).
-/
namespace Sys2Proof.Machine

open Host (Outcome)

/-! Packets (11 R246, R247) -/

def gWord (p : List Word) (i : Nat) : Nat := (p.getD i 0).toNat

/-- A mask of four doublewords, moved by the event base. -/
def gMask (p : List Word) (i : Nat) : BitVec 256 :=
  (BitVec.ofNat 256 (gWord p i + 2 ^ 64 * gWord p (i + 1) + 2 ^ 128 * gWord p (i + 2) + 2 ^ 192 * gWord p (i + 3))).rotateLeft (gField p 0 39 32)

/-- Does the packet break a rule, its type apart? -/
def packetBad (p : List Word) : Bool :=
  gField p 0 60 52 != 0 || gField p 0 45 40 != 0 || gField p 0 31 16 != 0 || gField p 1 63 48 != 0 || gField p 2 63 48 != 0 ||
  gWord p 14 != 0 || gWord p 15 != 0 || gField p 1 15 0 == 0 || gField p 1 31 16 == 0 || gField p 1 47 32 == 0 ||
  decide (8 < gField p 0 51 48) || decide (3 < gField p 0 15 12) || gField p 2 47 0 % 8 != 0

def noGangs (p : List Word) : Bool := bitOf (gWord p 0) 61

/-- The gang size of a packet's type, or the code that the packet's future takes. -/
def packetType (s : State) (q ctx : Nat) (p : List Word) : Except Nat Nat × State :=
  if packetBad p then (.error 21, s)
  else if noGangs p then (.ok 1, s)
  else
    match readTask (q * 64) ctx (gField p 0 15 0) false s with
    | .error t => (.error t.code, s)
    | .ok (.error c, s1) => (.error c, s1)
    | .ok (.ok (ty, _), s1) => (.ok ty.gang, s1)

def updGrid (s : State) (id : Nat) (f : Grid → Grid) : State := { s with grids := s.grids.map (fun x => if x.id = id then f x else x) }

def gridTrace (s : State) (x : Grid) (start : Bool) : State :=
  emit s (640 + x.q) x.ctx 0x8E 6 0 (b2n start + 256 * gField x.packet 0 39 32) (some (x.handle.toNat, gWord x.packet 0))

/-! Completion (11 R250) -/

/-- The completion word at its home: what it changes of the outcome; none: it has been sent to another node. An error where
the write waits. -/
def completionWord (x : Grid) : M (Option (Option Nat)) := do
  let cw := gField x.packet 2 47 0
  if cw = 0 || cw % 8 != 0 then pure (some none)
  else do
    let r ← tryM (translate ⟨x.q * 64, x.ctx, .u⟩ cw 3)
    match r with
    | .error t => pure (some (some t.code))
    | .ok l =>
      let s ← getS
      if !l.sync then pure (some (some 19))
      else if l.place == .remote then do
        guardT (canSend s (x.q / 4) l.node 1 true) { code := 255 }
        modS (fun s => sendReq s l.node 2 1 l.at_ x.ctx (atomSub 0 true 2 2) (leBytes 8 (2 ^ 64 - 1) ++ leBytes 8 0) cw (.grid x.q x.id))
        pure none
      else if eccHit s l.at_ 8 then pure (some (some 20))
      else do
        guardT (!syeStalled s l) { code := 255 }
        logWrite ⟨irqCore s x.ctx, x.ctx, .u⟩ l
        modS (fun s => homeWrite s none l.kv l.at_ (leBytes 8 (ofLe (homeRead s l.kv l.at_ 8) + 2 ^ 64 - 1)))
        pure (some none)

/-- The outcome that the tasks of a grid give. -/
def gridOutcome (x : Grid) : FtState × Nat × Nat :=
  match x.poison with
  | some c => (.poisoned, c, 0)
  | none => if x.okAll then (.resolved, 0, x.total) else (.cancelled, 0, 0)

/-- Every L1 of a partition is emptied. -/
def invalPartition (s : State) (q : Nat) : State :=
  (listedCores s).foldl (fun st p => if samePart s q (quadOf p.1) then updCore st p.1 invalL1 else st) s

/-- Step 4: the future finishes, and the grid is gone. `bad` is the code that the completion word met. -/
def gridEnd (s : State) (x : Grid) (bad : Option Nat) : State :=
  let ran := decide (0 < x.total) || (noGangs x.packet && x.poison.isNone)
  let o := match bad with
    | some c => if ran then (FtState.poisoned, c, 0) else gridOutcome x
    | none => gridOutcome x
  let s1 := if x.handle = 0 then s else devEvent x.ctx (.finish x.handle o.1 (BitVec.ofNat 64 o.2.2) o.2.1) (hears s (576 + hHome x.handle) (640 + x.q))
  { s1 with grids := s1.grids.filter (fun y => y.id != x.id) }

/-- The end record of a grid, then its finish, which waits where the record does (24 R385). -/
def gridFinish (s : State) (x : Grid) (bad : Option Nat) : State :=
  let s1 := gridTrace s x false
  if stalledSrc s1 (640 + x.q) then updGrid s1 x.id (fun y => { y with told := some bad }) else gridEnd s1 x bad

/-- Step 3. A write of the word that meets a full dirty log, or finds no allowance, waits; the answer of another node
(`gridAnswer`) comes before step 4. -/
def gridWord (s : State) (x : Grid) : State :=
  match completionWord x s with
  | .error t => if t.code = 23 then { postExit s (irqCore s x.ctx) x.ctx t.tval with dirtyHeld := s.dirtyHeld ++ [(67, x.id)] } else s
  | .ok (none, s1) => s1
  | .ok (some bad, s1) => gridFinish s1 x bad

/-- The answer to the completion word of a grid. -/
def gridAnswer (s : State) (id cause : Nat) : State :=
  match s.grids.find? (fun x => x.id == id) with
  | none => s
  | some x => gridFinish s x (if cause = 0 then none else some cause)

/-- A grid completes: steps 1 and 2, then its word. -/
def completeGrid (s : State) (x : Grid) : State :=
  let set := gMask x.packet 8
  let s1 := updCtx (invalPartition s x.q) x.ctx (fun c => { c with events := c.events ||| set })
  gridWord (updGrid s1 x.id (fun y => { y with ended := true })) { x with ended := true }

/-- Does a grid wait for a full dirty log, for room in its trace buffer, or for the answer of another node? -/
def gridWaits (s : State) (x : Grid) : Bool :=
  s.dirtyHeld.contains (67, x.id) || stalledSrc s (640 + x.q) ||
  s.fab.outs.any (fun o => match o.forw with | .grid _ id => id == x.id | _ => false)

/-- Every gang has been handed out and has ended (11 R250). -/
def execGridComplete (gr : Nat) (s : State) : Outcome State Fault Refusal :=
  .next (match s.grids.find? (fun x => x.id == gr) with
    | none => s
    | some x =>
      if !(x.started && x.next == x.total && x.live == 0) || gridWaits s x then s
      else
        match x.told with
        | some bad => gridEnd s x bad
        | none => if x.ended then gridWord s x else completeGrid s x)

/-! Start (11 R248) -/

/-- Are all events that a packet waits on set? -/
def gridReady (s : State) (x : Grid) : Bool :=
  let w := gMask x.packet 4
  (getCtx s x.ctx).events &&& w == w

/-- A packet starts: seed, event bits, then its gangs can be stolen; without gangs it completes. -/
def startGrid (s : State) (x : Grid) : State :=
  let s1 := updCtx s x.ctx (fun c => { c with
    seed := x.packet.getD 3 0, events := if bitOf (gWord x.packet 0) 62 then c.events &&& ~~~(gMask x.packet 8) else c.events })
  let s2 := { s1 with bqes := s1.bqes.map (fun p => (p.1, { p.2 with grids := p.2.grids.filter (· != x.id) })) }
  let t := packetType s2 x.q x.ctx x.packet
  let total := gField x.packet 1 15 0 * gField x.packet 1 31 16 * gField x.packet 1 47 32
  let x1 : Grid := match t.1 with
    | .error c => { x with started := true, okAll := false, poison := some (c % 256) }
    | .ok n => { x with started := true, total := if noGangs x.packet then 0 else total, gang := n }
  let s3 := gridTrace { t.2 with grids := t.2.grids.filter (fun y => y.id != x.id) ++ [x1] } x1 true
  if x1.total = 0 then completeGrid s3 x1 else s3

/-- A packet of the launch queue starts, after those before it that can start too (11 R248). -/
def execGridStart (gr : Nat) (s : State) : Outcome State Fault Refusal :=
  .next (match s.grids.find? (fun x => x.id == gr) with
    | none => s
    | some x =>
      let earlier := (s.grids.takeWhile (fun y => y.id != gr)).filter (fun y => y.q == x.q && !y.started)
      if !x.started && gridReady s x && !earlier.any (gridReady s) && !stalledSrc s (640 + x.q) then startGrid s x else s)

/-! Doors (11 R252, R253) -/

def doorAt (ctx off : Nat) : Nat := ctx * 4096 + off
def getBqe (s : State) (q : Nat) : Bqe := s.bqes.getD q Bqe.reset
def updBqe (s : State) (q : Nat) (f : Bqe → Bqe) : State := { s with bqes := s.bqes.insert q (f (getBqe s q)) }

/-- A slot's packet joins the launch queue; an error: a write of its entry waits on a full dirty log, for this address, or for a
trace stall of its scheduler (24 R385). -/
def doorLaunch (s : State) (q ctx : Nat) (packet : List Word) : Except (Option Word) State :=
  if !ctxValid s ctx then .ok s
  else if spillWaits s ctx (q * 8) then .error none
  else
    match (do
      let h ← allocEntry (q * 8) ctx 3 0 1
      discardHandle h
      modS (fun s => queueGrid s q ctx packet h)) s with
    | .ok (_, s1) => .ok s1
    | .error t => if t.code = 23 then .error (some t.tval) else .ok (queueGrid (postDeferred s (irqCore s ctx) 22 0 ctx) q ctx packet 0)

/-- Scan from the head on, at most the 31 slots; a full dirty log, or a stalled scheduler, stops it before its slot until there is room (05
R112, 24 R385). -/
def doorScan (q ctx : Nat) : Nat → State → State
  | 0, s => s
  | f + 1, s =>
    let head := (getBqe s q).heads.getD ctx 0
    let at_ := doorAt ctx (0x80 + 128 * head)
    let bytes := memRead (getBqe s q).doors at_ 128
    let packet := (chunks 8 bytes).map (fun b => BitVec.ofNat 64 (ofLe b))
    if bitOf (gWord packet 0) 63 then
      match doorLaunch s q ctx packet with
      | .error gpa =>
        { (match gpa with | some g => postExit s (irqCore s ctx) ctx g | none => s) with dirtyHeld := s.dirtyHeld ++ [(71, q * 64 + ctx)] }
      | .ok s1 =>
        doorScan q ctx f (updBqe s1 q (fun b => { b with
          doors := memWrite b.doors (at_ + 7) [BitVec.ofNat 8 (gWord packet 0 / 2 ^ 56 % 128)], heads := b.heads.insert ctx ((head + 1) % 31) }))
    else s

/-- A write of notify (11 R252). -/
def execDoorNotify (q ctx : Nat) (s : State) : Outcome State Fault Refusal :=
  .next (if s.dirtyHeld.contains (71, q % 8 * 64 + ctx % 64) then s else doorScan (q % 8) (ctx % 64) 31 s)

end Sys2Proof.Machine
end

