-- ==== Sys2Proof/Machine/Port.lean ====
section
/-!
DEFINITION. Ports, slots, lanes and reconfiguration (21 R349 to R353, R364, R367), and how a lost request is reported
(21 R356, R359).
-/
namespace Sys2Proof.Machine

open Host (Outcome)

def modFab (s : State) (f : Fabric → Fabric) : State := { s with fab := f s.fab }
def getPort (s : State) (n : Nat) : Port := s.fab.ports.getD n Port.reset
def updPort (s : State) (n : Nat) (f : Port → Port) : State :=
  modFab s (fun x => { x with ports := x.ports.insert n (f (getPort s n)) })

/-- What `f` does at each of the 32 ports, in turn. -/
def eachPort (s : State) (f : Nat → State → State) : State := (List.range 32).foldl (fun st n => f n st) s

/-- The fabric interface that serves a port, as a trace source (21 R349, 24 R377). -/
def fiuSrc (port : Nat) : Nat := 650 + port / 16 % 2

/-- A node that the armed table no longer reaches (21 R367). -/
def leavingNode (s : State) (n : Nat) : Bool :=
  s.fab.farm != 0 && (s.fab.reach.getD n 0).getLsbD 15 && !(s.fab.reachArmed.getD n 0).getLsbD 15

def leavers (s : State) : List Nat := (s.fab.reach.map (fun p => p.1)).filter (leavingNode s)

/-! Lost requests -/

def dropOut (s : State) (o : Out) : State := modFab s (fun f => { f with outs := f.outs.erase o })

/-- Cause 20 with sub 18 at a core (21 R359). -/
def lostError (s : State) (v : Nat) (tv : Word) : State := postDeferred s v 18 tv (getCore s v).ctx.toNat

/-- The active core's instruction that waits for a lost answer ends with its registers as they were (19 R336). -/
def lostHere (s : State) : State :=
  match s.core.wait with
  | .reply _ => s
  | .vec _ _ _ _ _ _ _ _ _ size => { s with core := s.core.complete size }
  | .far _ _ _ _ size => { s with core := s.core.complete size }
  | _ => s

/-- Core `v` waits for the answer with this tag. -/
def waitsFor (s : State) (v tag : Nat) : Bool := (getCore s v).wait == .reply tag

/-- Core `v` waits for elements of the load with this number. -/
def waitsElems (s : State) (v id : Nat) : Bool :=
  match (getCore s v).wait with
  | .vec i _ _ _ _ _ _ _ _ _ => i == id
  | .far i left _ _ _ => i == id && left != 0
  | _ => false

def lostReply (s : State) (v tag size : Nat) : State :=
  if waitsFor s v tag then updCore (lostError s v ((getCore s v).pc.setWidth 64)) v (fun c => c.complete size) else s

/-- The node that forwards for another has one answer fewer to wait for; `bad` where a member has not performed the store
(21 R363). The `va` of such a request remembers that of an earlier one. -/
def forwarded (s : State) (p : Packet) (bad : Bool) : State :=
  if p.kind = 8 then
    let rest := s.fab.outs.filter (fun o => o.forw == .fwd p)
    if rest.isEmpty then sendReply s p 9 (if bad then 18 else 0) p.addr.toNat []
    else if bad then modFab s (fun f => { f with outs := f.outs.map (fun o => if o.forw == .fwd p then { o with va := 1 } else o) })
    else s
  else s

/-- The link reports that a request, or its answer, is lost (21 R356, R359, 19 R336). -/
def loseOut (s : State) (o : Out) : State :=
  let s1 := modFab (dropOut s o) (fun f => { f with outbox := f.outbox.filter (fun p => !(p.cls == 0 && p.dst.toNat == o.dst && p.tag.toNat == o.tag)) })
  match o.forw with
  | .reg v _ _ _ size => lostReply s1 v o.tag size
  | .task v _ _ _ _ size => lostReply s1 v o.tag size
  | .bard v _ size => lostReply s1 v o.tag size
  | .pop v _ => if waitsFor s1 v o.tag then updCore (lostError s1 v ((getCore s1 v).pc.setWidth 64)) v (fun c => { c with wait := .none }) else s1
  | .vec v id _ => if waitsElems s1 v id then asCore (lostError s1 v ((getCore s1 v).pc.setWidth 64)) v lostHere else s1
  | .store v pc => lostError s1 v (BitVec.ofNat 64 pc)
  | .row cl id m _ => rowAnswer s1 cl id m 20 []
  | .grid _ id => gridAnswer (postDeferred s1 (irqCore s1 o.ctx) 18 0 o.ctx) id 20
  | .fwd p => if p.kind = 8 then forwarded s1 p true else postDeferred s1 (irqCore s1 p.ctx.toNat) 18 0 p.ctx.toNat

/-- A request whose packet has not left and whose destination is not reachable any more is reported (21 R364). -/
def reportQueued (s : State) : State :=
  let waits := fun (o : Out) => s.fab.outbox.any (fun p => p.cls == 0 && p.dst.toNat == o.dst && p.tag.toNat == o.tag)
  (s.fab.outs.filter (fun o => waits o && !(s.fab.reach.getD o.dst 0).getLsbD 15)).foldl loseOut s

/-- The link reports the loss of the request with tag `n`; a request of this node to itself that has been performed is no
longer queued. -/
def execTransportFailure (n : Nat) (done : Bool) (s : State) : Outcome State Fault Refusal :=
  .next (match s.fab.outs.find? (fun o => o.tag == n) with
    | none => s
    | some o =>
      let s1 := loseOut s o
      if done then modFab s1 (fun f => { f with outbox := s.fab.outbox }) else s1)

/-! Slots (21 R350, R353) -/

/-- The peer of a port in the current slot. -/
def peerOf (s : State) (n : Nat) : Option Nat :=
  let p := getPort s n
  let e := p.cal.getD (s.fab.slot % (fld s.fab.ftime.toNat 5 0 + 1)) 0
  if p.width = 0 ∨ p.st = .hold ∨ s.fab.dark = true ∨ e.getLsbD 15 = false then none else some (fld e.toNat 9 0)

/-- Sixteenths of a nanosecond in a slot, the dark interval at its end, and the trace time at which slot `n` starts (21 R350,
R351). -/
def slotLen (s : State) : Nat := 4000 * fld s.fab.ftime.toNat 13 8
def darkLen : Nat := 1536
def slotAt (s : State) (n : Nat) : Nat := s.fab.fepoch.toNat + n * slotLen s

/-- The first slot from the current one on in which a port of this package reaches a node. -/
def ownSlotTo (s : State) (node : Nat) : Option Nat :=
  let per := fld s.fab.ftime.toNat 5 0 + 1
  let reaches := fun (n : Nat) => (List.range 32).any (fun k =>
    let p := getPort s k
    let e := p.cal.getD ((s.fab.slot + n) % per) 0
    p.width != 0 && p.st != .hold && e.getLsbD 15 && fld e.toNat 9 0 == node)
  (firstBelow reaches per).map (fun n => s.fab.slot + n)

/-- The relay of a packet to a node that is no direct peer: the direct peer for which the sum of its own next slot and of its
slot to the destination after that is least, the lowest of those (21 R353). When a relay reaches the destination is a matter
of its own calendars (log 20). -/
def relayOf (s : State) (dst : Nat) : Option Nat :=
  let sum := fun (r : Nat) => (ownSlotTo s r).bind (fun a => (Config.nextSlotTo r dst a).map (fun b => a + b))
  let peers := (s.fab.reach.filter (fun p => p.2.getLsbD 15 && p.2.getLsbD 14 && p.1 != dst && p.1 != ownNode s)).map (fun p => p.1)
  (peers.foldl (fun (best : Option (Nat × Nat)) r =>
    match sum r, best with
    | none, b => b
    | some x, none => some (r, x)
    | some x, some b => if x < b.2 then some (r, x) else some b) none).map (fun b => b.1)

def packetSize (p : Packet) : Nat := 32 + 32 * p.nflit.toNat

/-- Does a packet of this node leave through the link to `peer`, directly or as its relay? -/
def leavesBy (s : State) (peer : Nat) (p : Packet) : Bool :=
  let e := s.fab.reach.getD p.dst.toNat 0
  if p.dst.toNat = peer then true
  else if p.dst = s.fab.own ∨ e.getLsbD 14 = true ∨ e.getLsbD 15 = false then false
  else relayOf s p.dst.toNat == some peer

/-- The packet as it leaves through the link to `peer`: its relay, and the trace time at which it is sent (21 R355). -/
def sentTo (p : Packet) (own : BitVec 10) (peer now : Nat) : Packet :=
  { p with relay := if p.dst.toNat = peer then own else BitVec.ofNat 10 peer, stamp := BitVec.ofNat 64 now }

/-- Packets that `goes` lets leave go in order while they fit: those that leave, those that stay, and the bytes left. -/
def splitLeaving (goes : Packet → Bool) : List Packet → Nat → List Packet × List Packet × Nat
  | [], room => ([], [], room)
  | p :: r, room =>
    if goes p && decide (packetSize p ≤ room) then
      let t := splitLeaving goes r (room - packetSize p)
      (p :: t.1, t.2)
    else
      let t := splitLeaving goes r (if goes p then 0 else room)
      (t.1, p :: t.2.1, t.2.2)

/-- Bytes that a port moves in a slot: 8 a nanosecond and lane, outside the dark interval (21 R349). -/
def slotRoom (len : Nat) (p : Port) : Nat := p.width * 8 * (250 * len - 96)

/-- A drain marker (21 R356, R367): its number is that of the next packet of its channel. -/
def marker (s : State) (peer chan now : Nat) : Packet where
  dst := BitVec.ofNat 10 peer
  src := s.fab.own
  kind := 10
  nflit := 0
  chan := BitVec.ofNat 2 chan
  cls := 2
  seq := BitVec.ofNat 32 (if chan = 0 then 0 else s.fab.sendSeq.getD (peer * 4 + chan) 0)
  addr := 0
  ctx := 0
  sub := 0
  tag := 0
  relay := s.fab.own
  rz := 0
  cause := 0
  stamp := BitVec.ofNat 64 now
  data := []

/-- In MARK a drain marker goes to a leaving node on every channel, after every earlier packet to it (21 R367), where `room` bytes
of the slot are left for the four. -/
def sendMarkers (n room : Nat) (s : State) : State :=
  match peerOf s n with
  | none => s
  | some peer =>
    let sent := (List.range 32).any (fun k => (getPort s k).sent.contains peer)
    if decide (128 ≤ room) && (getPort s n).st == .mark && leavingNode s peer && !sent && !(s.fab.outbox ++ s.fab.relay).any (fun x => x.dst.toNat == peer) then
      let l := (List.range 4).map (fun c => marker s peer c (traceTime s (n / 16)))
      modFab (updPort s n (fun p => { p with sent := p.sent ++ [peer] })) (fun f => { f with light := f.light ++ l })
    else s

/-- A port sends: what it relays, only directly (21 R353), then its own packets, then drain markers. -/
def sendPort (n : Nat) (s : State) : State :=
  match peerOf s n with
  | none => s
  | some peer =>
    let r := splitLeaving (fun p => p.dst.toNat == peer) s.fab.relay (slotRoom (fld s.fab.ftime.toNat 13 8) (getPort s n))
    let t := splitLeaving (leavesBy s peer) s.fab.outbox r.2.2
    let now := traceTime s (n / 16)
    sendMarkers n t.2.2 (modFab s (fun f =>
      { f with relay := r.2.1, outbox := t.2.1, light := f.light ++ r.1 ++ t.1.map (fun p => sentTo p f.own peer now) }))

/-- Slot `n` begins after a dark interval, at its trace time (21 R350): every port sends to its peer. -/
def execSlotStart (n : Nat) (s : State) : Outcome State Fault Refusal :=
  let now := traceTime s 0
  if s.fab.dark && decide (slotAt s n ≤ now) && decide (now + darkLen < slotAt s (n + 1)) then
    .next (eachPort (modFab s (fun f => { f with slot := n, dark := false, light := [] })) sendPort)
  else .next s

/-! Lanes (21 R364) -/

def laneCount (l : BitVec 8) : Nat := ((List.range 8).filter (fun i => l.getLsbD i)).length

/-- The width that a number of working lanes carries. -/
def widthOf (n : Nat) : Nat := if 8 ≤ n then 8 else if 4 ≤ n then 4 else if 2 ≤ n then 2 else n

/-- Lanes of a port fail; its width changes at the next dark interval. -/
def execLaneLoss (port : Nat) (lanes : BitVec 8) (s : State) : Outcome State Fault Refusal :=
  .next (updPort s (port % 32) (fun p => { p with lanes := p.lanes &&& ~~~lanes, lost := p.lost || p.lanes &&& lanes != 0 }))

/-- The width that a port takes at a dark interval: the next lower one after a loss, and none above its working lanes. -/
def Port.nextWidth (p : Port) : Nat :=
  let n := laneCount p.lanes
  if !p.lost then p.width else if n = 0 then 0 else maxN 1 (minN (p.width / 2) (widthOf n))

/-- The next node that a packet on a link goes to. -/
def hopOf (own : BitVec 10) (p : Packet) : Nat := if p.relay = own || p.src != own then p.dst.toNat else p.relay.toNat

/-- A packet of any class that the port had sent in part when its width changes, if there is one, is sent again whole: a link
retry (21 R364). -/
def retryLast (n : Nat) (peer : Option Nat) (s : State) : State :=
  match peer.bind (fun x => s.fab.light.reverse.find? (fun p => hopOf s.fab.own p == x)) with
  | none => s
  | some p =>
    let q := pick s 2
    if q.1 = 0 then q.2
    else
      let s1 := updPort q.2 n (fun x => { x with errors := x.errors + 1 })
      modFab s1 (fun f => { f with
        light := f.light.erase p
        outbox := if p.src = f.own then p :: f.outbox else f.outbox
        relay := if p.src = f.own then f.relay else p :: f.relay })

/-- A port takes a lower width, or goes down. -/
def setPortWidth (n w : Nat) (s : State) : State :=
  if w < (getPort s n).width then
    let s1 := emit (updPort s n (fun p => { p with width := w })) (fiuSrc n) 0 0x10 9 2 (n + 256 * w) none
    if w = 0 then reportQueued s1 else s1
  else s

/-! Reconfiguration (21 R367) -/

/-- Does the dark interval of the current slot end at T, or later? -/
def darkEndsAtT (s : State) : Bool :=
  s.fab.farm != 0 && decide (s.fab.farm.toNat ≤ slotAt s (s.fab.slot + 1))

/-- Every leaving node has answered on every channel, to whichever port. -/
def allAcked (s : State) : Bool :=
  (leavers s).all (fun n => (List.range 4).all (fun c => (List.range 32).any (fun k => (getPort s k).acked.contains (n * 4 + c))))

def markReady (n : Nat) (s : State) : State :=
  let p := getPort s n
  if p.st == .mark && allAcked s then updPort s n (fun p => { p with st := .ready }) else s

/-- A write of `farm`: ports that run drain; 0 arms nothing, and they run again. -/
def armFarm (s : State) (x : Word) : State :=
  let s1 := modFab s (fun f => { f with farm := x })
  eachPort s1 (fun n st =>
    let p := getPort st n
    if x = 0 then (if p.st == .hold then st else updPort st n (fun p => { p with st := .run, sent := [], acked := [] }))
    else if p.st == .run then updPort st n (fun p => { p with st := .drain, sent := [], acked := [] }) else st)

def execFarmWrite (x : BitVec 64) (s : State) : Outcome State Fault Refusal := .next (armFarm s x)

/-- Bytes that a port can still send in the slot under way: past what it has sent, and before the dark interval (21 R349, R350). -/
def roomLeft (s : State) (n : Nat) : Nat :=
  let p := getPort s n
  let used := match peerOf s n with
    | some peer => (s.fab.light.filter (fun x => hopOf s.fab.own x == peer)).foldl (fun t x => t + packetSize x) 0
    | none => 0
  minN (slotRoom (fld s.fab.ftime.toNat 13 8) p - used) (p.width * 8 * ((slotAt s (s.fab.slot + 1) - darkLen - traceTime s (n / 16)) / 16))

/-- No packet for a leaving node remains, and every request to one is answered: the port enters MARK. -/
def execDrainComplete (port : Nat) (s : State) : Outcome State Fault Refusal :=
  let n := port % 32
  let left := (s.fab.outbox ++ s.fab.relay).any (fun p => leavingNode s p.dst.toNat) || s.fab.outs.any (fun o => leavingNode s o.dst)
  if (getPort s n).st == .drain && !left then
    .next (markReady n (sendMarkers n (roomLeft s n) (updPort s n (fun p => { p with st := .mark }))))
  else .next s

def enterHold (n : Nat) (s : State) : State :=
  let p := getPort s n
  if p.st == .drain || p.st == .mark || p.st == .ready then updPort s n (fun p => { p with st := .hold, fails := 0 }) else s

/-- What a dark interval does at a port: its width drops where it has lost lanes, and a link that holds relocks anew. -/
def darkPort (peer : Nat → Option Nat) (n : Nat) (s : State) : State :=
  let w := (getPort s n).nextWidth
  let s1 := updPort s n (fun p => { p with lost := false, tried := false })
  if w < (getPort s n).width then setPortWidth n w (retryLast n (peer n) s1) else s1

/-- The dark interval of the current slot begins, at its trace time (21 R350): widths drop, and at T reconfiguring ports enter
HOLD. Where one had not reached READY, the requests still outstanding to leaving nodes are reported. -/
def execDarkInterval (s : State) : Outcome State Fault Refusal :=
  let s1 := eachPort (modFab s (fun f => { f with dark := true })) (darkPort (peerOf s))
  if s.fab.dark || decide (traceTime s 0 + darkLen < slotAt s (s.fab.slot + 1)) then .next s
  else if darkEndsAtT s1 then
    let late := (List.range 32).any (fun n => (getPort s1 n).st == .drain || (getPort s1 n).st == .mark)
    let s2 := if late then (s1.fab.outs.filter (fun o => leavingNode s1 o.dst)).foldl loseOut s1 else s1
    .next (eachPort s2 enterHold)
  else .next s1

/-- The armed copies become active (21 R351, R367). -/
def activate (s : State) : State :=
  let s1 := eachPort s (fun n st => updPort st n (fun p => { p with cal := p.armed }))
  modFab s1 (fun f => { f with reach := f.reachArmed, ftime := f.ftimeArmed, farm := 0 })

/-- The link of a port in HOLD relocks, or fails to, once in a dark interval, at T first: after 16 failures it goes down. -/
def execReconfigRelock (port : Nat) (good : Bool) (s : State) : Outcome State Fault Refusal :=
  let n := port % 32
  if (getPort s n).st != .hold || (getPort s n).tried || !s.fab.dark ||
    (s.fab.farm != 0 && decide (traceTime s 0 < s.fab.farm.toNat)) then .next s
  else if good then
    let s1 := if s.fab.farm = 0 then s else activate s
    .next (reportQueued (updPort s1 n (fun p => { p with st := .run, fails := 0, sent := [], acked := [] })))
  else
    let f := (getPort s n).fails + 1
    let s1 := updPort s n (fun p => { p with fails := f, tried := true })
    .next (if 16 ≤ f then setPortWidth n 0 s1 else s1)

/-- A packet for another node is held in the relay store (21 R353). -/
def execRelayReceive (p : Packet) (s : State) : Outcome State Fault Refusal :=
  .next (if p.dst = s.fab.own then s else modFab s (fun f => { f with relay := f.relay ++ [p] }))

end Sys2Proof.Machine
end

