-- ==== Sys2Proof/Machine/Platform.lean ====
section
/-!
DEFINITION. The management space and what acts through it: boot, core starts, keys, halts, partitions, monitors,
power (25 R392 to R400, 24 R390, R391, 05 R115 to R118).
-/
namespace Sys2Proof.Machine

open Host (Outcome)

def modMgmt (s : State) (f : Mgmt → Mgmt) : State := { s with mgmt := f s.mgmt }

/-- Keep the bits of `x` that `mask` lists, and those of `old` elsewhere. -/
def keepBits (mask : Nat) (x : Word) : Word := x &&& BitVec.ofNat 64 mask

/-! Core starts (25 R394) -/

/-- A held core starts at H at the address written; a write for another core is discarded. -/
def startCore (s : State) (v : Nat) (x : Word) : State :=
  if (getCore s v).mode = .held then
    setCore s v { Core.fresh .run s.mgmt.tvech with pc := BitVec.ofNat 48 (fld x.toNat 47 1 * 2) }
  else s

def execCstartWrite (v : Nat) (x : BitVec 64) (s : State) : Outcome State Fault Refusal := .next (if v < 512 then startCore s v x else s)

def startWord (s : State) (v : Nat) : Word := if (getCore s v).mode = .held then 0 else BitVec.ofNat 64 (2 ^ 63)

/-! Key slots (25 R397) -/

def putDword (k : BitVec 512) (w : Nat) (x : Word) : BitVec 512 :=
  BitVec.ofNat 512 (k.toNat % 2 ^ (64 * w) + x.toNat * 2 ^ (64 * w) + k.toNat / 2 ^ (64 * w + 64) * 2 ^ (64 * w + 64))

/-- A write of doubleword `w` of key slot `n`: refused, with err set, where the slot holds a key or retires; else `err` is
W1C and the other bits past the key are reserved. -/
def writeKey (s : State) (n w : Nat) (x : Word) : State :=
  let k := s.keys.getD n KeySlot.reset
  let put := fun (k1 : KeySlot) => freshCtxs s { s with keys := s.keys.insert n k1 }
  if k.valid || k.busy then put { k with err := true }
  else if w = 9 then put { k with err := k.err && !x.getLsbD 0 }
  else if 9 < w then s
  else if w = 8 then put { k with valid := x.getLsbD 63, vm := BitVec.ofNat 6 x.toNat }
  else put { k with key := putDword k.key w x }

def execKeySlotWrite (k : BitVec 6) (w : Nat) (x : BitVec 64) (s : State) : Outcome State Fault Refusal := .next (writeKey s k.toNat w x)

def readKey (s : State) (n w : Nat) : Word :=
  let k := s.keys.getD n KeySlot.reset
  if w = 8 then BitVec.ofNat 64 (b2n k.valid * 2 ^ 63 + k.vm.toNat) else if w = 9 then BitVec.ofNat 64 (b2n k.err) else 0

/-! Attestation, watchdog (25 R398, R399) -/

/-- The management controller is served. -/
def served (s : State) : State := modMgmt s (fun m => { m with service := s.cycle.toNat })

/-- A quote over identity, measurements and nonce. -/
def execAttestationQuote (nonce : BitVec 256) (s : State) : Outcome State Fault Refusal :=
  .next (served (modMgmt s (fun m => { m with quote := Config.sign m.identity m.measure nonce })))

/-- After 2^24 cycles without service the controller restarts, and nothing else does. -/
def execWatchdogRestart (s : State) : Outcome State Fault Refusal :=
  .next (if s.mgmt.service + 2 ^ 24 ≤ s.cycle.toNat then served (modMgmt s (fun m => { m with restarts := m.restarts + 1 })) else s)

/-! Halts (24 R391) -/

/-- Started cores: those that the state lists, and core 0 of every cluster. -/
def startedCores (s : State) : List Nat := (List.range 512).filter (fun v => (getCore s v).mode != .held)

/-- The cores that a halt or a resume of this scope names. -/
def scopeCores (s : State) (scope v ctx : Nat) : List Nat :=
  match scope with
  | 0 => if (getCore s v).mode = .held then [] else [v]
  | 1 => (match gangOfCore s v with | some g => g.onCores.map (fun p => p.2) | none => [])
  | 2 => ((listedCores s).filter (fun p => p.2.task.isSome && p.2.ctx.toNat == ctx)).map (fun p => p.1)
  | _ => startedCores s

def setHalted (s : State) (scope ctx : Nat) (b : Bool) : State := if scope = 2 then updCtx s ctx (fun c => { c with halted := b }) else s

/-- Each core of the scope halts at its next boundary. -/
def haltCores (s : State) (x : Word) : State :=
  let scope := fld x.toNat 63 62
  let v := fld x.toNat 14 6
  let ctx := fld x.toNat 5 0
  let s1 := setHalted s scope ctx true
  haltRecord ((scopeCores s1 scope v ctx).foldl (fun st w =>
    updCore st w (fun c => if c.halted then c else { c with pend := { c.pend with halt := true } })) s1) scope v ctx false

/-- A halted core goes on; its first instruction meets no breakpoint (24 R390), and its scan takes up its request before that
(16 R308, R310). -/
def resumeCore (s : State) (v : Nat) : State :=
  let c := getCore s v
  let s1 := updCore s v (fun c => { c with halted := false, skipBkpt := c.halted || c.skipBkpt, pend := { c.pend with halt := false } })
  match c.ssb with
  | some q => if c.halted then scanResume s1 v q else s1
  | none => s1

/-- Each core of the scope goes on. -/
def resumeCores (s : State) (x : Word) : State :=
  let scope := fld x.toNat 63 62
  let v := fld x.toNat 14 6
  let ctx := fld x.toNat 5 0
  let s1 := setHalted s scope ctx false
  haltRecord ((scopeCores s1 scope v ctx).foldl resumeCore s1) scope v ctx true

def execHaltctlHalt (x : BitVec 64) (s : State) : Outcome State Fault Refusal := .next (if x.getLsbD 61 then s else haltCores s x)
def execHaltctlResume (x : BitVec 64) (s : State) : Outcome State Fault Refusal := .next (if x.getLsbD 61 then resumeCores s x else s)

/-- A doubleword of the `halted` block. -/
def haltedWord (s : State) (w : Nat) : Word :=
  BitVec.ofNat 64 ((List.range 64).foldl (fun t i => t + b2n (getCore s (64 * w + i)).halted * 2 ^ i) 0)

/-! State windows of halted cores (24 R391): the frame offsets 0x040 to 0x2FF -/

/-- The CSR at each place of the frame: privilege and `status` apart (06 R141). -/
def frameCsrs : List Nat := [0x000, 0x001, 0x002, 0x003, 0x004, 0x005, 0x1000, 0x1001, 0x102, 0x103, 0x104, 0x106, 0x00C, 0x00D]

def readWindow (s : State) (v off : Nat) : Word :=
  let c := getCore s v
  let n := off / 8
  if !c.halted || n < 8 || 0x60 ≤ n then 0
  else if n < 0x48 then c.getG (n - 8)
  else if n < 0x50 then c.getK (n - 0x48)
  else BitVec.ofNat 64 ((csrFrame c).getD (n - 0x50) 0)

/-- A value that breaks a register's layout is discarded. -/
def writeCsrAt (n : Nat) (x : Word) (s : State) : State :=
  match n with
  | 0x1000 => if x = 0 then { s with core := { s.core with priv := .u } } else if x = 1 then { s with core := { s.core with priv := .k } } else s
  | 0x1001 => if x.toNat < 16 ∧ x.toNat % 2 = 0 then { s with core := { s.core with status := s.core.status.low x.toNat } } else s
  | _ => (csrPut s n x).getD s

def writeWindow (s : State) (v off : Nat) (x : Word) : State :=
  let c := getCore s v
  let n := off / 8
  if !c.halted || n < 8 || 0x60 ≤ n then s
  else if n < 0x48 then updCore s v (fun c => c.setG (n - 8) x)
  else if n < 0x50 then updCore s v (fun c => c.setK (n - 0x48) x)
  else
    match frameCsrs[n - 0x50]? with
    | some k => asCore s v (writeCsrAt k x)
    | none => s

/-! Partitions and gates (05 R117) -/

/-- The gates between quadrants of different partitions. -/
def gatesOf (part : Vector Nat 8) : List Nat :=
  (quadLinks.filter (fun p => part.getD p.1 0 != part.getD p.2 0)).map (fun p => p.1 * 8 + p.2)

/-- Firmware accepts a map whose partitions are each joined through their own quadrants. -/
def partsOk (s : State) : Bool :=
  (List.range 8).all (fun a => (List.range 8).all (fun b => !samePart s a b || gateOpen s a b))

/-- The partition map, a byte for each quadrant, and the locked gates, a bit for each link of `quadLinks`. -/
def partWord (s : State) : Word := BitVec.ofNat 64 ((List.range 8).foldl (fun t q => t + s.parts.part.getD q 0 % 256 * 2 ^ (8 * q)) 0)
def gateWord (s : State) : Word :=
  BitVec.ofNat 64 ((List.range 10).foldl (fun t i =>
    t + b2n ((quadLinks[i]?).any (fun p => s.parts.locked.contains (p.1 * 8 + p.2))) * 2 ^ i) 0)

/-- Level M locks and unlocks gates; firmware accepts no gates that part the quadrants of one partition. -/
def writeGates (s : State) (x : Word) : State :=
  let l := (List.range 10).filterMap (fun i => if x.getLsbD i then (quadLinks[i]?).map (fun p => p.1 * 8 + p.2) else none)
  let s1 := { s with parts := { s.parts with locked := l } }
  if partsOk s1 then s1 else s

/-! Fabric registers (21 R351, R352, R360, R362, R364), at the offsets of log 22 -/

/-- Four 16-bit entries from number `4n` on. -/
def read4 (m : SMap (BitVec 16)) (n : Nat) : Word :=
  BitVec.ofNat 64 ((List.range 4).foldl (fun t i => t + (m.getD (4 * n + i) 0).toNat * 2 ^ (16 * i)) 0)
def write4 (m : SMap (BitVec 16)) (n mask : Nat) (x : Word) : SMap (BitVec 16) :=
  (List.range 4).foldl (fun t i => t.insert (4 * n + i) (BitVec.ofNat 16 (fld x.toNat (16 * i + 15) (16 * i) &&& mask))) m

def readList (m : SMap (List Word)) (n i : Nat) : Word := (m.getD n []).getD i 0
def writeList (m : SMap (List Word)) (len n i : Nat) (x : Word) : SMap (List Word) :=
  m.insert n ((List.range len).map (fun j => if j = i then x else (m.getD n []).getD j 0))

/-- Writable bits of a window entry (21 R360) and of a group entry (21 R362). -/
def windowMask (i : Nat) : Nat :=
  match i with
  | 0 => 0xF800FFFFF000003F
  | 1 => 2 ^ 48 - 1
  | 2 => 2 ^ 42 - 1
  | _ => 0
def groupMask (i : Nat) : Nat :=
  match i with
  | 0 => 0xC00000000000FFFF
  | 1 => 2 ^ 48 - 1
  | 2 => 2 ^ 42 - 1
  | _ => if 4 ≤ i ∧ i < 20 then 2 ^ 64 - 1 else 0

def portWord (p : Port) : Word := BitVec.ofNat 64 (p.errors.toNat * 2 ^ 32 + p.lanes.toNat * 2 ^ 24 + p.width)

def readFabric (s : State) (o : Nat) : Word :=
  let f := s.fab
  if o < 0x1000 then read4 (getPort s (o / 128)).cal (o % 128 / 8)
  else if o < 0x2000 then read4 (getPort s ((o - 0x1000) / 128)).armed (o % 128 / 8)
  else if o < 0x2800 then read4 f.reach ((o - 0x2000) / 8)
  else if o < 0x3000 then read4 f.reachArmed ((o - 0x2800) / 8)
  else if o < 0x3800 then readList f.windows ((o - 0x3000) / 32) (o % 32 / 8)
  else if o < 0x3900 then portWord (getPort s ((o - 0x3800) / 8))
  else if o = 0x3900 then f.ftime
  else if o = 0x3908 then f.ftimeArmed
  else if o = 0x3910 then f.fepoch
  else if o = 0x3918 then f.farm
  else if o = 0x3A00 then partWord s
  else if o = 0x3A08 then gateWord s
  else if 0x4000 ≤ o ∧ o < 0x8000 then readList f.groups ((o - 0x4000) / 256) (o % 256 / 8)
  else 0

/-- `ftime` with a length outside 4 to 32: cause 1 (21 R351). -/
def ftimeOk (x : Word) : Bool := decide (4 ≤ fld x.toNat 13 8) && decide (fld x.toNat 13 8 ≤ 32)

/-- May a window entry be written at level `lvl`: at H where it is and stays of kind 1 or 2. -/
def windowLvl (s : State) (n i : Nat) (x : Word) : Nat :=
  let soft := fun (w : Word) => fld w.toNat 62 60 == 1 || fld w.toNat 62 60 == 2
  let old := readList s.fab.windows n 0
  if (soft old || old == 0) && soft (if i = 0 then x else old) then 2 else 3

/-- A write at level `lvl`; none: cause 1. A level below the least discards the write. DESIGN CHOICE (log 95): reserved bits
that are written 1 are dropped and raise nothing, for 00 R3 speaks of CSRs only; the partition map is written by
`partitionChange` (log 22). -/
def writeFabric (s : State) (lvl o : Nat) (x : Word) : Option State :=
  let atM := fun (t : State) => some (if 3 ≤ lvl then t else s)
  if o < 0x1000 then atM (updPort s (o / 128) (fun p => { p with cal := write4 p.cal (o % 128 / 8) 0x83FF x }))
  else if o < 0x2000 then atM (updPort s ((o - 0x1000) / 128) (fun p => { p with armed := write4 p.armed (o % 128 / 8) 0x83FF x }))
  else if o < 0x2800 then atM (reportQueued (modFab s (fun f => { f with reach := write4 f.reach ((o - 0x2000) / 8) 0xC000 x })))
  else if o < 0x3000 then atM (modFab s (fun f => { f with reachArmed := write4 f.reachArmed ((o - 0x2800) / 8) 0xC000 x }))
  else if o < 0x3800 then
    let n := (o - 0x3000) / 32
    let i := o % 32 / 8
    let y := keepBits (windowMask i) x
    some (if windowLvl s n i y ≤ lvl then modFab s (fun f => { f with windows := writeList f.windows 4 n i y }) else s)
  else if o = 0x3900 then (if lvl < 3 then some s else if ftimeOk x then some (modFab s (fun f => { f with ftime := keepBits 0x3F3F x })) else none)
  else if o = 0x3908 then (if lvl < 3 then some s else if ftimeOk x then some (modFab s (fun f => { f with ftimeArmed := keepBits 0x3F3F x })) else none)
  else if o = 0x3910 then atM (modFab s (fun f => { f with fepoch := x }))
  else if o = 0x3918 then atM (armFarm s x)
  else if o = 0x3A08 then atM (writeGates s x)
  else if 0x4000 ≤ o ∧ o < 0x8000 then
    let i := o % 256 / 8
    some (if 2 ≤ lvl then modFab s (fun f => { f with groups := writeList f.groups 32 ((o - 0x4000) / 256) i (keepBits (groupMask i) x) }) else s)
  else some s

/-! Monitors (25 R400) -/

def monitorWord (m : Monitor) : Word :=
  BitVec.ofNat 64 (m.temp.toNat * 2 ^ 48 + m.mv.toNat * 2 ^ 36 + m.thr.toNat * 2 ^ 32 + m.corr.toNat * 2 ^ 16 + m.proc.toNat * 2 ^ 8)

/-- Number of a monitor among the state's: clusters 0 to 63, hot spots 128 to 143. -/
def monitorAt (o : Nat) : Option Nat := if o < 0x200 then some (o / 8) else if 0x400 ≤ o ∧ o < 0x480 then some (o / 8) else none

def getMonitor (s : State) (n : Nat) : Monitor := s.mgmt.monitors.getD n Monitor.reset
def updMonitor (s : State) (n : Nat) (f : Monitor → Monitor) : State :=
  modMgmt s (fun m => { m with monitors := m.monitors.insert n (f (getMonitor s n)) })

/-- The throttle level that a temperature, in sixteenths of a degree, and a power in watts give. -/
def throttleLevel (temp watts : Nat) : Nat := minN 15 (maxN ((temp - 1520) / 16) ((watts - 2600) / 40))

/-- The highest reading of a cluster and of the two hot spots of its quadrant. -/
def hottest (s : State) (cl : Nat) : Nat :=
  maxN (getMonitor s cl).temp.toNat (maxN (getMonitor s (128 + 2 * (cl / 8))).temp.toNat (getMonitor s (129 + 2 * (cl / 8))).temp.toNat)

/-- The throttle level of a cluster follows its readings and the package's. -/
def setThrottle (s : State) (cl : Nat) : State :=
  updMonitor s cl (fun m => { m with thr := BitVec.ofNat 4 (throttleLevel (hottest s cl) s.mgmt.watts) })

/-- Every core and engine stops, and the lasers go dark (25 R400). -/
def trip (s : State) : State := modMgmt s (fun m => { m with phase := 0xFE, lasers := false })

/-- The trip, where a reading is at 110 °C or above (25 R400). -/
def execThermalTrip (s : State) : Outcome State Fault Refusal :=
  .next (if s.mgmt.monitors.any (fun p => decide (1760 ≤ p.2.temp.toNat)) then trip s else s)

/-- A reading of a cluster, or of hot spot `cl` - 128, and of the package: the levels of every cluster follow; at 110 °C, the
trip. -/
def execThrottleUpdate (cl : Nat) (temp : BitVec 16) (mv : BitVec 12) (watts : Nat) (s : State) : Outcome State Fault Refusal :=
  let s1 := modMgmt s (fun m => { m with watts := watts })
  let s2 := updMonitor s1 cl (fun m => { m with temp := temp, mv := mv })
  let s3 := (List.range 64).foldl setThrottle s2
  .next (if 1760 ≤ temp.toNat then trip s3 else s3)

/-- What a debugger or chance does (log 93). -/
def envStep (e : Env) (s : State) : State :=
  match e with
  | .capture ctx on => updCtx s (ctx % 64) (fun c => { c with capture := on })
  | .corrected n => if n < 64 ∨ (128 ≤ n ∧ n < 144) then updMonitor s n (fun m => { m with corr := m.corr + 1 }) else s
  | .uncorrected line => if s.ecc.contains line then s else { s with ecc := line :: s.ecc }

/-! The space as a whole (25 R392) -/

def bootWord (m : Mgmt) : Word := BitVec.ofNat 64 (m.phase.toNat * 2 ^ 56 + m.code.toNat * 2 ^ 8 + b2n m.stopped)

/-- A doubleword of the management space, at level `lvl` (2 H, 3 M): 0 below the least level. -/
def mgmtRead (s : State) (lvl off : Nat) : Word :=
  if lvl < 2 then 0
  else if off = 0 then bootWord s.mgmt
  else if 0x1000 ≤ off ∧ off < 0x1100 then
    (if lvl < 3 then 0
     else
      let n := (off - 0x1000) / 8 * 2
      BitVec.ofNat 64 ((s.mgmt.remap.getD n 0).toNat + (s.mgmt.remap.getD (n + 1) 0).toNat * 2 ^ 32))
  else if 0x10000 ≤ off ∧ off < 0x12000 then readKey s ((off - 0x10000) / 128) (off % 128 / 8)
  else if 0x20000 ≤ off ∧ off < 0x30000 then readFabric s (off - 0x20000)
  else if 0x30000 ≤ off ∧ off < 0x40000 then ((monitorAt (off - 0x30000)).map (fun n => monitorWord (getMonitor s n))).getD 0
  else if 0x40000 ≤ off ∧ off < 0x40080 then s.mgmt.bkpts.getD ((off - 0x40000) / 8) 0
  else if off = 0x40088 then s.mgmt.htrdesc
  else if 0x400C0 ≤ off ∧ off < 0x40100 then haltedWord s ((off - 0x400C0) / 8)
  else if 0x50000 ≤ off ∧ off < 0x51000 then startWord s ((off - 0x50000) / 8)
  else if 0x100000 ≤ off ∧ off < 0x300000 then readWindow s ((off - 0x100000) / 4096) (off % 4096)
  else 0

/-- A write of a doubleword at level `lvl`: none where it raises cause 1. At level M one of a monitor word sets its process grade,
as firmware does, and nothing else of it (DESIGN CHOICE, log 100). -/
def mgmtWrite (s : State) (lvl off : Nat) (x : Word) : Option State :=
  if lvl < 2 then some s
  else if 0x10000 ≤ off ∧ off < 0x12000 then some (writeKey s ((off - 0x10000) / 128) (off % 128 / 8) x)
  else if 0x20000 ≤ off ∧ off < 0x30000 then writeFabric s lvl (off - 0x20000) x
  else if 0x30000 ≤ off ∧ off < 0x40000 then
    some (match monitorAt (off - 0x30000) with
      | some n => if lvl < 3 then s else updMonitor s n (fun m => { m with proc := BitVec.ofNat 8 (fld x.toNat 15 8) })
      | none => s)
  else if 0x40000 ≤ off ∧ off < 0x40080 then
    some (modMgmt s (fun m => { m with bkpts := m.bkpts.setIfInBounds ((off - 0x40000) / 8) (keepBits 0xC03FFFFFFFFFFFFE x) }))
  else if off = 0x40080 then
    some (if fld x.toNat 63 62 = 3 ∧ lvl < 3 then s else if x.getLsbD 61 then resumeCores s x else haltCores s x)
  else if off = 0x40088 then
    some (forgetBuf (modMgmt s (fun m => { m with htrdesc := keepBits 0xFFFFFFFFFFFFFFC0 x })) hbuf)
  else if 0x50000 ≤ off ∧ off < 0x51000 then some (startCore s ((off - 0x50000) / 8) x)
  else if 0x100000 ≤ off ∧ off < 0x300000 then some (writeWindow s ((off - 0x100000) / 4096) (off % 4096) x)
  else some s

/-- A write to the management space; at level M it serves the controller. -/
def execMgmtRegWrite (lvl : BitVec 2) (off : Nat) (x : BitVec 64) (s : State) : Outcome State Fault Refusal :=
  let s1 := if lvl = 3 then served s else s
  .next ((mgmtWrite s1 lvl.toNat (off / 8 * 8) x).getD s1)

/-! A quadrant changes partition (05 R116) -/

/-- A core of a quadrant that changes partition: L1 and weight buffer are cleared. -/
def Core.clearUnits (c : Core) : Core :=
  let z := fun (w : WbSlot) => { w with bytes := w.bytes.map (fun _ => 0) }
  invalL1 { c with arr := { c.arr with wb0 := z c.arr.wb0, wb1 := z c.arr.wb1, wb2 := z c.arr.wb2, wb3 := z c.arr.wb3 } }

/-- Does a core wait at a home that can still withdraw its access or arrival (07 R159, 19 R345)? -/
def waitsAtHome (s : State) (v : Nat) : Bool :=
  match (getCore s v).wait with
  | .fe _ _ => s.feq.any (fun w => w.core == some v)
  | .bard _ _ => s.bards.any (fun r => r.core == some v)
  | .reply tag => (waitTag s tag).isSome
  | _ => false

/-- The waits of these cores are withdrawn: at once where the home is here (19 R341). -/
def withdrawCores (s : State) (l : List Nat) : State := l.foldl (fun st v => withdrawBard (withdrawFe st v) v) s

/-- Quadrant `q` joins partition `p`, once its cores' waits are withdrawn (19 R341) and its SRAM is cleared. Gates that level
M has locked inside a partition stay so. Its slice's lines leave. What its relay-store region holds spills first: no packet is lost (21 R353). -/
def execPartitionChange (q p : Nat) (s : State) : Outcome State Fault Refusal :=
  let part := s.parts.part.setIfInBounds q p
  let gates := gatesOf part
  let own := s.parts.locked.filter (fun g => !(gatesOf s.parts.part).contains g && !gates.contains g)
  let parts : Parts := ⟨part, gates ++ own⟩
  if q < 8 && partsOk { s with parts := parts } && s.parts.part.getD q 0 != p then
    let cores := ((listedCores s).map (fun c => c.1)).filter (fun v => quadOf v == q)
    let s1 := withdrawCores s cores
    if cores.any (waitsAtHome s1) then .next s1
    else
      let s2 := cores.foldl drainCore s1
      let s3 := cores.foldl (fun st v => updCore st v Core.clearUnits) s2
      let s4 := clearMem (clearMem (clearMem s3 (coreStoreAt (64 * q) 0) (coreStoreAt (64 * q + 64) 0))
        (bankAt (64 * q) false 0) (bankAt (64 * q + 64) false 0)) (padAt (8 * q) 0) (padAt (8 * q + 8) 0)
      .next { s4 with parts := parts, slices := s4.slices.filter (fun e => e.line / 2 ^ 29 != q) }
  else .next s

/-! Reset and power (25 R393, R395, R396) -/

/-- A remap word with eight distinct values from 0 to 8 (01 R11). -/
def remapOk (w : BitVec 32) : Bool :=
  let l := (List.range 8).map (fun i => fld w.toNat (4 * i + 3) (4 * i))
  l.all (fun x => decide (x ≤ 8)) && decide l.Nodup

/-- The step at which bring-up fails: 0 where it completes. -/
def failStep (m : Mgmt) (b : BootInput) : Nat :=
  let own := if b.version < m.rollback then 3 else if b.remap.length = 64 ∧ b.remap.all remapOk then 0 else 4
  if b.failAt = 0 ∨ 6 < b.failAt then own else if own = 0 then b.failAt else minN own b.failAt

/-- Every core held: core 0 of a cluster must be listed to be so. -/
def heldCores : SMap Core := (List.range 63).map (fun i => (8 * (i + 1), Core.fresh .held resetTvec))

/-- The state after reset, with what a reset keeps: device memory and its keys' tags, the node's number, what the secure
flash holds, and what the environment has in store. -/
def resetKeep (s : State) (m : Mgmt) : State :=
  { State.reset with
    mem := s.mem, ltag := s.ltag, ecc := s.ecc, agenda := s.agenda, fresh := s.fresh, fab := Fabric.reset s.fab.own, mgmt := m }

/-- Step 6: the fabric comes up with what the configuration record gives (25 R393); an `ftime` that cannot be keeps its reset
value. -/
def bringUp (s : State) (b : BootInput) : State :=
  let ft := if ftimeOk b.ftime then keepBits 0x3F3F b.ftime else s.fab.ftime
  let s1 := b.cals.foldl (fun st e => updPort st (e.1 / 64 % 32) (fun p => { p with cal := p.cal.insert (e.1 % 64) (e.2 &&& 0x83FF) }))
    (modFab s (fun f => { f with ftime := ft, ftimeArmed := ft, fepoch := b.fepoch }))
  modFab s1 (fun f =>
    let l := b.reach.foldl (fun r e => r.insert e.1 (e.2 &&& 0xC000)) f.reach
    { f with reach := l.insert f.own.toNat (l.getD f.own.toNat 0 ||| 0x8000) })

/-- Device reset and bring-up. -/
def execDeviceReset (b : BootInput) (s : State) : Outcome State Fault Refusal :=
  let f := failStep s.mgmt b
  let m := { Mgmt.reset with
    identity := s.mgmt.identity, restarts := s.mgmt.restarts, rollback := s.mgmt.rollback, image := b.version
    measure := if f = 0 ∨ 3 < f then b.version else 0
    remap := if f = 0 ∨ 4 < f then b.remap else [] }
  .next (if f = 0 then
      let up := match b.raises with | some r => maxN m.rollback r | none => m.rollback
      let s1 := resetKeep s { m with
        tvech := b.tvech, rollback := up, raises := if up = m.rollback then none else some m.rollback }
      { bringUp s1 b with core := Core.fresh .run b.tvech }
    else
      { resetKeep s { m with phase := BitVec.ofNat 8 f, code := BitVec.ofNat 8 f } with
        core := Core.fresh .held resetTvec, others := heldCores })

/-- Power is lost: nothing but the secure flash remains. Where the last rewrite of the rollback record was under way, it
holds the old value or the new one. -/
def execPowerLoss (torn : Bool) (s : State) : Outcome State Fault Refusal :=
  let r : Nat × State := match (if torn then s.mgmt.raises else none) with
    | some old => pickOf s s.mgmt.rollback [s.mgmt.rollback, old]
    | none => (s.mgmt.rollback, s)
  let m := { Mgmt.reset with
    phase := 0, identity := s.mgmt.identity, rollback := r.1, remap := [] }
  .next { resetKeep r.2 m with mem := [], ltag := [], ecc := [], core := Core.fresh .held resetTvec, others := heldCores }

end Sys2Proof.Machine
end

