-- ==== Sys2Proof/Machine/Fabric.lean ====
section
/-!
DEFINITION. What this node does with a packet it receives: requests (21 R355 to R363), drain markers (21 R367), discards
(21 R356).
-/
namespace Sys2Proof.Machine

open Host (Outcome)

/-! Headers (21 R355, R356) -/

def classOk (kind cls : Nat) : Bool :=
  match kind with
  | 1 => cls == 0
  | 8 => cls == 0
  | 9 => cls == 1
  | 10 => cls == 2
  | 11 => cls == 2
  | _ => cls == 0 || cls == 1

/-- A reserved kind, or a header that breaks its layout. -/
def headerBad (p : Packet) : Bool :=
  decide (12 ≤ p.kind.toNat) || decide (8 < p.nflit.toNat) || p.cls == 3 || !classOk p.kind.toNat p.cls.toNat || p.rz != 0 ||
  (p.chan == 0 && p.seq != 0) || flits p.data.length != p.nflit.toNat

/-- A packet that this node sent to itself is queued no longer. -/
def takeIn (s : State) (p : Packet) : State :=
  if p.src = s.fab.own then modFab s (fun f => { f with outbox := f.outbox.erase p }) else s

/-- The packet is discarded and counted at the port that received it (log 20). -/
def execPacketDiscard (p : Packet) (s : State) : Outcome State Fault Refusal :=
  if headerBad p then
    let q := pick (takeIn s p) 32
    .next (updPort q.2 q.1 (fun x => { x with errors := x.errors + 1 }))
  else .next s

/-! Windows (21 R360) -/

def fabRefuse (p : Packet) : Trap := { code := 6, tval := p.addr }

/-- The window of a request of `n` bytes: kind, context field, base, offset. -/
def windowOf (p : Packet) (n : Nat) (write : Bool) : M (Nat × Nat × Nat × Nat) := do
  let s ← getS
  let w := s.fab.windows.getD (fld p.addr.toNat 47 42) []
  let w0 := (w.getD 0 0).toNat
  let off := fld p.addr.toNat 41 0
  guardT (decide (p.addr.toNat < 2 ^ 48) && bitOf w0 63 && decide (fld w0 47 38 ≤ p.src.toNat) && decide (p.src.toNat ≤ fld w0 37 28) &&
    (!write || bitOf w0 59) && decide (off + n ≤ (w.getD 2 0).toNat)) (fabRefuse p)
  pure (fld w0 62 60, fld w0 5 0, (w.getD 1 0).toNat, off)

/-- Who performs a request in a context: its interrupt core's quadrant and cluster stand for it (log 23). -/
def fabAgent (s : State) (ctx : Nat) : Agent := ⟨irqCore s ctx, ctx, .u⟩

/-- The place of a request of kind 0: no window of the own SRAM, no further hop; a synchronisation engine that stalls starts no access
(24 R385). -/
def placeAt (p : Packet) (ctx va acc : Nat) : M Loc := do
  guardT (decide (va < winBase)) (fabRefuse p)
  let s ← getS
  let r ← tryM (translate (fabAgent s ctx) va acc)
  match r with
  | .error t => raise (if t.code = 18 then { t with code := 6 } else t)
  | .ok l => do
    guardT (l.place != .remote) (fabRefuse p)
    let s ← getS
    guardT (!syeStalled s l) { code := 255 }
    pure l

/-- The window must be one of memory: its context and the address. -/
def memWindow (p : Packet) (n : Nat) (write : Bool) : M (Nat × Nat) := do
  let w ← windowOf p n write
  guardT (w.1 == 0) (fabRefuse p)
  pure (w.2.1, w.2.2.1 + w.2.2.2)

/-- Alignment of an element (07 R153). -/
def elemAligned (va n : Nat) : Bool := !(n == 2 || n == 4 || n == 8) || va % n == 0

def readAt (p : Packet) (ctx : Nat) : List (Nat × Nat) → M (List Byte)
  | [] => pure []
  | (va, n) :: r => do
    let l ← placeAt p ctx va 1
    let s ← getS
    guardT (!eccHit s l.at_ n) { code := 20, tval := p.addr }
    let rest ← readAt p ctx r
    pure (homeRead s l.kv l.at_ n ++ rest)

def writeAt (p : Packet) (ctx va : Nat) (bytes : List Byte) : List (Nat × Nat) → M Unit
  | [] => pure ()
  | (x, n) :: r => do
    let l ← placeAt p ctx x 2
    let s ← getS
    logWrite (fabAgent s ctx) l
    modS (fun s => homeWrite s none l.kv l.at_ ((bytes.drop (x - va)).take n))
    writeAt p ctx va bytes r

/-- Answer a request with data, filled up to 8 bytes (21 R356); with cause 20 where the access has met data in error (25 R399). -/
def answer (p : Packet) (data : List Byte) (bad : Bool := false) : M Unit :=
  modS (fun s => sendReply s p p.kind.toNat (if bad then 20 else 0) p.addr.toNat (data ++ zeros (if data = [] then 0 else 8 - data.length)))

/-- Acknowledge a store, a multicast or a copy segment. -/
def ackStore (p : Packet) : M Unit := modS (fun s => sendReply s p 9 0 p.addr.toNat [])

/-! Doors and management registers (21 R360, R366, 11 R252) -/

/-- Quadrant, door context and offset in the page of a door address (log 24). -/
def doorPlace (ctx base off : Nat) : Nat × Nat × Nat :=
  let x := base + 4096 * ctx + off
  (x / 2 ^ 18 % 8, x / 4096 % 64, x % 4096)

def doorRead (s : State) (ctx base off : Nat) : Nat :=
  let d := doorPlace ctx base off
  if d.2.2 = 8 then (getBqe s d.1).heads.getD d.2.1 0
  else if d.2.2 < 0x80 then 0
  else ofLe (memRead (getBqe s d.1).doors (doorAt d.2.1 d.2.2) 8)

def doorWrite (s : State) (ctx base off : Nat) (bytes : List Byte) : State :=
  let d := doorPlace ctx base off
  if d.2.2 = 0 then doorScan d.1 d.2.1 31 s
  else if d.2.2 < 0x80 then s
  else updBqe s d.1 (fun b => { b with doors := memWrite b.doors (doorAt d.2.1 d.2.2) bytes })

/-! Multicast (21 R362, R363) -/

def groupMembers (w : List Word) : List Nat := (List.range 1024).filter (fun i => (w.getD (4 + i / 64) 0).getLsbD (i % 64))

/-- A packet to one member carries the group and the offset as its address, and the group's context (log 15). -/
def toMembers (p : Packet) (g o n ctx sq : Nat) (data : List Byte) : List Nat → State → State
  | [], s => s
  | m :: r, s => toMembers p g o n ctx sq data r (sendReq s m 8 3 (g * 2 ^ 42 + o) ctx (n - 1 + 64 + 128 * sq) data 0 (.fwd p))

/-- A multicast store reaches the node that hands it to the members. -/
def castOut (p : Packet) (g o n : Nat) (data : List Byte) : M Unit := do
  let s ← getS
  let e := s.fab.groups.getD g []
  let e0 := (e.getD 0 0).toNat
  let sq := bitOf e0 62
  guardT (bitOf e0 63 && (if sq then fld e0 15 6 == s.fab.own.toNat else p.src == s.fab.own) && decide (o + n ≤ (e.getD 2 0).toNat)) (fabRefuse p)
  let all := groupMembers e
  let live := all.filter (nodeReach s)
  guardT (live.all (fun m => canSend s 0 m 3 false)) { code := 255 }
  modS (fun s => toMembers p g o n (fld e0 5 0) (b2n sq) data live s)
  if sq then modS (fun s => modFab s (fun f => { f with groupSeq := f.groupSeq.insert g (f.groupSeq.getD g 0 + 1) })) else pure ()
  if live.isEmpty then modS (fun s => sendReply s p 9 (if all.isEmpty then 0 else 18) p.addr.toNat [])
  else if live.length != all.length then
    modS (fun s => modFab s (fun f => { f with outs := f.outs.map (fun x => if x.forw == .fwd p then { x with va := 1 } else x) }))
  else pure ()

/-- A member performs the plain store; one whose own entry differs from the sender's skips it (log 37). -/
def castIn (p : Packet) : M Unit := do
  let s ← getS
  let n := fld p.sub.toNat 5 0 + 1
  let o := fld p.addr.toNat 41 0
  let e := s.fab.groups.getD (fld p.addr.toNat 47 42) []
  let e0 := (e.getD 0 0).toNat
  guardT (bitOf e0 63 && bitOf e0 62 == bitOf p.sub.toNat 7 && (!bitOf e0 62 || fld e0 15 6 == p.src.toNat) && fld e0 5 0 == p.ctx.toNat &&
    (p.src == s.fab.own || Config.sameEntry p.src.toNat (fld p.addr.toNat 47 42) e) &&
    (groupMembers e).contains s.fab.own.toNat && decide (o + n ≤ (e.getD 2 0).toNat)) { code := 18, tval := p.addr }
  let va := (e.getD 1 0).toNat + o
  guardT (elemAligned va n) { code := 4, tval := p.addr }
  writeAt p p.ctx.toNat va ((p.data ++ zeros n).take n) (linePieces va n)
  ackStore p

/-! Loads and stores -/

def loadReq (p : Packet) : M Unit := do
  let n := fld p.sub.toNat 5 0 + 1
  let w ← windowOf p n false
  let s ← getS
  match w.1 with
  | 0 => do
    let va := w.2.2.1 + w.2.2.2
    guardT (elemAligned va n) { code := 4, tval := p.addr }
    let b ← readAt p w.2.1 (linePieces va n)
    answer p b
  | 1 => do
    guardT (n == 8 && w.2.2.2 % 8 == 0) (fabRefuse p)
    answer p (leBytes 8 (doorRead s w.2.1 w.2.2.1 w.2.2.2))
  | 3 => do
    guardT (n == 8 && w.2.2.2 % 8 == 0) (fabRefuse p)
    answer p (leBytes 8 (mgmtRead s 3 w.2.2.2).toNat)
  | _ => raise (fabRefuse p)

def storeReq (p : Packet) : M Unit := do
  let n := fld p.sub.toNat 5 0 + 1
  let bytes := (p.data ++ zeros n).take n
  let w ← windowOf p n true
  match w.1 with
  | 0 => do
    let va := w.2.2.1 + w.2.2.2
    guardT (elemAligned va n) { code := 4, tval := p.addr }
    writeAt p w.2.1 va bytes (linePieces va n)
    ackStore p
  | 1 => do
    guardT (n == 8 && w.2.2.2 % 8 == 0) (fabRefuse p)
    modS (fun s => doorWrite s w.2.1 w.2.2.1 w.2.2.2 bytes)
    ackStore p
  | 2 => castOut p w.2.1 w.2.2.2 n bytes
  | 3 => do
    guardT (n == 8 && w.2.2.2 % 8 == 0) (fabRefuse p)
    let s ← getS
    match mgmtWrite s 3 w.2.2.2 (BitVec.ofNat 64 (ofLe bytes)) with
    | none => raise { code := 1, tval := p.addr }
    | some s1 => do
      modS (fun _ => s1)
      ackStore p
  | _ => raise (fabRefuse p)

def multicastReq (p : Packet) : M Unit :=
  if bitOf p.sub.toNat 6 then castIn p
  else do
    let n := fld p.sub.toNat 5 0 + 1
    let w ← windowOf p n true
    guardT (w.1 == 2) (fabRefuse p)
    castOut p w.2.1 w.2.2.2 n ((p.data ++ zeros n).take n)

/-! Atomics, `bard`, full/empty (21 R361) -/

/-- The place of an access at a synchronisation engine, or at a home of full/empty words. -/
def syncPlace (p : Packet) (n acc : Nat) (write sync : Bool) : M (Nat × Loc) := do
  let w ← memWindow p n write
  guardT (w.2 % n == 0) { code := 4, tval := p.addr }
  let l ← placeAt p w.1 w.2 acc
  guardT (l.place == .hbm && (!sync || l.sync)) { code := 19, tval := p.addr }
  if write then do
    let s ← getS
    logWrite (fabAgent s w.1) l
  else pure ()
  pure (w.1, l)

/-- A request, performed at its home, meets `n` bytes in error: they become bytes that nothing is known of (25 R399). -/
def meetsEcc (kv a n : Nat) : M Bool := fun s => .ok (eccHit s a n, garble s kv a n)

/-- A doubleword of a packet's data. -/
def dataWord (p : Packet) (i : Nat) : Nat := ofLe ((p.data.drop (8 * i)).take 8)

def bardReq (p : Packet) (sub : Nat) : M Unit := do
  let q ← syncPlace p 8 3 true true
  let l := q.2
  let bad ← meetsEcc l.kv l.at_ 8
  if sub < 7 then
    modS (fun s => bardArrive s q.1 ⟨l.at_, sub, BitVec.ofNat 64 (dataWord p 0), l.kv, l.logAt (fabAgent s q.1), none, some p,
      p.stamp.toNat + 1, false, bad⟩)
  else if sub = 7 then do
    modS (fun s => bardDropAt s q.1 l.kv l.at_ (p.stamp.toNat + 1))
    answer p (leBytes 8 0) bad
  else do
    let r ← liftS (fun s => bardInitAt s l.kv l.at_ (dataWord p 0 % 65536))
    answer p (leBytes 8 r) bad

/-- Does the request `q` come from the same core's access as the request to withdraw it? -/
def sameRequest (p : Packet) (q : Option Packet) : Bool :=
  match q with
  | some x => x.src == p.src && x.tag == p.tag && x.kind == p.kind
  | none => false

/-- A request to withdraw (07 R159, 19 R345): its answer has no data where the wait has ended, after a look into the overflow
record (19 R329), and a doubleword where the access has been performed and its own answer is on its way (log 15). -/
def withdrawReq (p : Packet) : M Unit := do
  modS (fun s => ((s.feq.filter (fun w => sameRequest p w.packet)).map (fun w => w.pa) ++
    (s.bards.filter (fun r => sameRequest p r.packet)).map (fun r => r.pa)).foldl overflowError s)
  let s ← getS
  if p.kind = 3 then
    match s.feq.find? (fun w => sameRequest p w.packet) with
    | some w => do
      modS (fun s => { s with feq := s.feq.filter (fun w => !sameRequest p w.packet) })
      answer p [] w.err
    | none => answer p (zeros 8)
  else
    match s.bards.find? (fun r => sameRequest p r.packet) with
    | none => answer p (zeros 8)
    | some r => do
      guardT (!syeBusy s (syeSrc r.pa)) { code := 255 }
      match bardTake s (fun r => sameRequest p r.packet) with
      | some (.ok s1) => do
        modS (fun _ => s1)
        answer p [] r.err
      | _ => raise { code := 23, tval := BitVec.ofNat 64 r.log.gpa }

def atomicReq (p : Packet) : M Unit := do
  let op := fld p.sub.toNat 4 0
  let dbl := bitOf p.sub.toNat 5
  if p.sub.toNat = withdrawSub then withdrawReq p
  else if 24 < op then raise (fabRefuse p)
  else if 16 ≤ op then bardReq p (op - 16)
  else do
    let q ← syncPlace p (atomBytes op dbl) (if op = 14 then 1 else 3) (op != 14) true
    let bad ← meetsEcc q.2.kv q.2.at_ (atomBytes op dbl)
    let r ← liftS (fun s => atomHome s q.2.kv q.2.at_ op dbl (dataWord p 0) (dataWord p 1))
    answer p (leBytes 8 r) bad

def fullEmptyReq (p : Packet) : M Unit := do
  let mode := p.sub.toNat
  if mode = withdrawSub then withdrawReq p
  else if mode = 0 ∨ 6 < mode then raise (fabRefuse p)
  else do
    let q ← syncPlace p 8 (if feStores mode then 2 else 1) (mode != 1 && mode != 6) false
    let l := q.2
    let data := BitVec.ofNat 64 (dataWord p 0)
    let s ← getS
    if feReady (feFull s l.at_) mode then do
      let r ← liftS (fun s => feHome s none l.kv l.at_ mode data)
      answer p (if feStores mode then [] else leBytes 8 r.toNat) (feLoads mode && eccHit s l.at_ 8)
    else modS (fun s => { s with feq := s.feq ++ [⟨l.at_, mode, data, l.kv, l.logAt (fabAgent s q.1), none, some p, false⟩] })

/-! Tasks and futures (11 R230, R234, 21 R361) -/

/-- A far spawn: the sub field holds placement, extra reference, discarded handle and named cluster (log 15). -/
def spawnReq (p : Packet) : M Unit := do
  let f := p.sub.toNat
  let ctx := p.ctx.toNat
  let s ← getS
  guardT (ctxValid s ctx) { code := 21, tval := p.addr }
  guardT (!spillWaits s ctx (spawnHome s ctx (fld f 1 0) (fld f 9 4) (fld f 9 4) (BitVec.ofNat 64 (dataWord p 0)))) { code := 255 }
  let h ← spawnAt ctx (fld f 1 0) (fld f 9 4) (fld f 9 4) (BitVec.ofNat 64 (dataWord p 0)) (BitVec.ofNat 64 (dataWord p 1))
    (BitVec.ofNat 64 (dataWord p 2)) p.addr (b2n (bitOf f 2)) (!bitOf f 3)
  modS (fun s => hearFrom (hearFrom s (576 + hHome h) p.stamp.toNat) (640 + hHome h / 8) p.stamp.toNat)
  answer p (leBytes 8 h.toNat)

/-- State, value and code of an entry, as its answer carries them: state 1 is "not finished". -/
def entryWords (e : Entry) : List Byte :=
  if e.st.done then leBytes 8 (statusOf e.st) ++ leBytes 8 e.value.toNat ++ leBytes 8 e.code else leBytes 8 1 ++ leBytes 8 0 ++ leBytes 8 0

/-- The entry that a request names. -/
def reqEntry (p : Packet) : M (At × Entry) := do
  guardT (decide (hKind p.addr ≤ 3) && hCtx p.addr == p.ctx.toNat) (badHandle p.addr)
  let r ← findEntry p.addr
  match r with
  | none => raise (badHandle p.addr)
  | some q => pure q

/-- A woken waiter of this node (10 R215): its place among those that wait, and its gang, or the touch that has not
parked yet. -/
def wakeReq (p : Packet) (s : State) : State :=
  let ref := dataWord p 0
  let s1 := dropWaiter s (fun w => w.h == p.addr && w.ref == ref)
  let s2 := modFab s1 (fun f => { f with outs := f.outs.map (fun o => match o.forw with
    | .task v op d t h size =>
      if (op == 1 || op == 17) && h == p.addr && ((ownSlot s1 v).map (fun q => q.1 * 1024 + q.2)) == some (ref % 65536) then
        { o with forw := .task v (op + 32) d t h size }
      else o
    | _ => o) })
  wakeLocal s2 p.addr (ref / 1024 % 64) (ref % 1024) (p.stamp.toNat + 1)

def futureReq (p : Packet) : M Unit := do
  match p.sub.toNat with
  | 6 => do
    let s ← getS
    guardT (!stalledSrc s (576 + dataWord p 0 / 1024 % 64)) { code := 255 }
    modS (wakeReq p)
    answer p []
  | op => do
    let q ← reqEntry p
    let a := q.1
    let e := q.2
    modS (fun s => hearFrom s (576 + hHome p.addr) p.stamp.toNat)
    match op with
    | 0 => do
      guardT (e.kind == 1) (badHandle p.addr)
      finishEntry a e .resolved (BitVec.ofNat 64 (dataWord p 0)) 0
      answer p []
    | 1 => do
      guardT (e.kind == 1) (badHandle p.addr)
      finishEntry a e .poisoned 0 (dataWord p 0 % 256)
      answer p []
    | 2 => do
      cancelOne a e
      answer p []
    | 3 => do
      cancelTree a e
      answer p []
    | 4 => do
      if e.st.done then releaseEntry a e else pure ()
      answer p (entryWords e)
    | 5 => do
      releaseEntry a e
      answer p []
    | _ => raise (badHandle p.addr)

/-- A registration: a finished entry answers at once, and releases the reference unless the touch will trap (11 R237). -/
def touchReq (p : Packet) : M Unit := do
  let q ← reqEntry p
  let e := q.2
  if e.st.done then do
    if e.st == .resolved || bitOf p.sub.toNat 0 then releaseEntry q.1 e else pure ()
    answer p (entryWords e)
  else do
    let s ← getS
    let ref := dataWord p 0 % 2 ^ 26
    if s.waits.contains ⟨p.addr, ref⟩ then pure ()
    else joinList q.1 e ref
    answer p (entryWords e)

/-! Rows (18 R324) -/

/-- A row of a list whose rows lie on this node: the sub field holds its bytes - 1, and 256 for `tgath`. What a `tscat`
row has written before a cause stays. -/
def rowReq (p : Packet) (s : State) : Option Trap × State :=
  let n := fld p.sub.toNat 7 0 + 1
  let a := fabAgent s p.ctx.toNat
  let va := p.addr.toNat % 2 ^ 48
  if winBase ≤ va then (some (fabRefuse p), s)
  else if bitOf p.sub.toNat 8 then
    match (do
      guardT (decide (va + n ≤ winBase)) (fabRefuse p)
      let b ← engRead [] a va n
      answer p b) s with
    | .error t => (some t, s)
    | .ok (_, s1) => (none, s1)
  else
    match putDwords false [] a 0 (dwordsAt va ((p.data ++ zeros n).take n)) s with
    | (some t, s1) => (some t.1, if t.1.code = 23 then s else s1)
    | (none, s1) => (none, sendReply s1 p 9 0 p.addr.toNat [])

/-! Performing a request -/

def runReq (m : M Unit) (s : State) : Option Trap × State :=
  match m s with
  | .ok (_, s1) => (none, s1)
  | .error t => (some t, s)

def perform1 (p : Packet) (s : State) : Option Trap × State :=
  match p.kind.toNat with
  | 0 => runReq (loadReq p) s
  | 1 => runReq (storeReq p) s
  | 2 => runReq (atomicReq p) s
  | 3 => runReq (fullEmptyReq p) s
  | 4 => runReq (spawnReq p) s
  | 5 => runReq (futureReq p) s
  | 6 => runReq (touchReq p) s
  | 7 => rowReq p s
  | _ => runReq (multicastReq p) s

/-- Is the answer to a request an acknowledgement? -/
def ackKind (p : Packet) : Bool := p.kind == 1 || p.kind == 8 || (p.kind == 7 && !bitOf p.sub.toNat 8)

/-- Perform a request at this node; false where its write waits on a full dirty log (05 R112), a multicast store waits for its
send allowance, or what it does waits for a trace stall of the engine or scheduler that does it (24 R385). A cause travels
back. -/
def serve (p : Packet) (s : State) : Bool × State :=
  match perform1 p s with
  | (none, s1) => (true, s1)
  | (some t, s1) =>
    if t.code = 23 then
      (false, { postExit s1 (irqCore s1 p.ctx.toNat) p.ctx.toNat t.tval with
        dirtyHeld := if s1.dirtyHeld.contains (68, 0) then s1.dirtyHeld else s1.dirtyHeld ++ [(68, 0)] })
    else if t.code = 255 then (false, s1)
    else (true, sendReply s1 p (if ackKind p then 9 else p.kind.toNat) t.code (if t.code = 22 then t.tval.toNat else p.addr.toNat) [])

/-! Order (21 R357) -/

def laneOf (p : Packet) : Nat := p.src.toNat * 4 + p.chan.toNat
def nextOf (s : State) (k : Nat) : Nat := s.fab.recvSeq.getD k 0

/-- The request is served, or joins those that wait; an ordered channel goes on past it once it is served. -/
def serveNext (p : Packet) (s : State) : Bool × State :=
  let r := serve p s
  if r.1 then
    (true, if p.chan = 0 then r.2
      else modFab r.2 (fun f => { f with recvSeq := f.recvSeq.insert (laneOf p) ((nextOf r.2 (laneOf p) + 1) % 2 ^ 32) }))
  else (false, modFab r.2 (fun f => { f with full := f.full ++ [p] }))

/-- Early arrivals whose turn has come. -/
def serveHeld (k : Nat) : Nat → State → State
  | 0, s => s
  | f + 1, s =>
    match s.fab.held.find? (fun p => laneOf p == k && p.seq.toNat == nextOf s k) with
    | none => s
    | some p =>
      let r := serveNext p (modFab s (fun x => { x with held := x.held.erase p }))
      if r.1 then serveHeld k f r.2 else r.2

/-- Has every earlier packet of a marker's channel and source been performed (21 R367)? -/
def markerDue (s : State) (p : Packet) : Bool :=
  let mine := fun (q : Packet) => q.src == p.src && q.chan == p.chan
  !(s.fab.held ++ s.fab.full).any mine && !s.feq.any (fun w => (w.packet.map mine).getD false) &&
  !s.bards.any (fun r => (r.packet.map mine).getD false) && (p.chan == 0 || p.seq.toNat == nextOf s (laneOf p))

/-- Drain markers that are due are acknowledged. -/
def answerMarkers (s : State) : State :=
  let due := s.fab.markers.filter (markerDue s)
  due.foldl (fun st p => post st
    { dst := p.src, src := st.fab.own, kind := 11, nflit := 0, chan := p.chan, cls := 2, seq := 0, addr := 0, ctx := 0, sub := 0, tag := p.tag,
      relay := st.fab.own, rz := 0, cause := 0, stamp := BitVec.ofNat 64 (traceTime st 0), data := [] })
    (modFab s (fun f => { f with markers := f.markers.filter (fun p => !markerDue s p) }))

/-- A request arrives: on an ordered channel in its turn, an early one is held, a late one is a duplicate. -/
def receive (p : Packet) (s : State) : State :=
  let s1 := takeIn s p
  let k := laneOf p
  let ahead := (p.seq.toNat + 2 ^ 32 - nextOf s1 k) % 2 ^ 32
  answerMarkers (
    if p.chan = 0 then (serveNext p s1).2
    else if s1.fab.full.any (fun q => laneOf q == k && q.seq == p.seq) then s1
    else if ahead = 0 then
      let r := serveNext p s1
      if r.1 then serveHeld k 64 r.2 else r.2
    else if ahead < 64 && !s1.fab.held.any (fun q => laneOf q == k && q.seq == p.seq) then modFab s1 (fun f => { f with held := f.held ++ [p] })
    else s1)

/-- Requests that waited are tried again. -/
def retryFull (s : State) : State :=
  answerMarkers (s.fab.full.foldl (fun st p =>
    let r := serveNext p st
    if r.1 then serveHeld (laneOf p) 64 r.2 else r.2) (modFab s (fun f => { f with full := [] })))

/-- Is this a step for packet `p`: a sound request of this kind to this node? -/
def requestFor (kind : Nat) (p : Packet) (s : State) : Bool := p.kind.toNat == kind && p.cls == 0 && p.dst == s.fab.own && !headerBad p

def packetStep (kind : Nat) (p : Packet) (s : State) : Outcome State Fault Refusal := .next (if requestFor kind p s then receive p s else s)

/-- A remote load (21 R361). -/
def execLoadPacket (p : Packet) (s : State) : Outcome State Fault Refusal := packetStep 0 p s
/-- A remote store (21 R361). -/
def execStorePacket (p : Packet) (s : State) : Outcome State Fault Refusal := packetStep 1 p s
/-- A remote atomic or `bard` (21 R361). -/
def execAtomicPacket (p : Packet) (s : State) : Outcome State Fault Refusal := packetStep 2 p s
/-- A remote full/empty access (21 R361). -/
def execFullEmptyPacket (p : Packet) (s : State) : Outcome State Fault Refusal := packetStep 3 p s
/-- A far spawn (11 R234). -/
def execSpawnPacket (p : Packet) (s : State) : Outcome State Fault Refusal := packetStep 4 p s
/-- A future operation or a wake (21 R361). -/
def execResolvePacket (p : Packet) (s : State) : Outcome State Fault Refusal := packetStep 5 p s
/-- A registration of a remote waiter (21 R361). -/
def execRemoteTouchRegistration (p : Packet) (s : State) : Outcome State Fault Refusal := packetStep 6 p s
/-- A row (18 R324). -/
def execCopySegment (p : Packet) (s : State) : Outcome State Fault Refusal := packetStep 7 p s
/-- A multicast store (21 R363). -/
def execMulticast (p : Packet) (s : State) : Outcome State Fault Refusal := packetStep 8 p s

/-! Markers (21 R367) -/

/-- A drain marker is acknowledged once every earlier packet of its channel is performed. -/
def execDrainMarker (p : Packet) (s : State) : Outcome State Fault Refusal :=
  .next (if p.kind = 10 ∧ p.cls = 2 ∧ p.dst = s.fab.own ∧ headerBad p = false then
      answerMarkers (modFab (takeIn s p) (fun f => { f with markers := f.markers ++ [p] }))
    else s)

/-- A marker acknowledgement counts at every port that has sent the node its markers; with the last one every port in MARK is
READY. -/
def execMarkerAcknowledge (p : Packet) (s : State) : Outcome State Fault Refusal :=
  .next (if p.kind = 11 ∧ p.cls = 2 ∧ p.dst = s.fab.own ∧ headerBad p = false then
      eachPort (eachPort (takeIn s p) (fun n st =>
        if (getPort st n).sent.contains p.src.toNat then
          updPort st n (fun x => { x with acked := x.acked ++ [p.src.toNat * 4 + p.chan.toNat] })
        else st)) markReady
    else s)

/-! Full dirty logs (05 R112) -/

/-- The hypervisor has made room: what waited on a full dirty log goes on. -/
def execDirtyLogResume (cl n : Nat) (s : State) : Outcome State Fault Refusal :=
  if !s.dirtyHeld.contains (cl, n) then .next s
  else
    let s1 := { s with dirtyHeld := s.dirtyHeld.erase (cl, n) }
    .next (match cl with
      | 68 => retryFull s1
      | 69 => withdrawBard s1 n
      | 71 => doorScan (n / 64 % 8) (n % 64) 31 s1
      | 72 => runHeld s1 n
      | _ => s1)

end Sys2Proof.Machine
end

