-- ==== Sys2Proof/Machine/Answer.lean ====
section
/-!
DEFINITION. What a reply or an acknowledgement brings about at the node that sent the request (21 R358, R359, R363,
11 R230, R237).
-/
namespace Sys2Proof.Machine

open Host (Outcome)

/-- The pages of translation faults that another node met at these addresses: the address is this node's; the level of the
table and whether its entry was malformed did not travel (log 25), and neither did the stage: it counts as the first (DESIGN
CHOICE, log 99). The waiting core's run-ahead adds its pages (05 R110). -/
def farPages (acc : Nat) : List Nat → State → List PageFault × State
  | [], s => (s.ahead, s)
  | va :: r, s =>
    let a := pick s 4
    let b := pick a.2 2
    let q := farPages acc r b.2
    (⟨va / 65536, a.1, 0, acc, b.1 == 1⟩ :: q.1, q.2)

/-- The cause of an answer is raised by the instruction that waits on the active core (21 R359), with the pages of its other
translation faults. -/
def farTrap (size va acc code : Nat) (pages : List Nat) (s : State) : State :=
  if code = 5 then
    let q := farPages acc pages s
    takeTrap q.2 size { code := 5, tval := BitVec.ofNat 64 va, pages := q.1 }
  else takeTrap s size { code := code, tval := BitVec.ofNat 64 va }

/-- An answer that says that the access met data in error: cause 20 is deferred, so that the instruction completes, with what
the answer holds or with bytes that nothing is known of (06 R132, 25 R399). -/
def inError (p : Packet) : Bool := p.cause == 20

/-- The bytes of an answer: those of a load as many as were asked for. -/
def answerBytes (p : Packet) (s : State) : List Byte × State :=
  let n := if p.kind = 0 then fld p.sub.toNat 5 0 + 1 else 8
  if inError p && p.data.isEmpty then freeBytes s n else (p.data.take n, s)

/-- The value of an answer. -/
def answerValue (p : Packet) (sx : Nat) (s : State) : Word × State :=
  let b := answerBytes p s
  let x := ofLe b.1
  (if sx = 0 then BitVec.ofNat 64 x else sextW x sx, b.2)

/-- The active core's instruction has met data in error, if its answer says so. -/
def reportIf (bad : Bool) (s : State) : State := if bad then eccTo s s.cur else s

/-- The answer of a register instruction. -/
def regAnswer (p : Packet) (va d sx : Nat) (acq : Bool) (size : Nat) (s : State) : State :=
  if p.cause ≠ 0 ∧ p.cause ≠ 20 then farTrap size va (if p.kind = 0 then 1 else 3) p.cause.toNat [va] s
  else
    let s1 := reportIf (inError p) s
    if (p.kind = 2 ∨ p.kind = 3) ∧ p.sub.toNat = withdrawSub then { s1 with core := { s1.core with wait := .none } }
    else
      let v := answerValue p sx s1
      let c := (v.2.core.setG d v.1).complete size
      { v.2 with core := if acq then invalL1 c else c }

/-- The place of a cause in the order of 06 R133; those that it does not list come last. -/
def causePlace (code : Nat) : Nat :=
  if code = 7 then 5 else if code = 4 then 6
  else if [17, 18, 5, 6].contains code then 7
  else if [19, 8, 9, 21].contains code then 8
  else if [12, 11, 22, 13, 14].contains code then 9 else 10

/-- The element that decides among those that met a cause, by rising number: the first of the least place (08 R189). -/
def firstBad : List (Nat × Nat × Nat) → Option (Nat × Nat × Nat)
  | [] => none
  | x :: r =>
    match firstBad r with
    | none => some x
    | some y => if causePlace x.2.1 ≤ causePlace y.2.1 then some x else some y

/-- The cause of a load whose elements have met these; every page of cause 5 joins the batch (08 R189). -/
def elemsTrap (size : Nat) (bad : List (Nat × Nat × Nat)) (b : Nat × Nat × Nat) (s : State) : State :=
  farTrap size b.2.2 1 b.2.1 ((bad.filter (fun x => x.2.1 == 5)).map (fun x => x.2.2)) s

/-- One element of a vector load or of an array instruction has been answered. Data in error is reported once, when all have
been; an array instruction is told which elements it is in (14 R277). -/
def elemAnswer (p : Packet) (va id lane : Nat) (s0 : State) : State :=
  let b := answerBytes p s0
  let s := b.2
  let fail := fun (bad : SMap (Nat × Nat)) => if p.cause = 0 then bad else bad.insert lane (p.cause.toNat, va)
  let traps := fun (bad : SMap (Nat × Nat)) => bad.filter (fun x => x.2.1 != 20)
  match s.core.wait with
  | .vec i d fmt mk z acq left got bad size =>
    if i ≠ id then s
    else
      let got1 := if p.cause = 0 || inError p then got ++ [(lane, laneOfElem fmt (ofLe b.1))] else got
      let bad1 := fail bad
      if 1 < left then { s with core := { s.core with wait := .vec i d fmt mk z acq (left - 1) got1 bad1 size } }
      else
        match firstBad (traps bad1) with
        | some b => elemsTrap size bad1 b s
        | none =>
          let s1 := reportIf (!bad1.isEmpty) s
          let c := (putRead d mk z got1 s1.core).complete size
          { s1 with core := if 2 ≤ acq then invalL1 c else c }
  | .far i left got bad size =>
    if i ≠ id ∨ left = 0 then s
    else
      let got1 := if p.cause = 0 || inError p then got ++ [(lane, b.1)] else got
      let bad1 := fail bad
      if 1 < left then { s with core := { s.core with wait := .far i (left - 1) got1 bad1 size } }
      else
        match firstBad (traps bad1) with
        | some b => elemsTrap size bad1 b s
        | none => { s with core := { s.core with wait := .far 0 0 got1 bad1 size } }
  | _ => s

/-- Run the effect of a task instruction's answer on the active core. -/
def taskEffect (size : Nat) (m : M Unit) (s : State) : State :=
  match m s with
  | .error t => takeTrap s size t
  | .ok (_, s1) => { s1 with core := s1.core.complete size }

/-- The state that an answer of another node gives an entry (11 R236). -/
def stateOf (n : Nat) : FtState :=
  match n with
  | 0 => .resolved
  | 11 => .poisoned
  | 12 => .cancelled
  | _ => .pending

/-- The toucher has been registered: it parks, unless its wake has come already (10 R215). -/
def touchRegistered (h : Word) (woken : Bool) (s : State) : State :=
  if woken then { s with core := { s.core with wait := .none, retouch := true } }
  else
    let ref := waiterRef s
    let s1 := if (ownSlot s s.cur).isNone || s.waits.contains ⟨h, ref⟩ then s else addWaiter h ref s
    match parkOn h s1 with
    | .error _ => s1
    | .ok (_, s2) =>
      match s2.core.task with
      | some t => if stopped s2.core.wait then gangSave s2 t.gid else s2
      | none => s2

/-- The answer of a task instruction (11 R230). -/
def taskAnswer (p : Packet) (va op d t : Nat) (h : Word) (size : Nat) (s : State) : State :=
  if p.cause ≠ 0 then
    takeTrap s size { code := p.cause.toNat, tval := if p.cause = 22 then p.addr else BitVec.ofNat 64 va }
  else
    let st := stateOf (dataWord p 0)
    let value := BitVec.ofNat 64 (dataWord p 1)
    let code := dataWord p 2
    match op with
    | 0 => taskEffect size (wG d (BitVec.ofNat 64 (dataWord p 0))) s
    | 2 =>
      taskEffect size (do
        if st.done then do
          touchEnd true d t h st value code
          modC invalL1
        else do
          wG d 0
          wG t 1) s
    | 4 => taskEffect size (pure ()) s
    | 5 => taskEffect size (pure ()) s
    | 6 => taskEffect size (pure ()) s
    | 12 => taskEffect size (pure ()) s
    | _ =>
      if st.done then
        taskEffect size (do
          touchEnd (decide (op % 32 = 17)) d t h st value code
          modS (fun s => let ref := waiterRef s; dropWaiter s (fun w => w.h == h && w.ref == ref))
          modC (fun c => { invalL1 c with retouch := false })) s
      else touchRegistered h (decide (32 ≤ op)) s

/-- The address of a refill: the return, or cause 13 (06 R131). -/
def popAnswer (p : Packet) (va size : Nat) (s : State) : State :=
  if p.cause ≠ 0 ∧ p.cause ≠ 20 then takeTrap s size (stackTrap p.cause.toNat va)
  else
    let a := answerValue p 0 (reportIf (inError p) s)
    match popTo (a.1.setWidth 48) true a.2 with
    | .error t => takeTrap s size t
    | .ok (.jump a, s1) => { s1 with core := { s1.core with pc := a, cont := none, wait := .none }.countWins }
    | .ok (_, s1) => s1

/-- What an answer is for. -/
def finishOut (p : Packet) (o : Out) (s : State) : State :=
  match o.forw with
  | .reg v d sx acq size => if waitsFor s v o.tag then asCore s v (regAnswer p o.va d sx acq size) else s
  | .bard v d size => if waitsFor s v o.tag then asCore s v (regAnswer p o.va d 0 true size) else s
  | .vec v id lane => asCore s v (elemAnswer p o.va id lane)
  | .task v op d t h size => if waitsFor s v o.tag then asCore s v (taskAnswer p o.va op d t h size) else s
  | .pop v size => if waitsFor s v o.tag then asCore s v (popAnswer p o.va size) else s
  | .store v pc => if p.cause = 0 then s else lostError s v (BitVec.ofNat 64 pc)
  | .row cl id m _ => rowAnswer s cl id m p.cause.toNat p.data
  | .grid _ id => gridAnswer s id p.cause.toNat
  | .fwd q => forwarded s q (p.cause != 0 || o.va == 1)

/-- Is it the answer of a request to withdraw, which has found the access performed already: its own answer is on its way? -/
def notWithdrawn (p : Packet) : Bool := (p.kind == 2 || p.kind == 3) && p.sub.toNat == withdrawSub && !p.data.isEmpty

/-- One answer of a request and its withdrawal has come, and of a request withdrawn there is no other: what is outstanding of it
then (21 R357). -/
def answered (p : Packet) (o : Out) (s : State) : State :=
  if 2 ≤ o.left ∧ (notWithdrawn p ∨ p.sub.toNat ≠ withdrawSub) then
    modFab s (fun f => { f with outs := f.outs.map (fun x => if x = o then { x with left := 1 } else x) })
  else dropOut s o

/-- An answer to a request of this node: the unit that it is for hears it (24 R380). -/
def takeAnswer (p : Packet) (s : State) : State :=
  match s.fab.outs.find? (fun o => o.tag == p.tag.toNat && o.dst == p.src.toNat) with
  | none => s
  | some o =>
    let s1 := answered p o (hearFrom (takeIn s p) o.forw.src p.stamp.toNat)
    if notWithdrawn p then s1 else finishOut p o s1

/-- A reply completes what waits for it (21 R358, R359). -/
def execReplyPacket (p : Packet) (s : State) : Outcome State Fault Refusal :=
  .next (if p.cls = 1 ∧ p.kind ≠ 9 ∧ p.dst = s.fab.own ∧ headerBad p = false then takeAnswer p s else s)

/-- An acknowledgement: the store, the multicast or the row has been performed, or refused; a multicast store that waited
for its allowance is tried again. -/
def execAcknowledge (p : Packet) (s : State) : Outcome State Fault Refusal :=
  .next (if p.cls = 1 ∧ p.kind = 9 ∧ p.dst = s.fab.own ∧ headerBad p = false then
      let s1 := takeAnswer p s
      if s1.dirtyHeld.contains (68, 0) || s1.fab.full.isEmpty then s1 else retryFull s1
    else s)

end Sys2Proof.Machine
end

