-- ==== Sys2Proof/Machine/Gang.lean ====
section
/-!
DEFINITION. The gang barrier and exchange banks: `gbar`, `xst` (07 R160 to R165).
-/
namespace Sys2Proof.Machine

open Host (Outcome)

/-- An `xst` is accepted, with the sender's earlier ones to the same target before it (07 R164). -/
def execXstAccept (n : Nat) (s : State) : Outcome State Fault Refusal :=
  match s.xsts[n]? with
  | none => .next s
  | some x =>
    let first := (s.xsts.take n).find? (fun y => y.sender == x.sender && y.gid == x.gid && y.rank == x.rank)
    let y := first.getD x
    .next (xstWrite { s with xsts := s.xsts.erase y } y)

def xstIns (sub : Nat) (o : SysOp) : Ins :=
  sysIns 1 sub o ((if sub = 0 then regsOf .g o.s.toNat else regsOf .v o.s.toNat) ++ regsOf .g o.t.toNat) []

/-- `xst`: the checks of 07 R163, then the write is on its way; with LA = 0 the bank accepts it before the successor issues. -/
def xstBody (sub n : Nat) (o : SysOp) (data : Core → List Byte) (s : State) : Outcome State Fault Refusal :=
  issue (xstIns sub o) noPre (fun _ _ _ => do
    let t ← rG o.t.toNat
    let off := fld t.toNat 14 0
    let rank := fld t.toNat 18 16
    guardT (off % n == 0) { code := 4, tval := t }
    let s ← getS
    match s.core.task with
    | none => do
      guardT (rank == 0) { code := 9, tval := t }
      modS (fun s => homeWrite s none 0 (bankAt s.cur (!s.core.live) off) (data s.core))
      pure .seq
    | some r => do
      guardT ((rankCore s r.gid rank).isSome) { code := 9, tval := t }
      modS (fun s => { s with xsts := s.xsts ++ [⟨s.cur, s.core.pc.toNat, r.gid, rank, off, data s.core⟩] })
      if o.la = 0 then modS (fun s => acceptXsts s (fun x => x.sender == s.cur && x.rank == rank)) else pure ()
      pure .seq) s

/-- `xst.d` (07 R163). -/
def execXstD (o : SysOp) (s : State) : Outcome State Fault Refusal :=
  xstBody 0 8 o (fun c => leBytes 8 (c.getG o.s.toNat).toNat) s
/-- `xst.v` (07 R163). -/
def execXstV (o : SysOp) (s : State) : Outcome State Fault Refusal :=
  xstBody 1 64 o (fun c => leBytes 64 (c.getV (o.s.toNat % 32)).toNat) s

/-! Gang barrier (07 R160 to R162) -/

/-- What an ended member counts as. -/
def identity (sub : Nat) : Word :=
  match sub with
  | 0 => BitVec.allOnes 64
  | 4 => BitVec.ofNat 64 (2 ^ 63 - 1)
  | 5 => BitVec.ofNat 64 (2 ^ 63)
  | _ => 0

def inGbar (c : Core) : Bool := c.bar.arrived && (match c.wait with | .gbar _ _ => true | _ => false)

/-- A member leaves the barrier with its result: banks swap, the epoch advances (07 R161). -/
def Core.leaveBar (x : Word) (c : Core) : Core :=
  match c.wait with
  | .gbar d size =>
    ({ c with live := !c.live, bar := { c.bar with arrived := false, epoch := c.bar.epoch + 1 } }.setG d x).complete size
  | _ => c

/-- The combine of a member with its own sub (07 R161): `gbar.popc` counts, so that an ended member counts nothing. -/
def barResult (s : State) (live : List Nat) (ended : Nat) (v : Nat) : Word :=
  let sub := (getCore s v).bar.sub
  combine sub (live.map (fun w => (getCore s w).bar.payload) ++ List.replicate ended (identity sub))

/-- Complete the episode of core `v`'s gang, where every live member has arrived and waits; a core without a task
is a gang of one. -/
def gbarTry (s : State) (v : Nat) : Option State :=
  let go := fun (live : List Nat) (ended : Nat) =>
    if live.all (fun w => inGbar (getCore s w)) then
      let res := live.map (fun w => (w, barResult s live ended w))
      some (res.foldl (fun st p => updCore st p.1 (Core.leaveBar p.2)) s)
    else none
  match gangOfCore s v with
  | none => go [v] 0
  | some g =>
    let l := g.members.filter (fun m => !m.ended)
    if l.all (fun m => m.core.isSome) then go (l.filterMap (fun m => m.core)) (g.members.length - l.length) else none

/-- A gang of one completes as soon as it arrives (07 R161). -/
def aloneInGang (s : State) (v : Nat) : Bool :=
  match gangOfCore s v with
  | none => true
  | some g => decide (g.members.length = 1)

def gbarIns (sub : Nat) (o : SysOp) : Ins := sysIns 0 sub o (regsOf .g o.s.toNat) (regsOf .g o.d.toNat)

/-- `gbar`: arrive once an episode, when the core's earlier accesses are performed at cluster scope, then wait (07 R161, R162). -/
def gbarBody (sub : Nat) (o : SysOp) (s : State) : Outcome State Fault Refusal :=
  let x := gbarIns sub o
  issue x noPre (fun _ _ _ => do
    let s ← getS
    let w ← ackWait (!s.core.bar.arrived) 1
    if w then holdIssue
    else do
      opensLater x
      if s.core.bar.arrived then modC (fun c => { c with wait := .gbar o.d.toNat x.size })
      else do
        releaseBefore 1
        modC (fun c => { c with
          wait := .gbar o.d.toNat x.size
          bar := { c.bar with arrived := true, sub := sub, payload := c.getG o.s.toNat, pc := c.pc } })
      let s ← getS
      if aloneInGang s s.cur then modS (fun s => (gbarTry s s.cur).getD s) else pure ()
      pure .hold) s

/-- `gbar.and` (07 R161). -/
def execGbarAnd (o : SysOp) (s : State) : Outcome State Fault Refusal := gbarBody 0 o s

/-- `gbar.or` (07 R161). -/
def execGbarOr (o : SysOp) (s : State) : Outcome State Fault Refusal := gbarBody 1 o s

/-- `gbar.add` (07 R161). -/
def execGbarAdd (o : SysOp) (s : State) : Outcome State Fault Refusal := gbarBody 2 o s

/-- `gbar.popc` (07 R161). -/
def execGbarPopc (o : SysOp) (s : State) : Outcome State Fault Refusal := gbarBody 3 o s

/-- `gbar.min` (07 R161). -/
def execGbarMin (o : SysOp) (s : State) : Outcome State Fault Refusal := gbarBody 4 o s

/-- `gbar.max` (07 R161). -/
def execGbarMax (o : SysOp) (s : State) : Outcome State Fault Refusal := gbarBody 5 o s

/-- `gbar.none` (07 R161). -/
def execGbarNone (o : SysOp) (s : State) : Outcome State Fault Refusal := gbarBody 6 o s

/-- The episode of the gang of core `v` completes (07 R161). -/
def execGbarComplete (v : Nat) (s : State) : Outcome State Fault Refusal := .next ((gbarTry s v).getD s)

end Sys2Proof.Machine
end

