-- ==== Sys2Proof/Machine/TraceIns.lean ====
section
/-!
DEFINITION. The trace instruction, trace clocks, trace stalls (24 R375, R379, R385, R389), and the completions that
instructions leave outstanding: long instructions (02 R36) and stores in a write buffer (23 R373).
-/
namespace Sys2Proof.Machine

open Host (Outcome)

/-- `trace` (24 R389). -/
def execTrace (o : SysOp) (s : State) : Outcome State Fault Refusal :=
  issue (sysIns 8 0 o (regsOf .g o.s.toNat) []) noPre (fun _ _ _ => do
    let x ← rG o.s.toNat
    modS (fun s => emitCore s 0x01 0 s.core.priv.num (o.d.toNat % 16 * 2 ^ 20 + x.toNat % 2 ^ 20) none)
    pure .seq) s

/-- `trace.x` (24 R389). -/
def execTraceX (o : SysOp) (s : State) : Outcome State Fault Refusal :=
  issue (sysIns 8 1 o (regsOf .g o.s.toNat ++ regsOf .g o.t.toNat) []) noPre (fun _ _ _ => do
    let x ← rG o.s.toNat
    let y ← rG o.t.toNat
    modS (fun s => emitCore s 0x81 0 s.core.priv.num (o.d.toNat % 16 * 2 ^ 20) (some (x.toNat, y.toNat)))
    pure .seq) s

/-- The counter that a selector names, and its least level; stalls that go on count as far as they have come (24 R389). -/
def counterOf (s : State) (sel : Nat) : Option (Nat × Bool) :=
  let c := getCtx s s.core.ctx.toNat
  let i := sel % 256
  if 65536 ≤ sel then none
  else
    match sel / 256 with
    | 0 =>
      (match i with
       | 0 => some (c.qwait, false)
       | 1 => some (c.search / 840, false)
       | 2 => some (c.run, false)
       | 3 => some (c.stall + stallsOn s (fun r => r.ctx == s.core.ctx.toNat), false)
       | _ => none)
    | 1 => if i = 0 then some ((getCl s (clusterOf s.cur)).failed, false) else none
    | 2 => if i ≤ 141 then some (s.busy.getD (512 + i) 0, true) else none
    | 3 => if i ≤ 141 then some (s.estall.getD (512 + i) 0 + stallsOn s (fun r => r.src == 512 + i), true) else none
    | 4 =>
      (match i with
       | 0 => some (s.core.holdCycles, false)
       | 1 => some (s.core.stallCycles, false)
       | _ => none)
    | _ => none

/-- `trace.cnt` (24 R389). -/
def execTraceCnt (o : SysOp) (s : State) : Outcome State Fault Refusal :=
  let x := sysIns 8 2 o (regsOf .g o.s.toNat) (regsOf .g o.d.toNat)
  issue x (fun st =>
    if !st.core.knows (regsOf .g o.s.toNat) then none
    else match counterOf st (st.core.getG o.s.toNat).toNat with
    | none => some (illegal x)
    | some (_, h) => if h && st.core.priv != .h then some (privTrap x) else none) (fun _ _ _ => do
    let sel ← rG o.s.toNat
    let s ← getS
    wG o.d.toNat (BitVec.ofNat 64 (((counterOf s sel.toNat).map (fun p => p.1)).getD 0))
    pure .seq) s

/-- What waited for the stall of a synchronisation engine goes on once it has ended: the results that it held back, and the
requests of other nodes (24 R385). -/
def afterStall (src : Nat) (s : State) : State :=
  let s1 := syeGoOn s src
  if stalledSrc s1 src || s1.fab.full.isEmpty || s1.dirtyHeld.contains (68, 0) then s1 else retryFull s1

/-- A record that waited fits now (24 R385). -/
def execTraceStallEnd (src : Nat) (s : State) : Outcome State Fault Refusal := .next (afterStall src (stallEnd s src))
/-- A stall reaches its limit (24 R385). -/
def execTraceStallLimit (src : Nat) (s : State) : Outcome State Fault Refusal := .next (afterStall src (stallLimit s src))

/-! Clocks (24 R375, R379) -/

def setClock (s : State) (die : Nat) (f : TraceClock → TraceClock) : State :=
  if die = 0 then { s with clock0 := f s.clock0 } else { s with clock1 := f s.clock1 }

def clockOf (s : State) (die : Nat) : TraceClock := if die = 0 then s.clock0 else s.clock1

/-- The step forward with which the counter of die `d` locks: at the first lock as far as `fwd` says, but to within 32
sixteenths of the other die's where that holds lock (24 R375); none where it cannot lock now: where a later lock would need a step. -/
def lockStep (s : State) (d fwd : Nat) : Option Nat :=
  let t := traceTime s d
  let o := traceTime s (1 - d)
  let step := if (clockOf s d).locked then 0 else fwd
  if !(clockOf s (1 - d)).held then some step
  else if o + 32 < t then none
  else
    let near := minN (maxN step (o - 32 - t)) (o + 32 - t)
    if (clockOf s d).locked && (near != 0 || decide (32 * 190000 < apart (clockOf s d).ideal (clockOf s (1 - d)).ideal)) then none else some near

/-- Where the time at the servo's rate starts at the first lock: at the counter, but within 32 sixteenths of the other die's where
that holds lock, as the counters then keep (24 R375). -/
def lockIdeal (s : State) (d now : Nat) : Nat :=
  let o := clockOf s (1 - d)
  if o.held then minN (maxN (now * 190000) (o.ideal - 32 * 190000)) (o.ideal + 32 * 190000) else now * 190000

/-- The servo achieves lock. -/
def execClockLock (die fwd : Nat) (s : State) : Outcome State Fault Refusal :=
  let d := die % 2
  let c := clockOf s d
  match (if c.held then none else lockStep s d fwd) with
  | none => .next s
  | some step =>
    let now := traceTime s d + step
    let s1 := setClock s d (fun c =>
      { base := now, held := true, locked := true, ideal := if c.locked then c.ideal else lockIdeal s d now })
    .next (emit s1 (652 + d) 0 0x11 9 2 (1 + 2 * b2n (step != 0)) none)

/-- The servo loses lock. -/
def execClockLockLost (die : Nat) (s : State) : Outcome State Fault Refusal :=
  let d := die % 2
  if !(clockOf s d).held then .next s
  else .next (emit (setClock s d (fun c => { c with held := false })) (652 + d) 0 0x11 9 2 0 none)

/-- A notice of a halted or resumed device goes into the hypervisor's buffer, past the stamp that it carries (21 R365, 24 R379,
R380). -/
def execHaltNotice (node : BitVec 10) (scope : BitVec 2) (resume : Bool) (vc : BitVec 9) (ctx : BitVec 6) (s : State) : Outcome State Fault Refusal :=
  .next (emit { s with fresh := s.fresh + 1 } 652 ctx.toNat 0x92 8 2 (scope.toNat + 4 * b2n resume) (some (node.toNat + 1024 * vc.toNat + 2 ^ 19 * ctx.toNat, 0)) (Config.noticeStamp s.fresh + 1))

/-! Completions -/

/-- Window n of a core gives its register results. -/
def Core.landWin (c : Core) (n : Nat) : Core :=
  match c.wins[n]? with
  | none => c
  | some w => { c.applyWin w with wins := c.wins.set n { w with gw := [], vw := [] } }

/-- An outstanding long instruction completes (02 R36). -/
def execLongInstructionComplete (v n : Nat) (s : State) : Outcome State Fault Refusal := .next (updCore s v (fun c => c.landWin n))

/-- A store leaves the write buffer; earlier stores to the same location go before it (05 R100, 23 R373). One to a word of a
synchronisation engine waits for its trace stall (24 R385). -/
def execStorePerformed (v n : Nat) (s : State) : Outcome State Fault Refusal :=
  let c := getCore s v
  match c.wbuf[n]? with
  | none => .next s
  | some e =>
    let q := splitWb (fun f => f == e) (c.wbuf.take (n + 1))
    .next (if q.1.any (fun f => f.sync && syeBusy s (syeSrc f.pa)) then s else q.1.foldl (fun st f => perform st v f) (setCore s v { c with wbuf := q.2 ++ c.wbuf.drop (n + 1) }))

end Sys2Proof.Machine
end

