-- ==== Sys2Proof/Machine/VectorInt.lean ====
section
/-!
DEFINITION. Vector integer arithmetic, lane moves, reductions and mask operations (08 R180 to R183, R186).
-/
namespace Sys2Proof.Machine

open Host (Outcome)

def intRaw (fn : Nat) (o : VR) : Raw := encVR 7 none fn o

/-- Write 16 lanes under the mask. -/
def putLanes (o : VR) (d : Nat) (l : List Nat) : M Unit := do
  let s ← getS
  let old := s.core.getV d
  wV d (setElems 32 old 0 (mergeElems (maskBits o.mask s.core) (zeroing o.mask) (elemsOf 32 0 16 old) l))

def intBin (fn : Nat) (o : VR) (op : BitVec 32 → BitVec 32 → BitVec 32) (s : State) : Outcome State Fault Refusal :=
  issue (vIns (intRaw fn o) (shInt fn) false o) noPre (fun d sf _ => (do
    let st ← getS
    let p := vOps o d sf st.core
    putLanes o d ((List.range 16).map (fun i => (op (BitVec.ofNat 32 (elem 32 p.1 i)) (BitVec.ofNat 32 (elem 32 p.2 i))).toNat))
    pure .seq)) s

def intCmp (fn : Nat) (o : VR) (op : Int → Int → Bool) (s : State) : Outcome State Fault Refusal :=
  issue (vIns (intRaw fn o) (shInt fn) false o) noPre (fun d sf _ => (do
    let st ← getS
    let p := vOps o d sf st.core
    wK d (BitVec.ofNat 64 (cmpBits (maskBits o.mask st.core) 16 (st.core.getK d).toNat (fun i =>
      op (sextI (elem 32 p.1 i) 32) (sextI (elem 32 p.2 i) 32))))
    pure .seq)) s

/-- `vadd` (08 R180). -/
def execVadd (o : VR) (s : State) : Outcome State Fault Refusal := intBin 0 o (fun a b => a + b) s

/-- `vsub` (08 R180). -/
def execVsub (o : VR) (s : State) : Outcome State Fault Refusal := intBin 1 o (fun a b => a - b) s

/-- `vmul` (08 R180). -/
def execVmul (o : VR) (s : State) : Outcome State Fault Refusal := intBin 2 o (fun a b => a * b) s

/-- `vand` (08 R180). -/
def execVand (o : VR) (s : State) : Outcome State Fault Refusal := intBin 3 o (fun a b => a &&& b) s

/-- `vor` (08 R180). -/
def execVor (o : VR) (s : State) : Outcome State Fault Refusal := intBin 4 o (fun a b => a ||| b) s

/-- `vxor` (08 R180). -/
def execVxor (o : VR) (s : State) : Outcome State Fault Refusal := intBin 5 o (fun a b => a ^^^ b) s

/-- `vsll` (08 R180). -/
def execVsll (o : VR) (s : State) : Outcome State Fault Refusal := intBin 6 o (fun a b => a <<< (b.toNat % 32)) s

/-- `vsrl` (08 R180). -/
def execVsrl (o : VR) (s : State) : Outcome State Fault Refusal := intBin 7 o (fun a b => a >>> (b.toNat % 32)) s

/-- `vsra` (08 R180). -/
def execVsra (o : VR) (s : State) : Outcome State Fault Refusal := intBin 8 o (fun a b => a.sshiftRight (b.toNat % 32)) s

/-- `vmin` (08 R180). -/
def execVmin (o : VR) (s : State) : Outcome State Fault Refusal := intBin 9 o (fun a b => if a.toInt ≤ b.toInt then a else b) s

/-- `vmax` (08 R180). -/
def execVmax (o : VR) (s : State) : Outcome State Fault Refusal := intBin 10 o (fun a b => if a.toInt ≤ b.toInt then b else a) s

/-- `vceq` (08 R180). -/
def execVceq (o : VR) (s : State) : Outcome State Fault Refusal := intCmp 11 o (fun a b => decide (a = b)) s

/-- `vclt` (08 R180). -/
def execVclt (o : VR) (s : State) : Outcome State Fault Refusal := intCmp 12 o (fun a b => decide (a < b)) s

/-- `vperm` (08 R181). -/
def execVperm (o : VR) (s : State) : Outcome State Fault Refusal :=
  issue (vIns (intRaw 13 o) (shInt 13) false o) noPre (fun d sf _ => (do
    let st ← getS
    let p := vOps o d sf st.core
    putLanes o d ((List.range 16).map (fun i => elem 32 p.1 (elem 32 p.2 i % 16)))
    pure .seq)) s

/-- `vmov` (08 R180). -/
def execVmov (o : VR) (s : State) : Outcome State Fault Refusal :=
  issue (vIns (intRaw 14 o) (shInt 14) false o) noPre (fun d sf _ => (do
    let a ← rV sf
    putLanes o d (elemsOf 32 0 16 a)
    pure .seq)) s

/-- `vbcst` (08 R181). -/
def execVbcst (o : VR) (s : State) : Outcome State Fault Refusal :=
  issue (vIns (intRaw 15 o) (shInt 15) false o) noPre (fun d sf _ => (do
    let a ← rG sf
    putLanes o d (List.replicate 16 (a.toNat % 2 ^ 32))
    pure .seq)) s

/-! Page 3 (08 R182, R183) -/

def p3Raw (fn : Nat) (o : VR) : Raw := encVR 7 (some 3) fn o
def p3Shp (fn : Nat) : Shp := (shP3 fn).getD shUn
def p3Ins (fn : Nat) (readsD : Bool) (o : VR) : Ins := vIns (p3Raw fn o) (p3Shp fn) readsD o

/-- The g register that t names; g0 where t is absent. -/
def tG (o : VR) (c : Core) : Word := c.getG ((o.t.map (fun t => t.toNat)).getD 0)

/-- `vext` (08 R182). -/
def execVext (o : VR) (s : State) : Outcome State Fault Refusal :=
  issue (p3Ins 0 false o) noPre (fun d sf _ => (do
    let st ← getS
    let i := (tG o st.core).toNat % 16
    wG d (if bitOf (maskBits o.mask st.core) i then sextW (elem 32 (st.core.getV sf) i) 32 else 0)
    pure .seq)) s

/-- `vins` (08 R182). -/
def execVins (o : VR) (s : State) : Outcome State Fault Refusal :=
  issue (p3Ins 1 true o) noPre (fun d sf _ => (do
    let st ← getS
    let i := (tG o st.core).toNat % 16
    putLanes o d ((elemsOf 32 0 16 (st.core.getV d)).set i ((st.core.getG sf).toNat % 2 ^ 32))
    pure .seq)) s

/-- `vidx` (08 R182). -/
def execVidx (o : VR) (s : State) : Outcome State Fault Refusal :=
  issue (p3Ins 2 false o) noPre (fun d _ _ => (do
    putLanes o d (List.range 16)
    pure .seq)) s

/-- The active lanes of vs as signed integers. -/
def activeInts (mk : Nat) (a : VReg) : List Int :=
  (List.range 16).filterMap (fun i => if bitOf mk i then some (sextI (elem 32 a i) 32) else none)

/-- A reduction of the active lanes into g(d). -/
def reduceTo (fn : Nat) (o : VR) (f : List Int → Int) (s : State) : Outcome State Fault Refusal :=
  issue (p3Ins fn false o) noPre (fun d sf _ => (do
    let st ← getS
    wG d (BitVec.ofInt 64 (f (activeInts (maskBits o.mask st.core) (st.core.getV sf))))
    pure .seq)) s

/-- `vredadd` (08 R182). -/
def execVredadd (o : VR) (s : State) : Outcome State Fault Refusal := reduceTo 3 o (fun l => l.foldl (fun a b => a + b) 0) s

/-- `vredmin` (08 R182). -/
def execVredmin (o : VR) (s : State) : Outcome State Fault Refusal :=
  reduceTo 4 o (fun l => l.foldl (fun a b => if a ≤ b then a else b) (2 ^ 31 - 1)) s

/-- `vredmax` (08 R182). -/
def execVredmax (o : VR) (s : State) : Outcome State Fault Refusal :=
  reduceTo 5 o (fun l => l.foldl (fun a b => if a ≤ b then b else a) (-2 ^ 31)) s

/-- The index that 08 R183 computes, all ones where no lane counts. -/
def argBest (mk : Nat) (a : VReg) (beats : Int → Bool) : Word :=
  let best := (List.range 16).foldl (fun (b : Option Nat) i =>
    let x := fp32.dec (elem 32 a i)
    if !bitOf mk i || x.isNan then b
    else
      match b with
      | none => some i
      | some j => if beats (fcmp x (fp32.dec (elem 32 a j))) then some i else some j) none
  match best with
  | none => BitVec.allOnes 64
  | some i => BitVec.ofNat 64 i

def argTo (fn : Nat) (o : VR) (beats : Int → Bool) (s : State) : Outcome State Fault Refusal :=
  issue (p3Ins fn false o) noPre (fun d sf _ => (do
    let st ← getS
    wG d (argBest (maskBits o.mask st.core) (st.core.getV sf) beats)
    pure .seq)) s

/-- `vargmax` (08 R183). -/
def execVargmax (o : VR) (s : State) : Outcome State Fault Refusal := argTo 6 o (fun x => decide (0 < x)) s

/-- `vargmin` (08 R183). -/
def execVargmin (o : VR) (s : State) : Outcome State Fault Refusal := argTo 7 o (fun x => decide (x < 0)) s

/-- `vslideup` (08 R182). -/
def execVslideup (o : VR) (s : State) : Outcome State Fault Refusal :=
  issue (p3Ins 8 true o) noPre (fun d sf _ => (do
    let st ← getS
    let n := (tG o st.core).toNat
    let a := st.core.getV sf
    let old := st.core.getV d
    putLanes o d ((List.range 16).map (fun i => if n ≤ i then elem 32 a (i - n) else elem 32 old i))
    pure .seq)) s

/-- `vslidedn` (08 R182). -/
def execVslidedn (o : VR) (s : State) : Outcome State Fault Refusal :=
  issue (p3Ins 9 false o) noPre (fun d sf _ => (do
    let st ← getS
    let n := (tG o st.core).toNat
    let a := st.core.getV sf
    putLanes o d ((List.range 16).map (fun i => if i + n ≤ 15 then elem 32 a (i + n) else 0))
    pure .seq)) s

/-! Mask operations (08 R186) -/

def kmIns (fn : Nat) (o : KM) : Ins :=
  let h := (shP6 fn).getD shUn
  { Ins.of (encKM fn o) with
    units := true, d := o.d.toNat, s := o.s.toNat
    reads := fun _ s => regsOf h.s s
    writes := fun d _ => regsOf h.d d }

def kBin (fn : Nat) (o : KM) (f : Word → Word → Word) (s : State) : Outcome State Fault Refusal :=
  issue (kmIns fn o) noPre (fun d sf _ => (do
    let st ← getS
    let p := match o.t with
      | none => (st.core.getK d, st.core.getK sf)
      | some t => (st.core.getK sf, st.core.getK t.toNat)
    wK d (f p.1 p.2)
    pure .seq)) s

def kToG (fn : Nat) (o : KM) (f : Word → Word) (s : State) : Outcome State Fault Refusal :=
  issue (kmIns fn o) noPre (fun d sf _ => (do
    let a ← rK sf
    wG d (f a)
    pure .seq)) s

def gToK (fn : Nat) (o : KM) (f : Word → Word) (s : State) : Outcome State Fault Refusal :=
  issue (kmIns fn o) noPre (fun d sf _ => (do
    let a ← rG sf
    wK d (f a)
    pure .seq)) s

/-- `kand` (08 R186). -/
def execKand (o : KM) (s : State) : Outcome State Fault Refusal := kBin 0 o (fun a b => a &&& b) s

/-- `kor` (08 R186). -/
def execKor (o : KM) (s : State) : Outcome State Fault Refusal := kBin 1 o (fun a b => a ||| b) s

/-- `kxor` (08 R186). -/
def execKxor (o : KM) (s : State) : Outcome State Fault Refusal := kBin 2 o (fun a b => a ^^^ b) s

/-- `knot` (08 R186). -/
def execKnot (o : KM) (s : State) : Outcome State Fault Refusal :=
  issue (kmIns 3 o) noPre (fun d sf _ => (do
    let a ← rK sf
    wK d (~~~a)
    pure .seq)) s

/-- `kmovg` (08 R186). -/
def execKmovg (o : KM) (s : State) : Outcome State Fault Refusal := kToG 4 o (fun a => a) s

/-- `kmovk` (08 R186). -/
def execKmovk (o : KM) (s : State) : Outcome State Fault Refusal := gToK 5 o (fun a => a) s

/-- `kpopc` (08 R186). -/
def execKpopc (o : KM) (s : State) : Outcome State Fault Refusal := kToG 6 o (fun a => BitVec.ofNat 64 (popCount 64 a.toNat)) s

/-- The lowest set bit, 64 where there is none. -/
def firstBit (a : Word) : Nat := (firstBelow (fun i => a.getLsbD i) 64).getD 64

/-- `kfirst` (08 R186). -/
def execKfirst (o : KM) (s : State) : Outcome State Fault Refusal := kToG 7 o (fun a => BitVec.ofNat 64 (firstBit a)) s

/-- `klanes` (08 R186). -/
def execKlanes (o : KM) (s : State) : Outcome State Fault Refusal := gToK 8 o (fun a => BitVec.ofNat 64 (2 ^ minN a.toNat 64 - 1)) s

end Sys2Proof.Machine
end

