-- ==== Sys2Proof/Machine/Dispatch.lean ====
section
/-!
DEFINITION. One arm for each row of the opcode table: each calls the meaning of its row.
-/
namespace Sys2Proof.Machine

open Host (Outcome)

/-- What an instruction, or a step of the device, makes of the state. -/
def exec (i : Instr) (s : State) : Host.Outcome State Fault Refusal :=
  match i with
  | .nop => Sys2Proof.Machine.execNop s
  | .fence o => Sys2Proof.Machine.execFence o s
  | .trap o => Sys2Proof.Machine.execTrap o s
  | .brk o => Sys2Proof.Machine.execBrk o s
  | .ret => Sys2Proof.Machine.execRet s
  | .rett => Sys2Proof.Machine.execRett s
  | .isync => Sys2Proof.Machine.execIsync s
  | .rdcyc o => Sys2Proof.Machine.execRdcyc o s
  | .rdtime o => Sys2Proof.Machine.execRdtime o s
  | .rdvc o => Sys2Proof.Machine.execRdvc o s
  | .jr o => Sys2Proof.Machine.execJr o s
  | .callr o => Sys2Proof.Machine.execCallr o s
  | .rdctx o => Sys2Proof.Machine.execRdctx o s
  | .add o => Sys2Proof.Machine.execAdd o s
  | .sub o => Sys2Proof.Machine.execSub o s
  | .and o => Sys2Proof.Machine.execAnd o s
  | .or o => Sys2Proof.Machine.execOr o s
  | .xor o => Sys2Proof.Machine.execXor o s
  | .sll o => Sys2Proof.Machine.execSll o s
  | .srl o => Sys2Proof.Machine.execSrl o s
  | .sra o => Sys2Proof.Machine.execSra o s
  | .mul o => Sys2Proof.Machine.execMul o s
  | .mulhu o => Sys2Proof.Machine.execMulhu o s
  | .min o => Sys2Proof.Machine.execMin o s
  | .max o => Sys2Proof.Machine.execMax o s
  | .minu o => Sys2Proof.Machine.execMinu o s
  | .maxu o => Sys2Proof.Machine.execMaxu o s
  | .slt o => Sys2Proof.Machine.execSlt o s
  | .sltu o => Sys2Proof.Machine.execSltu o s
  | .div o => Sys2Proof.Machine.execDiv o s
  | .divu o => Sys2Proof.Machine.execDivu o s
  | .rem o => Sys2Proof.Machine.execRem o s
  | .remu o => Sys2Proof.Machine.execRemu o s
  | .clz o => Sys2Proof.Machine.execClz o s
  | .ctz o => Sys2Proof.Machine.execCtz o s
  | .popc o => Sys2Proof.Machine.execPopc o s
  | .brev o => Sys2Proof.Machine.execBrev o s
  | .mulh o => Sys2Proof.Machine.execMulh o s
  | .bext o => Sys2Proof.Machine.execBext o s
  | .ptag o => Sys2Proof.Machine.execPtag o s
  | .pset o => Sys2Proof.Machine.execPset o s
  | .addi o => Sys2Proof.Machine.execAddi o s
  | .slli o => Sys2Proof.Machine.execSlli o s
  | .srli o => Sys2Proof.Machine.execSrli o s
  | .srai o => Sys2Proof.Machine.execSrai o s
  | .andi o => Sys2Proof.Machine.execAndi o s
  | .ori o => Sys2Proof.Machine.execOri o s
  | .xori o => Sys2Proof.Machine.execXori o s
  | .li o => Sys2Proof.Machine.execLi o s
  | .mov o => Sys2Proof.Machine.execMov o s
  | .j o => Sys2Proof.Machine.execJ o s
  | .call o => Sys2Proof.Machine.execCall o s
  | .beqz o => Sys2Proof.Machine.execBeqz o s
  | .bnez o => Sys2Proof.Machine.execBnez o s
  | .bltz o => Sys2Proof.Machine.execBltz o s
  | .bgez o => Sys2Proof.Machine.execBgez o s
  | .beq o => Sys2Proof.Machine.execBeq o s
  | .bne o => Sys2Proof.Machine.execBne o s
  | .blt o => Sys2Proof.Machine.execBlt o s
  | .bge o => Sys2Proof.Machine.execBge o s
  | .ld o => Sys2Proof.Machine.execLd o s
  | .lds o => Sys2Proof.Machine.execLds o s
  | .st o => Sys2Proof.Machine.execSt o s
  | .ldWf o => Sys2Proof.Machine.execLdWf o s
  | .ldTake o => Sys2Proof.Machine.execLdTake o s
  | .stPut o => Sys2Proof.Machine.execStPut o s
  | .stSf o => Sys2Proof.Machine.execStSf o s
  | .ldSe o => Sys2Proof.Machine.execLdSe o s
  | .ldFes o => Sys2Proof.Machine.execLdFes o s
  | .gbarAnd o => Sys2Proof.Machine.execGbarAnd o s
  | .gbarOr o => Sys2Proof.Machine.execGbarOr o s
  | .gbarAdd o => Sys2Proof.Machine.execGbarAdd o s
  | .gbarPopc o => Sys2Proof.Machine.execGbarPopc o s
  | .gbarMin o => Sys2Proof.Machine.execGbarMin o s
  | .gbarMax o => Sys2Proof.Machine.execGbarMax o s
  | .gbarNone o => Sys2Proof.Machine.execGbarNone o s
  | .xstD o => Sys2Proof.Machine.execXstD o s
  | .xstV o => Sys2Proof.Machine.execXstV o s
  | .sleept o => Sys2Proof.Machine.execSleept o s
  | .csrr o => Sys2Proof.Machine.execCsrr o s
  | .csrw o => Sys2Proof.Machine.execCsrw o s
  | .csrs o => Sys2Proof.Machine.execCsrs o s
  | .csrc o => Sys2Proof.Machine.execCsrc o s
  | .vfadd o => Sys2Proof.Machine.execVfadd o s
  | .vfsub o => Sys2Proof.Machine.execVfsub o s
  | .vfmul o => Sys2Proof.Machine.execVfmul o s
  | .vfma o => Sys2Proof.Machine.execVfma o s
  | .vfmin o => Sys2Proof.Machine.execVfmin o s
  | .vfmax o => Sys2Proof.Machine.execVfmax o s
  | .vfabs o => Sys2Proof.Machine.execVfabs o s
  | .vfneg o => Sys2Proof.Machine.execVfneg o s
  | .vfceq o => Sys2Proof.Machine.execVfceq o s
  | .vfclt o => Sys2Proof.Machine.execVfclt o s
  | .vfcle o => Sys2Proof.Machine.execVfcle o s
  | .vfrcp o => Sys2Proof.Machine.execVfrcp o s
  | .vfexp2 o => Sys2Proof.Machine.execVfexp2 o s
  | .vflog2 o => Sys2Proof.Machine.execVflog2 o s
  | .vfrsq o => Sys2Proof.Machine.execVfrsq o s
  | .vfsum o => Sys2Proof.Machine.execVfsum o s
  | .vfaddH o => Sys2Proof.Machine.execVfaddH o s
  | .vfsubH o => Sys2Proof.Machine.execVfsubH o s
  | .vfmulH o => Sys2Proof.Machine.execVfmulH o s
  | .vfmaH o => Sys2Proof.Machine.execVfmaH o s
  | .vfminH o => Sys2Proof.Machine.execVfminH o s
  | .vfmaxH o => Sys2Proof.Machine.execVfmaxH o s
  | .vfabsH o => Sys2Proof.Machine.execVfabsH o s
  | .vfnegH o => Sys2Proof.Machine.execVfnegH o s
  | .vfceqH o => Sys2Proof.Machine.execVfceqH o s
  | .vfcltH o => Sys2Proof.Machine.execVfcltH o s
  | .vfcleH o => Sys2Proof.Machine.execVfcleH o s
  | .vfrcpH o => Sys2Proof.Machine.execVfrcpH o s
  | .vfexp2H o => Sys2Proof.Machine.execVfexp2H o s
  | .vflog2H o => Sys2Proof.Machine.execVflog2H o s
  | .vfrsqH o => Sys2Proof.Machine.execVfrsqH o s
  | .vfsumH o => Sys2Proof.Machine.execVfsumH o s
  | .vfaddB o => Sys2Proof.Machine.execVfaddB o s
  | .vfsubB o => Sys2Proof.Machine.execVfsubB o s
  | .vfmulB o => Sys2Proof.Machine.execVfmulB o s
  | .vfmaB o => Sys2Proof.Machine.execVfmaB o s
  | .vfminB o => Sys2Proof.Machine.execVfminB o s
  | .vfmaxB o => Sys2Proof.Machine.execVfmaxB o s
  | .vfabsB o => Sys2Proof.Machine.execVfabsB o s
  | .vfnegB o => Sys2Proof.Machine.execVfnegB o s
  | .vfceqB o => Sys2Proof.Machine.execVfceqB o s
  | .vfcltB o => Sys2Proof.Machine.execVfcltB o s
  | .vfcleB o => Sys2Proof.Machine.execVfcleB o s
  | .vfrcpB o => Sys2Proof.Machine.execVfrcpB o s
  | .vfexp2B o => Sys2Proof.Machine.execVfexp2B o s
  | .vflog2B o => Sys2Proof.Machine.execVflog2B o s
  | .vfrsqB o => Sys2Proof.Machine.execVfrsqB o s
  | .vfsumB o => Sys2Proof.Machine.execVfsumB o s
  | .vadd o => Sys2Proof.Machine.execVadd o s
  | .vsub o => Sys2Proof.Machine.execVsub o s
  | .vmul o => Sys2Proof.Machine.execVmul o s
  | .vand o => Sys2Proof.Machine.execVand o s
  | .vor o => Sys2Proof.Machine.execVor o s
  | .vxor o => Sys2Proof.Machine.execVxor o s
  | .vsll o => Sys2Proof.Machine.execVsll o s
  | .vsrl o => Sys2Proof.Machine.execVsrl o s
  | .vsra o => Sys2Proof.Machine.execVsra o s
  | .vmin o => Sys2Proof.Machine.execVmin o s
  | .vmax o => Sys2Proof.Machine.execVmax o s
  | .vceq o => Sys2Proof.Machine.execVceq o s
  | .vclt o => Sys2Proof.Machine.execVclt o s
  | .vperm o => Sys2Proof.Machine.execVperm o s
  | .vmov o => Sys2Proof.Machine.execVmov o s
  | .vbcst o => Sys2Proof.Machine.execVbcst o s
  | .vext o => Sys2Proof.Machine.execVext o s
  | .vins o => Sys2Proof.Machine.execVins o s
  | .vidx o => Sys2Proof.Machine.execVidx o s
  | .vredadd o => Sys2Proof.Machine.execVredadd o s
  | .vredmin o => Sys2Proof.Machine.execVredmin o s
  | .vredmax o => Sys2Proof.Machine.execVredmax o s
  | .vargmax o => Sys2Proof.Machine.execVargmax o s
  | .vargmin o => Sys2Proof.Machine.execVargmin o s
  | .vslideup o => Sys2Proof.Machine.execVslideup o s
  | .vslidedn o => Sys2Proof.Machine.execVslidedn o s
  | .vcvtF32Bf16Lo o => Sys2Proof.Machine.execVcvtF32Bf16Lo o s
  | .vcvtF32Bf16Hi o => Sys2Proof.Machine.execVcvtF32Bf16Hi o s
  | .vcvtF32F16Lo o => Sys2Proof.Machine.execVcvtF32F16Lo o s
  | .vcvtF32F16Hi o => Sys2Proof.Machine.execVcvtF32F16Hi o s
  | .vcvtBf16F32 o => Sys2Proof.Machine.execVcvtBf16F32 o s
  | .vcvtF16F32 o => Sys2Proof.Machine.execVcvtF16F32 o s
  | .vcvtE4m3F32 o => Sys2Proof.Machine.execVcvtE4m3F32 o s
  | .vcvtE5m2F32 o => Sys2Proof.Machine.execVcvtE5m2F32 o s
  | .vcvtF32E4m3 o => Sys2Proof.Machine.execVcvtF32E4m3 o s
  | .vcvtF32E5m2 o => Sys2Proof.Machine.execVcvtF32E5m2 o s
  | .vcvtI32F32 o => Sys2Proof.Machine.execVcvtI32F32 o s
  | .vcvtF32I32 o => Sys2Proof.Machine.execVcvtF32I32 o s
  | .vqcb o => Sys2Proof.Machine.execVqcb o s
  | .vxcb o => Sys2Proof.Machine.execVxcb o s
  | .kand o => Sys2Proof.Machine.execKand o s
  | .kor o => Sys2Proof.Machine.execKor o s
  | .kxor o => Sys2Proof.Machine.execKxor o s
  | .knot o => Sys2Proof.Machine.execKnot o s
  | .kmovg o => Sys2Proof.Machine.execKmovg o s
  | .kmovk o => Sys2Proof.Machine.execKmovk o s
  | .kpopc o => Sys2Proof.Machine.execKpopc o s
  | .kfirst o => Sys2Proof.Machine.execKfirst o s
  | .klanes o => Sys2Proof.Machine.execKlanes o s
  | .vld o => Sys2Proof.Machine.execVld o s
  | .vst o => Sys2Proof.Machine.execVst o s
  | .vlds o => Sys2Proof.Machine.execVlds o s
  | .vsts o => Sys2Proof.Machine.execVsts o s
  | .vgath o => Sys2Proof.Machine.execVgath o s
  | .vscat o => Sys2Proof.Machine.execVscat o s
  | .vldf o => Sys2Proof.Machine.execVldf o s
  | .vstf o => Sys2Proof.Machine.execVstf o s
  | .aadd o => Sys2Proof.Machine.execAadd o s
  | .aand o => Sys2Proof.Machine.execAand o s
  | .aor o => Sys2Proof.Machine.execAor o s
  | .axor o => Sys2Proof.Machine.execAxor o s
  | .amin o => Sys2Proof.Machine.execAmin o s
  | .amax o => Sys2Proof.Machine.execAmax o s
  | .aminu o => Sys2Proof.Machine.execAminu o s
  | .amaxu o => Sys2Proof.Machine.execAmaxu o s
  | .aswap o => Sys2Proof.Machine.execAswap o s
  | .acas o => Sys2Proof.Machine.execAcas o s
  | .afadd o => Sys2Proof.Machine.execAfadd o s
  | .afmin o => Sys2Proof.Machine.execAfmin o s
  | .afmax o => Sys2Proof.Machine.execAfmax o s
  | .axsum o => Sys2Proof.Machine.execAxsum o s
  | .axread o => Sys2Proof.Machine.execAxread o s
  | .aincw o => Sys2Proof.Machine.execAincw o s
  | .mzero o => Sys2Proof.Machine.execMzero o s
  | .mzeroA o => Sys2Proof.Machine.execMzeroA o s
  | .mldb o => Sys2Proof.Machine.execMldb o s
  | .mldcb o => Sys2Proof.Machine.execMldcb o s
  | .mmul o => Sys2Proof.Machine.execMmul o s
  | .mdrain o => Sys2Proof.Machine.execMdrain o s
  | .mpredMr o => Sys2Proof.Machine.execMpredMr o s
  | .mpredMc o => Sys2Proof.Machine.execMpredMc o s
  | .mpredMk o => Sys2Proof.Machine.execMpredMk o s
  | .mrdexp o => Sys2Proof.Machine.execMrdexp o s
  | .mstat o => Sys2Proof.Machine.execMstat o s
  | .mcorrRow o => Sys2Proof.Machine.execMcorrRow o s
  | .mcorrCol o => Sys2Proof.Machine.execMcorrCol o s
  | .tcopy o => Sys2Proof.Machine.execTcopy o s
  | .tread o => Sys2Proof.Machine.execTread o s
  | .twrite o => Sys2Proof.Machine.execTwrite o s
  | .treads o => Sys2Proof.Machine.execTreads o s
  | .tscat o => Sys2Proof.Machine.execTscat o s
  | .tgath o => Sys2Proof.Machine.execTgath o s
  | .sscan o => Sys2Proof.Machine.execSscan o s
  | .spawn o => Sys2Proof.Machine.execSpawn o s
  | .spawnFar o => Sys2Proof.Machine.execSpawnFar o s
  | .touch o => Sys2Proof.Machine.execTouch o s
  | .touchSoft o => Sys2Proof.Machine.execTouchSoft o s
  | .tpoll o => Sys2Proof.Machine.execTpoll o s
  | .fnew o => Sys2Proof.Machine.execFnew o s
  | .resolve o => Sys2Proof.Machine.execResolve o s
  | .poison o => Sys2Proof.Machine.execPoison o s
  | .poisonSelf o => Sys2Proof.Machine.execPoisonSelf o s
  | .cancel o => Sys2Proof.Machine.execCancel o s
  | .cancelDeep o => Sys2Proof.Machine.execCancelDeep o s
  | .tcheck o => Sys2Proof.Machine.execTcheck o s
  | .tend o => Sys2Proof.Machine.execTend o s
  | .tyield o => Sys2Proof.Machine.execTyield o s
  | .tgive o => Sys2Proof.Machine.execTgive o s
  | .town o => Sys2Proof.Machine.execTown o s
  | .fdrop o => Sys2Proof.Machine.execFdrop o s
  | .glaunch o => Sys2Proof.Machine.execGlaunch o s
  | .cflushL1 o => Sys2Proof.Machine.execCflushL1 o s
  | .cflushLine o => Sys2Proof.Machine.execCflushLine o s
  | .cflushWb o => Sys2Proof.Machine.execCflushWb o s
  | .tlbiVa o => Sys2Proof.Machine.execTlbiVa o s
  | .tlbiCtx o => Sys2Proof.Machine.execTlbiCtx o s
  | .tlbiGpa o => Sys2Proof.Machine.execTlbiGpa o s
  | .tlbiVm o => Sys2Proof.Machine.execTlbiVm o s
  | .tlbiAll o => Sys2Proof.Machine.execTlbiAll o s
  | .bardAnd o => Sys2Proof.Machine.execBardAnd o s
  | .bardOr o => Sys2Proof.Machine.execBardOr o s
  | .bardAdd o => Sys2Proof.Machine.execBardAdd o s
  | .bardPopc o => Sys2Proof.Machine.execBardPopc o s
  | .bardMin o => Sys2Proof.Machine.execBardMin o s
  | .bardMax o => Sys2Proof.Machine.execBardMax o s
  | .bardNone o => Sys2Proof.Machine.execBardNone o s
  | .bardDrop o => Sys2Proof.Machine.execBardDrop o s
  | .bardInit o => Sys2Proof.Machine.execBardInit o s
  | .trace o => Sys2Proof.Machine.execTrace o s
  | .traceX o => Sys2Proof.Machine.execTraceX o s
  | .traceCnt o => Sys2Proof.Machine.execTraceCnt o s
  | .feWithdraw v => Sys2Proof.Machine.execFeWithdraw v s
  | .gbarComplete v => Sys2Proof.Machine.execGbarComplete v s
  | .xstAccept n => Sys2Proof.Machine.execXstAccept n s
  | .sleeptWake v => Sys2Proof.Machine.execSleeptWake v s
  | .keyretireWrite k => Sys2Proof.Machine.execKeyretireWrite k s
  | .keyRetireDone k => Sys2Proof.Machine.execKeyRetireDone k s
  | .trpauseWrite x => Sys2Proof.Machine.execTrpauseWrite x s
  | .copyAccept v => Sys2Proof.Machine.execCopyAccept v s
  | .copyComplete cl n => Sys2Proof.Machine.execCopyComplete cl n s
  | .sscanChunk v => Sys2Proof.Machine.execSscanChunk v s
  | .bardWithdraw v => Sys2Proof.Machine.execBardWithdraw v s
  | .traceStallEnd src => Sys2Proof.Machine.execTraceStallEnd src s
  | .traceStallLimit src => Sys2Proof.Machine.execTraceStallLimit src s
  | .dirtyLogResume cl n => Sys2Proof.Machine.execDirtyLogResume cl n s
  | .takeEvent => Sys2Proof.Machine.execTakeEvent s
  | .preemption v => Sys2Proof.Machine.execPreemption v s
  | .gangPreemptSave gid => Sys2Proof.Machine.execGangPreemptSave gid s
  | .dispatch cl => Sys2Proof.Machine.execDispatch cl s
  | .refillRetry cl gid => Sys2Proof.Machine.execRefillRetry cl gid s
  | .hazardClear gid => Sys2Proof.Machine.execHazardClear gid s
  | .prefetchComplete gid => Sys2Proof.Machine.execPrefetchComplete gid s
  | .ageingPromote gid => Sys2Proof.Machine.execAgeingPromote gid s
  | .stealSearch cl => Sys2Proof.Machine.execStealSearch cl s
  | .writebackComplete jid => Sys2Proof.Machine.execWritebackComplete jid s
  | .wake h => Sys2Proof.Machine.execWake h s
  | .contextStall ctx => Sys2Proof.Machine.execContextStall ctx s
  | .gridStart gr => Sys2Proof.Machine.execGridStart gr s
  | .gridComplete gr => Sys2Proof.Machine.execGridComplete gr s
  | .doorNotify q ctx => Sys2Proof.Machine.execDoorNotify q ctx s
  | .cstartWrite v x => Sys2Proof.Machine.execCstartWrite v x s
  | .keySlotWrite k w x => Sys2Proof.Machine.execKeySlotWrite k w x s
  | .attestationQuote nonce => Sys2Proof.Machine.execAttestationQuote nonce s
  | .haltctlHalt x => Sys2Proof.Machine.execHaltctlHalt x s
  | .haltctlResume x => Sys2Proof.Machine.execHaltctlResume x s
  | .partitionChange q p => Sys2Proof.Machine.execPartitionChange q p s
  | .mgmtRegWrite lvl off x => Sys2Proof.Machine.execMgmtRegWrite lvl off x s
  | .deviceReset b => Sys2Proof.Machine.execDeviceReset b s
  | .clockLock die fwd => Sys2Proof.Machine.execClockLock die fwd s
  | .watchdogRestart => Sys2Proof.Machine.execWatchdogRestart s
  | .throttleUpdate cl temp mv watts => Sys2Proof.Machine.execThrottleUpdate cl temp mv watts s
  | .thermalTrip => Sys2Proof.Machine.execThermalTrip s
  | .slotStart n => Sys2Proof.Machine.execSlotStart n s
  | .laneLoss port lanes => Sys2Proof.Machine.execLaneLoss port lanes s
  | .farmWrite x => Sys2Proof.Machine.execFarmWrite x s
  | .drainComplete port => Sys2Proof.Machine.execDrainComplete port s
  | .reconfigRelock port good => Sys2Proof.Machine.execReconfigRelock port good s
  | .loadPacket p => Sys2Proof.Machine.execLoadPacket p s
  | .storePacket p => Sys2Proof.Machine.execStorePacket p s
  | .atomicPacket p => Sys2Proof.Machine.execAtomicPacket p s
  | .fullEmptyPacket p => Sys2Proof.Machine.execFullEmptyPacket p s
  | .spawnPacket p => Sys2Proof.Machine.execSpawnPacket p s
  | .resolvePacket p => Sys2Proof.Machine.execResolvePacket p s
  | .remoteTouchRegistration p => Sys2Proof.Machine.execRemoteTouchRegistration p s
  | .copySegment p => Sys2Proof.Machine.execCopySegment p s
  | .multicast p => Sys2Proof.Machine.execMulticast p s
  | .acknowledge p => Sys2Proof.Machine.execAcknowledge p s
  | .replyPacket p => Sys2Proof.Machine.execReplyPacket p s
  | .drainMarker p => Sys2Proof.Machine.execDrainMarker p s
  | .markerAcknowledge p => Sys2Proof.Machine.execMarkerAcknowledge p s
  | .relayReceive p => Sys2Proof.Machine.execRelayReceive p s
  | .packetDiscard p => Sys2Proof.Machine.execPacketDiscard p s
  | .longInstructionComplete v n => Sys2Proof.Machine.execLongInstructionComplete v n s
  | .storePerformed v n => Sys2Proof.Machine.execStorePerformed v n s
  | .transportFailure n done => Sys2Proof.Machine.execTransportFailure n done s
  | .darkInterval => Sys2Proof.Machine.execDarkInterval s
  | .clockLockLost die => Sys2Proof.Machine.execClockLockLost die s
  | .powerLoss torn => Sys2Proof.Machine.execPowerLoss torn s
  | .haltNotice node scope resume vc ctx => Sys2Proof.Machine.execHaltNotice node scope resume vc ctx s

end Sys2Proof.Machine
end

