-- ==== Sys2Proof/Machine/Ahead.lean ====
section
/-!
DEFINITION. Run-ahead behind a translation fault (05 R110): up to 64 further instructions, of which nothing remains but
the pages they meet. Registers are numbered here g0 to g63, v0 to v31 from 64 on, k0 to k7 from 96 on. A result that is
discarded is one that run-ahead does not have: that of the faulting instruction, of a load, of an instruction that is
not issued, and of one that reads such a result; short instructions run on the copy of the registers (log 17).
-/
namespace Sys2Proof.Machine

open Host (Outcome)

/-- Registers that can be lost: g0 and k0 are constants. -/
def regNos (kind : RK) (n : Nat) : List Nat :=
  match kind with
  | .g => if n = 0 then [] else [n]
  | .v => [64 + n]
  | .k => if n = 0 then [] else [96 + n]
  | .no => []

/-- What an encoding reads and writes in one iteration, by its d and s fields; `data` is what a store only stores. -/
structure Uses where
  kd : RK := .no
  ks : RK := .no
  mem : Bool := false
  d : Nat := 0
  s : Nat := 0
  reads : Nat → Nat → List Nat := fun _ _ => []
  writes : Nat → Nat → List Nat := fun _ _ => []
  data : Nat → Nat → List Nat := fun _ _ => []

def majorOf (r : Raw) : Nat := r.b1 / 4096
def dHigh (r : Raw) : Nat := fld (r.reg.getD 0) 8 7
def sHigh (r : Raw) : Nat := fld (r.reg.getD 0) 6 5
def tField (r : Raw) : Nat := fld (r.reg.getD 0) 4 0
/-- The d and s fields of a short body, and the two register fields of a long one (02 R23, R25, R31). -/
def dShort (r : Raw) : Nat := fld r.b1 11 8 + 16 * dHigh r
def sShort (r : Raw) : Nat := fld r.b1 7 4 + 16 * sHigh r
def dLong (r : Raw) : Nat := fld r.b1 7 4 + 16 * dHigh r
def sLong (r : Raw) : Nat := fld r.b1 3 0 + 16 * sHigh r
def aLong (r : Raw) : Nat := fld r.b1 3 0 + 16 * dHigh r
/-- The register of the MASK prefix (02 R28). -/
def maskNo (r : Raw) : Nat := fld (r.mask.getD 0) 8 6

/-- Majors 0x6 and 0x7: besides s and t, d counts as read where the old value of a part of it remains. -/
def vecUses (r : Raw) : Uses :=
  let fn := fld r.b1 3 0
  let pg := r.page.getD 0
  match vshape (majorOf r) pg fn with
  | none => {}
  | some h =>
    let keeps := (r.reg.isNone && h.t == .v) || (majorOf r == 6 && decide (pg ≤ 2) && fn == 3) ||
      (pg == 4 && (fn == 6 || fn == 7 || fn == 12)) || (pg == 3 && (fn == 1 || fn == 8)) ||
      (maskNo r != 0 && h.d != .g && !bitOf (r.mask.getD 0) 5)
    { kd := h.d, ks := h.s, d := dShort r, s := sShort r
      reads := fun d s => regNos h.s s ++ (if r.reg.isSome then regNos h.t (tField r) else []) ++ regNos .k (maskNo r) ++ (if keeps then regNos h.d d else [])
      writes := fun d _ => regNos h.d d }

/-- The registers of an encoding. -/
def usesOf (r : Raw) : Uses :=
  match majorOf r with
  | 0 =>
    let sub := fld r.b1 11 8
    let x := regNos .g (fld r.b1 7 0)
    { reads := fun _ _ => if sub = 10 ∨ sub = 11 then x else []
      writes := fun _ _ => if sub = 7 ∨ sub = 8 ∨ sub = 9 ∨ sub = 12 then x else [] }
  | 1 =>
    let fn := fld r.b1 3 0
    let unary := r.page.isSome && ((decide (4 ≤ fn) && decide (fn ≤ 7)) || fn == 10)
    { kd := .g, ks := .g, d := dShort r, s := sShort r
      reads := fun d s => regNos .g s ++ (if unary then [] else if r.reg.isSome then regNos .g (tField r) else regNos .g d)
      writes := fun d _ => regNos .g d }
  | 2 => { kd := .g, d := dShort r, reads := fun d _ => regNos .g d, writes := fun d _ => regNos .g d }
  | 3 =>
    match fld r.b1 7 5 with
    | 6 => { kd := .g, d := dShort r, writes := fun d _ => regNos .g d }
    | 7 =>
      { kd := .g, ks := .g, d := dShort r, s := fld r.b1 4 0 + 32 * ((sHigh r) % 2)
        reads := fun _ s => regNos .g s, writes := fun d _ => regNos .g d }
    | _ => { kd := .g, d := dShort r, reads := fun d _ => regNos .g d, writes := fun d _ => regNos .g d }
  | 5 =>
    let s := fld r.b1 11 8 + 16 * sHigh r
    { reads := fun _ _ => regNos .g s ++ (if r.reg.isSome then regNos .g (tField r) else []) }
  | 6 => vecUses r
  | 7 => vecUses r
  | 8 =>
    let st := bitOf r.b2 13
    { kd := .g, ks := .g, mem := true, d := dLong r, s := sLong r
      reads := fun _ b => regNos .g b
      writes := fun d _ => if st then [] else regNos .g d
      data := fun d _ => if st then regNos .g d else [] }
  | 9 =>
    let op := fld r.b2 15 13
    let st := op % 2 = 1
    { kd := .v, ks := .g, mem := !vmemT op, d := dLong r, s := sLong r
      reads := fun _ b => regNos .g b ++ (if op / 2 = 1 then regNos .g (tField r) else if op / 2 = 2 then regNos .v (tField r) else []) ++ regNos .k (maskNo r)
      writes := fun d _ => if st then [] else regNos .v d
      data := fun d _ => if st then regNos .v d else [] }
  | 10 => { writes := fun _ _ => regNos .g (dLong r) }
  | 11 => { writes := fun _ _ => if fld r.b1 7 4 = 6 ∨ fld r.b1 7 4 = 7 then regNos .g (aLong r) else [] }
  | 12 => { writes := fun _ _ => regNos .g (aLong r) ++ regNos .g (fld r.b2 15 10) }
  | 13 =>
    let op := fld r.b1 7 4
    { writes := fun _ _ => regNos .g (aLong r) ++ (if op = 2 ∨ (op = 1 ∧ bitOf r.b2 0) then regNos .g (fld r.b2 9 4) else []) }
  | 14 =>
    let op := fld r.b1 7 4
    { writes := fun _ _ => if op = 0 ∨ op = 2 ∨ op = 4 then regNos .g (aLong r) else [] }
  | _ => {}

/-- Those of the numbers that a lookahead window compares (02 R37). -/
def windowRegs (l : List Nat) : List RegId :=
  l.filterMap (fun n => if n < 64 then some (.g n) else if n < 96 then some (.v (n - 64)) else none)

/-- The frame of an encoding that run-ahead takes up; majors 0xA to 0xE are not issued, and open no window. -/
def insOf (r : Raw) : Ins :=
  let u := usesOf r
  { Ins.of r with
    la := if majorOf r = 8 ∨ majorOf r = 9 then fld r.b1 11 8 else 0
    rep := r.rep.map (fun p => ⟨BitVec.ofNat 6 (p / 8), BitVec.ofNat 3 p⟩)
    kd := u.kd, ks := u.ks, mem := u.mem, d := u.d, s := u.s
    reads := fun d s => windowRegs (u.reads d s ++ u.data d s)
    writes := fun d s => windowRegs (u.writes d s)
    late := fun d s => windowRegs (u.data d s) }

/-- What run-ahead has: the copy of the state it runs on, and the registers that it has not. -/
structure Run where
  s : State
  lost : List Nat

def Run.lose (a : Run) (l : List Nat) : Run := { a with lost := a.lost ++ l }
def Run.has (a : Run) (l : List Nat) : Bool := l.all (fun n => !a.lost.contains n)

/-- Translate an access by the active core, and check its tile. -/
def reachVa (va acc : Nat) (fe : Bool) : M Unit := do
  guardT (!fe || !isWin va) (accTrap va false 19)
  let s ← getS
  let l ← translate (me s) va acc
  guardT (!fe || l.place != .pinned) (accTrap va false 19)
  checkTile (me s) va l

/-- The translation of the accesses of a load or store in one iteration, by its base register and memory step. -/
noncomputable def reachOf (i : Instr) (b m : Nat) : M Unit :=
  let mem := fun (o : MemOp) (acc : Nat) => do
    let ea ← scalarEa b (o.imm.sval 5) (2 ^ o.size.toNat) m
    reachVa ea acc false
  let fe := fun (o : FeOp) (acc : Nat) => do
    let ea ← scalarEa b (o.imm.sval 5) 8 m
    reachVa ea acc true
  let vec := fun (op : Nat) (o : VMem) => do
    let q ← vmemElems op o b m
    let _ ← checkElems (if op % 2 = 1 then 2 else 1) (elemSize q.1) q.2.2
    pure ()
  match i with
  | .ld o => mem o 1
  | .lds o => mem o 1
  | .st o => mem o 2
  | .ldWf o => fe o 1
  | .ldTake o => fe o 1
  | .ldSe o => fe o 1
  | .ldFes o => fe o 1
  | .stPut o => fe o 2
  | .stSf o => fe o 2
  | .vld o => vec 0 o
  | .vst o => vec 1 o
  | .vlds o => vec 2 o
  | .vsts o => vec 3 o
  | .vgath o => vec 4 o
  | .vscat o => vec 5 o
  | .vldf o => vec 6 o
  | .vstf o => vec 7 o
  | _ => pure ()

/-- A saved pc that no entry writes. -/
def noEntry : Addr := BitVec.allOnes 48

/-- One iteration of a short instruction on the copy: none where it traps or the task goes no further; the copy as it
was where the instruction would wait. -/
noncomputable def runShort (i : Instr) (s : State) : Option (Bool × State) :=
  let c := s.core
  let isRett := match i with | .rett => true | _ => false
  if isRett && c.priv == .u then none
  else
    match exec i (if isRett then s else { s with core := { c with epc := noEntry, epch := noEntry } }) with
    | .next t =>
      let c1 := t.core
      if (!isRett && (c1.epc != noEntry || c1.epch != noEntry)) || c1.halted || c1.mode != c.mode then none
      else if c1.wait != .none then some (false, s)
      else some (true, if isRett then t else { t with core := { c1 with epc := c.epc, epch := c.epch } })
    | _ => none

/-- A transfer of control (02 R40, R42). -/
def transfers (r : Raw) : Bool := majorOf r == 0 || majorOf r == 4 || majorOf r == 5

/-- Behind the instruction: it counts as one position of every window, and opens its own (02 R36). -/
def pastIt (r : Raw) (s0 s : State) : State :=
  let x := insOf r
  { s with core := Core.done { s.core with pc := addrPlus s0.core.pc x.size, cont := none, wins := s0.core.wins } s0.core x }

/-- The iterations of an instruction from the one under way: the pages met, and the run where it goes on. -/
noncomputable def iterations (i : Instr) (r : Raw) : Nat → Run → List PageFault × Option Run
  | 0, a => ([], some a)
  | f + 1, a =>
    let u := usesOf r
    let x := insOf r
    let c := a.s.core
    let j := (c.cont.map (fun k => k.i)).getD 0
    let step := (c.cont.map (fun k => k.step)).getD 0
    let d := stepD x step j
    let sf := stepS x step j
    let have_ := a.has (u.reads d sf)
    let one : List PageFault × Option Run :=
      if majorOf r = 8 ∨ majorOf r = 9 then
        if !have_ || (majorOf r == 9 && c.ssb.isSome) then ([], some (a.lose (u.writes d sf)))
        else
          match reachOf i sf (stepM step j) a.s with
          | .ok _ => ([], some (a.lose (u.writes d sf)))
          | .error t => if t.code = 5 then (t.pages, some (a.lose (u.writes d sf))) else ([], none)
      else if !have_ then ([], if transfers r then none else some (a.lose (u.writes d sf)))
      else if (match i with | .ret => c.rstack.isEmpty && c.spilled != 0 | _ => false) then ([], none)
      else
        match runShort i a.s with
        | none => ([], none)
        | some (false, _) =>
          let b := a.lose (u.writes d sf)
          ([], if !transfers r then some b else if majorOf r = 0 then some { b with s := pastIt r a.s a.s } else none)
        | some (true, t) => ([], some ⟨t, a.lost.filter (fun n => !(u.writes d sf).contains n)⟩)
    match c.cont, one.2 with
    | some k, some b =>
      if k.i < k.last then
        let q := iterations i r f { b with s := { b.s with core := { b.s.core with pc := c.pc, wins := c.wins, cont := some { k with i := k.i + 1 } } } }
        (one.1 ++ q.1, q.2)
      else one
    | _, _ => one

/-- One instruction of the run-ahead: the pages met, and the run where it goes on. -/
noncomputable def aheadOne (i : Instr) (r : Raw) (a : Run) : List PageFault × Option Run :=
  if 10 ≤ majorOf r then ([], some { (a.lose ((usesOf r).writes 0 0)) with s := pastIt r a.s a.s })
  else
    match begin_ (insOf r) a.s with
    | .error _ => ([], none)
    | .ok s1 =>
      let q := iterations i r 64 { a with s := s1 }
      (q.1, q.2.map (fun b => if transfers r then b else { b with s := pastIt r s1 b.s }))

/-- Up to `n` instructions; a fetch that meets a translation fault adds its page and ends the run. -/
noncomputable def aheadRun : Nat → Run → List PageFault
  | 0, _ => []
  | n + 1, a =>
    if (bkptHit a.s).isSome then []
    else
      match fetch a.s with
      | .trap t _ => if t.code = 5 then t.pages else []
      | .ok i s1 =>
        match i.raw with
        | none => []
        | some r =>
          let q := aheadOne i r { a with s := s1 }
          match q.2 with
          | none => q.1
          | some b => q.1 ++ aheadRun n b

/-- The writes of an instruction from its iteration under way on. -/
def writesFrom (r : Raw) (c : Core) : List Nat :=
  let u := usesOf r
  let x := insOf r
  match c.cont with
  | none => (List.range (((r.rep.getD 0) / 8) + 1)).flatMap (fun j => u.writes (stepD x (r.rep.getD 0) j) (stepS x (r.rep.getD 0) j))
  | some k => (List.range (k.last + 1 - k.i)).flatMap (fun j => u.writes (stepD x k.step (k.i + j)) (stepS x k.step (k.i + j)))

/-- The pages that the 64 instructions behind the instruction `i` of the active core meet, where `i` meets a translation
fault. -/
noncomputable def behind (i : Instr) (s : State) : List PageFault :=
  match i.raw with
  | none => []
  | some r => aheadRun 64 ⟨pastIt r s { s with core := { s.core with wait := .none } }, writesFrom r s.core⟩

/-- Where another node's answer brings the fault (21 R359): the later iterations of the waiting instruction, and what
stands behind it. -/
noncomputable def behindFar (s : State) : List PageFault :=
  let s0 := { s with core := { s.core with wait := .none } }
  match fetch s0 with
  | .trap _ _ => []
  | .ok i s1 =>
    match i.raw with
    | none => []
    | some r =>
      match s1.core.cont with
      | some k =>
        if k.i < k.last then
          let u := usesOf r
          let x := insOf r
          let q := iterations i r 64 ⟨{ s1 with core := { s1.core with cont := some { k with i := k.i + 1 } } },
            u.writes (stepD x k.step k.i) (stepS x k.step k.i)⟩
          if q.2.isSome then q.1 ++ behind i s1 else q.1
        else behind i s1
      | none => behind i s1

/-- The core whose waiting instruction a packet answers. -/
def answeredCore (i : Instr) (s : State) : Option Nat :=
  match i with
  | .replyPacket p =>
    (s.fab.outs.find? (fun o => o.tag == p.tag.toNat && o.dst == p.src.toNat)).bind (fun o =>
      match o.forw with
      | .reg v _ _ _ _ => some v
      | .vec v _ _ => some v
      | _ => none)
  | _ => none

/-- The pages that a step of the device may have to add to a batch. -/
noncomputable def behindAnswer (i : Instr) (s : State) : List PageFault :=
  match answeredCore i s with
  | some v => behindFar (switchTo s v)
  | none => []

/-- Run `i` with the pages of the run-ahead at hand; they are forgotten after it. -/
noncomputable def execAhead (i : Instr) (ps : List PageFault) (s : State) : Outcome State Fault Refusal :=
  match exec i { s with ahead := ps } with
  | .next t => .next { t with ahead := [] }
  | .fault f => .fault f
  | .refused r => .refused r

end Sys2Proof.Machine
end

