-- ==== Sys2Proof/Machine/Step.lean ====
section
/-!
DEFINITION. One step of the machine: the agenda says whether a core issues or the device takes a step; with nothing on
it the active core issues. Between them cycles pass.
-/
namespace Sys2Proof.Machine

open Host (Outcome)

/-- What the active core keeps of its wait when it issues again: the elements that other nodes have sent, and those that it
has still to send. -/
def Wait.again : Wait → Wait
  | .post rest => .post rest
  | .far i left got bad size => .far i left got bad size
  | _ => .none

/-- Since when the banks know of the access of an instruction that issues again. -/
def Wait.asked : Wait → Option Nat
  | .bank _ t => some t
  | _ => Option.none

/-- The active core issues the instruction at its pc; where it meets a translation fault, its run-ahead is at hand (05 R110). -/
noncomputable def issueNext (s : State) : Outcome State Fault Refusal :=
  match (if s.core.wait = .none then bkptHit s else none) with
  | some n => .next (atBkpt s n)
  | none =>
    let s := landGive s
    match fetch { s with core := { s.core with wait := s.core.wait.again, asked := s.core.wait.asked } } with
    | .trap t s1 => .next (takeTrap s1 0 t)
    | .ok i s1 => execAhead i (behind i s1) s1

/-- The gang of the active core is saved once every member has stopped. -/
noncomputable def saveTurn (s : State) : Outcome State Fault Refusal :=
  match s.core.task with
  | some t => exec (.gangPreemptSave t.gid) s
  | none => .next s

/-- A running core's turn, by what it waits for; an event that is due withdraws a wait that can be withdrawn (06 R134,
07 R159, 19 R345). -/
noncomputable def runTurn (s : State) : Outcome State Fault Refusal :=
  let due := (dueEvent s).isSome
  match s.core.wait with
  | .none => issueNext s
  | .issue => issueNext s
  | .bank _ _ => issueNext s
  | .post _ => issueNext s
  | .drain => issueNext s
  | .far _ left _ _ _ => if left = 0 then issueNext s else .next s
  | .gbar _ _ => exec (.gbarComplete s.cur) s
  | .sleep _ _ _ => exec (.sleeptWake s.cur) s
  | .engine _ _ => exec (.copyAccept s.cur) s
  | .fe _ _ => if due then exec (.feWithdraw s.cur) s else .next s
  | .bard _ _ => if due then exec (.bardWithdraw s.cur) s else .next s
  | .reply _ => if due then exec (.feWithdraw s.cur) s else .next s
  | .park _ => saveTurn s
  | .yield _ => saveTurn s
  | .stopped => saveTurn s
  | .vec _ _ _ _ _ _ _ _ _ _ => .next s

/-- The active core's turn. -/
noncomputable def stepCore (s : State) : Outcome State Fault Refusal :=
  if tripped s then (if s.agenda.isEmpty then .fault .tripped else .next s)
  else
    if stalledSrc s s.cur then exec (.traceStallEnd s.cur) s
    else match s.core.mode with
    | .held => .next s
    | .stopped => if s.agenda.isEmpty then .fault .coreStopped else .next s
    | .idle => if atBoundary s && (dueEvent s).isSome then exec .takeEvent s else .next s
    | _ =>
      if s.core.halted then .next s
      else if atBoundary s && (dueEvent s).isSome then exec .takeEvent s
      else runTurn s

/-- Steps that still take place in a device that a thermal trip has stopped (25 R400). -/
noncomputable def afterTrip : Instr → Bool
  | .deviceReset _ => true
  | .powerLoss _ => true
  | .watchdogRestart => true
  | .mgmtRegWrite _ _ _ => true
  | .attestationQuote _ => true
  | .throttleUpdate _ _ _ _ => true
  | .thermalTrip => true
  | _ => false

/-- A device that bring-up has left in one of steps 1 to 4, or that has no power: it never reaches the fabric, and only the
management port acts on it (25 R393). -/
def cut (s : State) : Bool := decide (s.mgmt.phase.toNat ≤ 4)

/-- A turn of the device. -/
noncomputable def turn (a : Act) (s : State) : Outcome State Fault Refusal :=
  match a with
  | .core v => if v < coreCount then stepCore (switchTo s v) else .next s
  | .event i => if i.raw.isNone && (!(tripped s || cut s) || afterTrip i) then execAhead i (behindAnswer i s) s else .next s
  | .env e => .next (envStep e s)

/-- One step: a pending step of the agenda, or the active core's next cycle. -/
noncomputable def step (s : State) : Outcome State Fault Refusal :=
  match s.agenda with
  | [] => stepCore (tick s 1)
  | t :: r => turn t.act (tick { s with agenda := r } t.dt)

/-- `s` with the table's instruction stored where the active core fetches next: at its pc where that lies in the core
store, else at the bottom of the core store. -/
def State.withFetchWord (s : State) (nbits w : Nat) : State :=
  let inside := storeBase ≤ s.core.pc.toNat ∧ s.core.pc.toNat + 32 ≤ bankBase
  let pc := if inside then s.core.pc else resetTvec
  let bytes := bytesOfParcels (tableParcels nbits w)
  { s with
    agenda := []
    mem := memWrite s.mem (coreStoreAt s.cur (pc.toNat - storeBase)) bytes
    mgmt := { s.mgmt with phase := if s.mgmt.phase = 0xFE then 0xFF else s.mgmt.phase }
    core := { s.core with
      mode := .run, pc := pc, halted := false, wait := .none, pend := .none, skipBkpt := true,
      fbuf := .empty } }

end Sys2Proof.Machine
end

