-- ==== Sys2Proof/Safety.lean ====
section
/-!
DEFINITION. The terms that statements are made in: an instruction that is due on the active core, the iteration of its
repeat (02 R34, 06 R129), what the core looks like when that iteration has retired, and the invariants of a step.
-/
namespace Sys2Proof.Machine

open Host (Outcome)

/-- A resumed repeat is pending (06 R129): the core has just returned from a handler and `rep` counts iterations. -/
def Core.repeatDue (c : Core) : Bool := c.afterRett && c.rep.remain != 0

/-- The iteration at which `x` runs on a core: the one under way, the first of its own repeat, or the one that `rep`
names after a return from a handler; none where the checks of 06 R129 refuse that repeat. -/
def iteration (x : Ins) (c : Core) : Option Cont :=
  match c.cont with
  | some k => some k
  | none =>
    match x.rep with
    | none => some ⟨0, 0, 0, false⟩
    | some r =>
      if c.repeatDue then
        (if resumeOk x c.rep then
          some ⟨c.rep.index.toNat, c.rep.index.toNat + c.rep.remain.toNat - 1, c.rep.step.toNat, true⟩ else none)
      else some ⟨0, r.cnt.toNat, r.step.toNat, false⟩

/-- Every `xst` of the active core has been accepted by its bank (02 R36, 07 R164). -/
def Sent (s : State) : Prop := s.xsts.all (fun y => y.sender != s.cur) = true

/-- `x` issues on the active core at iteration `k`: no lookahead window is open, and it opens none (02 R36); no `xst` of the
core is on its way; and no scan owns a unit that it uses (16 R305). -/
structure Issues (x : Ins) (s : State) (k : Cont) : Prop where
  calm : s.core.wins = []
  plain : x.la = 0
  turn : iteration x s.core = some k
  sent : Sent s
  free : (x.units && s.core.ssb.isSome) = false

/-- The core once its instruction has started: a repeat that the instruction does not continue is dropped (06 R129). -/
def begun (x : Ins) (c : Core) : Core :=
  match c.cont with
  | some _ => c
  | none =>
    { c with afterRett := false, skipBkpt := false
             rep := if c.repeatDue && x.rep.isNone then ⟨0, 0, 0⟩ else c.rep }

/-- A core whose instruction is under way, when iteration `k` of `x` has retired: on to the next iteration, or past the
instruction (02 R34, 06 R129). -/
def advance (x : Ins) (k : Cont) (c : Core) : Core :=
  if k.i < k.last then { c with cont := some { k with i := k.i + 1 } }
  else { c with cont := none, pc := addrPlus c.pc x.size, rep := if k.resumed then ⟨0, 0, 0⟩ else c.rep }

/-- The core when iteration `k` of `x` has retired and done nothing else. -/
def passed (x : Ins) (k : Cont) (c : Core) : Core := advance x k (begun x c)

/-- The core when `x` has transferred control to `a`. -/
def jumped (x : Ins) (a : Addr) (c : Core) : Core := { begun x c with cont := none, pc := a }

/-- The core while `x` waits at iteration `k`. -/
def waiting (x : Ins) (k : Cont) (c : Core) : Core :=
  { begun x c with cont := if c.cont.isSome || x.rep.isSome then some k else none }

/-- The state in which the effect of iteration `k` of `x` runs. -/
def started (x : Ins) (k : Cont) (s : State) : State := { s with core := waiting x k s.core }

/-- The state when the effect has left `t` and iteration `k` of `x` has retired. -/
def onward (x : Ins) (k : Cont) (t : State) : State := { t with core := advance x k t.core }

/-- The state with iteration `k` of `x` retired and nothing else changed. -/
def passes (x : Ins) (k : Cont) (s : State) : State := { s with core := passed x k s.core }

/-- The state after the instruction's own part of the work is written with `f` and iteration `k` of `x` has retired. -/
def passesWith (x : Ins) (k : Cont) (f : Core → Core) (s : State) : State := { s with core := f (passed x k s.core) }

/-- The field of iteration `k` (02 R34). -/
def dOf (x : Ins) (k : Cont) : Nat := stepD x k.step k.i
def sOf (x : Ins) (k : Cont) : Nat := stepS x k.step k.i
def mOf (k : Cont) : Nat := stepM k.step k.i

/-- Where an access of the active core goes, with the checks that 06 R133 orders before the access itself; `acc` is 1 for
a read, 2 for a write, 3 for both. -/
def access (s : State) (va acc : Nat) : Except Trap (Loc × State) :=
  (do
    let l ← translate (me s) va acc
    checkTile (me s) va l
    pure l : M Loc) s

/-- What every step keeps: memory is in its canonical form (log 3). -/
def State.Inv (s : State) : Prop := Memory.wf s.mem = true

/-- A run of `n` steps from `s` meets neither a fault nor a refusal. -/
def SafeFor (n : Nat) (s : State) : Prop := ∃ t, Host.Core.run Sys2Proof.core n s = .next t

end Sys2Proof.Machine
end

