-- ==== Sys2Proof/Certificates/Slice0/Obligations.lean ====
section
/-!
DEFINITION. The statements for the provers. Each follows numbered rules of spec/; the terms they share (`Issues`, `passed`,
`jumped`, `dOf`) stand in Safety.
-/

open Sys2Proof Sys2Proof.Machine

/-! Scalar arithmetic (07 R148 to R151) -/

namespace Sys2Proof.Machine

/-- The operands a and b of a binary instruction (07 R148). -/
def operandA (o : RR) (d s : Nat) (c : Core) : Word := match o.t with | none => c.getG d | some _ => c.getG s
def operandB (o : RR) (s : Nat) (c : Core) : Word := match o.t with | none => c.getG s | some t => c.getG t.toNat

/-- `ins`, with this page and function number, writes f(a, b) to g(d) and changes nothing else (07 R148). -/
def Binary (ins : RR → Instr) (page : Option Nat) (fn : Nat) (f : Word → Word → Word) : Prop :=
  ∀ (o : RR) (s : State) (k : Cont), let x := rrIns (encRR page fn o) false o
    Issues x s k →
    exec (ins o) s = .next (passesWith x k (fun c =>
      c.setG (dOf x k) (f (operandA o (dOf x k) (sOf x k) s.core) (operandB o (sOf x k) s.core))) s)

/-- `ins`, with this function number of page 5, writes to g(d) the word that `is` names from g(s), and changes nothing else. -/
def Unary (ins : RR → Instr) (fn : Nat) (is : Word → Word → Prop) : Prop :=
  ∀ (o : RR) (s : State) (k : Cont), let x := rrIns (encRR (some 5) fn o) true o
    Issues x s k →
    ∃ r, is (s.core.getG (sOf x k)) r ∧ exec (ins o) s = .next (passesWith x k (fun c => c.setG (dOf x k) r) s)

/-- `ins`, encoded by `enc`, writes f(g(d), imm) to g(d) and changes nothing else. -/
def Immediate (ins : RI → Instr) (enc : RI → Raw) (f : Word → ImmF → Word) : Prop :=
  ∀ (o : RI) (s : State) (k : Cont), let x := riIns (enc o) true o
    Issues x s k → exec (ins o) s = .next (passesWith x k (fun c => c.setG (dOf x k) (f (s.core.getG (dOf x k)) o.imm)) s)

/-- The number whose bits are `l`, the first at bit 0. -/
def packed (l : List Nat) : Nat := l.foldr (fun b n => b + 2 * n) 0

/-- 07 R148, R149: each instruction of major 0x1 writes its result to g(d) and changes nothing else; a write to g0 is
discarded. -/
def ScalarBinarySpec : Prop :=
  Binary .add none 0 (fun a b => BitVec.ofNat 64 (a.toNat + b.toNat)) ∧
  Binary .sub none 1 (fun a b => BitVec.ofInt 64 (a.toInt - b.toInt)) ∧
  Binary .and none 2 (fun a b => a &&& b) ∧ Binary .or none 3 (fun a b => a ||| b) ∧ Binary .xor none 4 (fun a b => a ^^^ b) ∧
  Binary .sll none 5 (fun a b => a <<< (b.toNat % 64)) ∧ Binary .srl none 6 (fun a b => a >>> (b.toNat % 64)) ∧
  Binary .sra none 7 (fun a b => a.sshiftRight (b.toNat % 64)) ∧
  Binary .mul none 8 (fun a b => BitVec.ofNat 64 (a.toNat * b.toNat)) ∧
  Binary .mulhu none 9 (fun a b => BitVec.ofNat 64 (a.toNat * b.toNat / 2 ^ 64)) ∧
  Binary .min none 10 (fun a b => BitVec.ofInt 64 (min a.toInt b.toInt)) ∧
  Binary .max none 11 (fun a b => BitVec.ofInt 64 (max a.toInt b.toInt)) ∧
  Binary .minu none 12 (fun a b => BitVec.ofNat 64 (min a.toNat b.toNat)) ∧
  Binary .maxu none 13 (fun a b => BitVec.ofNat 64 (max a.toNat b.toNat)) ∧
  Binary .slt none 14 (fun a b => if a.toInt < b.toInt then 1 else 0) ∧
  Binary .sltu none 15 (fun a b => if a.toNat < b.toNat then 1 else 0)

/-- 07 R150: division with its corners, the high product, bit counts, bit reversal, bit extraction and pointer tags;
nothing but g(d) changes. -/
def ScalarPage5Spec : Prop :=
  Binary .div (some 5) 0 (fun a b => if b = 0 then -1 else BitVec.ofInt 64 (a.toInt.tdiv b.toInt)) ∧
  Binary .divu (some 5) 1 (fun a b => if b = 0 then -1 else BitVec.ofNat 64 (a.toNat / b.toNat)) ∧
  Binary .rem (some 5) 2 (fun a b => if b = 0 then a else BitVec.ofInt 64 (a.toInt - b.toInt * a.toInt.tdiv b.toInt)) ∧
  Binary .remu (some 5) 3 (fun a b => if b = 0 then a else BitVec.ofNat 64 (a.toNat - b.toNat * (a.toNat / b.toNat))) ∧
  Unary .clz 4 (fun a r => r.toNat ≤ 64 ∧ (∀ j, j < r.toNat → a.getMsbD j = false) ∧ (r.toNat < 64 → a.getMsbD r.toNat = true)) ∧
  Unary .ctz 5 (fun a r => r.toNat ≤ 64 ∧ (∀ j, j < r.toNat → a.getLsbD j = false) ∧ (r.toNat < 64 → a.getLsbD r.toNat = true)) ∧
  Unary .popc 6 (fun a r => r.toNat = ((List.range 64).filter (fun j => a.getLsbD j)).length) ∧
  Unary .brev 7 (fun a r => ∀ j, j < 64 → r.getLsbD j = a.getLsbD (63 - j)) ∧
  Binary .mulh (some 5) 8 (fun a b => BitVec.ofInt 64 (a.toInt * b.toInt / 2 ^ 64)) ∧
  Binary .bext (some 5) 9 (fun a b =>
    BitVec.ofNat 64 (packed (((List.range 64).filter (fun j => b.getLsbD j)).map (fun j => b2n (a.getLsbD j))))) ∧
  Unary .ptag 10 (fun a r => r = a >>> 48) ∧
  Binary .pset (some 5) 11 (fun a b => BitVec.ofNat 64 (a.toNat % 2 ^ 48 + 2 ^ 48 * (b.toNat % 2 ^ 16)))

/-- The frame of `mov` (07 R151). -/
def movIns (o : MovOp) : Ins :=
  { Ins.of (encMov o) with
    rep := o.rep, kd := .g, ks := .g, d := o.d.toNat, s := o.s.toNat
    reads := fun _ sf => regsOf .g sf
    writes := fun d _ => regsOf .g d }

/-- 07 R151: the immediate instructions, `li` and `mov`; nothing but g(d) changes. -/
def ScalarImmediateSpec : Prop :=
  Immediate .addi encAddi (fun a m => a + BitVec.ofInt 64 (m.sval 8)) ∧
  Immediate .slli (encRS 0) (fun a m => a <<< (m.raw % 64)) ∧ Immediate .srli (encRS 1) (fun a m => a >>> (m.raw % 64)) ∧
  Immediate .srai (encRS 2) (fun a m => a.sshiftRight (m.raw % 64)) ∧
  Immediate .andi (encRS 3) (fun a m => a &&& BitVec.ofInt 64 (m.sval 5)) ∧
  Immediate .ori (encRS 4) (fun a m => a ||| BitVec.ofInt 64 (m.sval 5)) ∧
  Immediate .xori (encRS 5) (fun a m => a ^^^ BitVec.ofInt 64 (m.sval 5)) ∧
  (∀ (o : RI) (s : State) (k : Cont), let x := riIns (encRS 6 o) false o
    Issues x s k → exec (.li o) s = .next (passesWith x k (fun c => c.setG (dOf x k) (BitVec.ofInt 64 (o.imm.sval 5))) s)) ∧
  (∀ (o : MovOp) (s : State) (k : Cont), let x := movIns o
    Issues x s k → exec (.mov o) s = .next (passesWith x k (fun c => c.setG (dOf x k) (s.core.getG (sOf x k))) s))

end Sys2Proof.Machine

/-- 07 R148 to R151: the scalar instructions: binary, page 5 and immediate forms write their result to g(d) and change nothing else. -/
def Obligations.ScalarOperations : Prop := ScalarBinarySpec ∧ ScalarPage5Spec ∧ ScalarImmediateSpec

/-! Control flow (07 R144 to R147, R152; 06 R131, R135, R136) -/

namespace Sys2Proof.Machine

/-- The target of a relative transfer (02 R42): the pc plus twice the offset, modulo 2^48. -/
def target (s : State) (off : Int) : Addr := BitVec.ofInt 48 (s.core.pc.toNat + 2 * off)

/-- `ins` with this condition code goes to its target where the condition holds of g(s), else to the next instruction. -/
def BranchOne (ins : Br1 → Instr) (cond : Nat) (f : Word → Prop) : Prop :=
  ∀ (o : Br1) (s : State) (k : Cont), let x : Ins := { Ins.of (encBr1 cond o) with reads := fun _ _ => regsOf .g o.s.toNat }
    Issues x s k →
    (f (s.core.getG o.s.toNat) → exec (ins o) s = .next { s with core := jumped x (target s (o.off.sval 6)) s.core }) ∧
    (¬ f (s.core.getG o.s.toNat) → exec (ins o) s = .next (passes x k s))

/-- The same for a condition on g(s) and g(t). -/
def BranchTwo (ins : Br2 → Instr) (cond : Nat) (f : Word → Word → Prop) : Prop :=
  ∀ (o : Br2) (s : State) (k : Cont),
    let x : Ins := { Ins.of (encBr2 cond o) with reads := fun _ _ => regsOf .g o.s.toNat ++ regsOf .g o.t.toNat }
    Issues x s k →
    (f (s.core.getG o.s.toNat) (s.core.getG o.t.toNat) →
      exec (ins o) s = .next { s with core := jumped x (target s (o.off.sval 6)) s.core }) ∧
    (¬ f (s.core.getG o.s.toNat) (s.core.getG o.t.toNat) → exec (ins o) s = .next (passes x k s))

/-- 07 R152, the jump and the branches: control goes to the target where the condition holds, else to the next
instruction; nothing else changes. -/
def BranchesSpec : Prop :=
  (∀ (o : ImmF) (s : State) (k : Cont), let x := Ins.of (encJ 0 o)
    Issues x s k → exec (.j o) s = .next { s with core := jumped x (target s (o.sval 11)) s.core }) ∧
  BranchOne .beqz 0 (fun a => a = 0) ∧ BranchOne .bnez 1 (fun a => a ≠ 0) ∧
  BranchOne .bltz 2 (fun a => a.toInt < 0) ∧ BranchOne .bgez 3 (fun a => 0 ≤ a.toInt) ∧
  BranchTwo .beq 0 (fun a b => a = b) ∧ BranchTwo .bne 1 (fun a b => a ≠ b) ∧
  BranchTwo .blt 2 (fun a b => a.toInt < b.toInt) ∧ BranchTwo .bge 3 (fun a b => b.toInt ≤ a.toInt)

/-- 07 R144, the reads of a counter or a number; a read into g0 has no effect. -/
def CounterReadsSpec : Prop :=
  ∀ (o : BitVec 6) (s : State) (k : Cont),
    (Issues (zdIns 7 o) s k → exec (.rdcyc o) s = .next (passesWith (zdIns 7 o) k (fun c => c.setG o.toNat s.cycle) s)) ∧
    (Issues (zdIns 8 o) s k →
      exec (.rdtime o) s = .next (passesWith (zdIns 8 o) k (fun c => c.setG o.toNat (BitVec.ofNat 64 (traceTime s (s.cur / 256)))) s)) ∧
    (Issues (zdIns 9 o) s k →
      exec (.rdvc o) s = .next (passesWith (zdIns 9 o) k (fun c => c.setG o.toNat (BitVec.ofNat 64 s.cur)) s)) ∧
    (Issues (zdIns 12 o) s k →
      exec (.rdctx o) s = .next (passesWith (zdIns 12 o) k (fun c => c.setG o.toNat (s.core.ctx.setWidth 64)) s))

/-- A pointer that passes the check of 04 R82 for an untyped access and names a parcel. -/
def codePointer (p : Word) : Prop := fld p.toNat 53 48 = 0 ∧ p.getLsbD 0 = false

/-- A call to `a` with a full stack (06 R131): the oldest entry goes to memory at `rsp` first; where that store faults, or 65535
entries stand there, cause 13. -/
def Spills (ins : Instr) (x : Ins) (a : Addr) (s : State) : Prop :=
  ∀ (old : Addr) (rest : List Addr), s.core.rstack = old :: rest → rest.length = 15 →
    let s0 : State := { s with core := begun x s.core }
    let put := storeVa s.core.rsp.toNat (leBytes 8 old.toNat) 0 0 s0
    (∀ s1, s.core.spilled.toNat < 65535 → put = .ok (true, s1) →
      exec ins s = .next { s1 with core := { s1.core with
        pc := a, rstack := rest ++ [s.core.pc + BitVec.ofNat 48 x.size], rsp := s.core.rsp + 8, spilled := s.core.spilled + 1 } }) ∧
    (∀ t, s.core.spilled.toNat < 65535 → put = .error t →
      exec ins s = .next (takeTrap s0 x.size { code := 13, sub := t.code, tval := s.core.rsp.setWidth 64 })) ∧
    (s.core.spilled.toNat = 65535 → exec ins s = .next (takeTrap s0 x.size { code := 13, tval := s.core.rsp.setWidth 64 }))

/-- `ins` transfers to g(o): a bad pointer raises cause 7, an odd target cause 4 (07 R144). -/
def ChecksTarget (ins : Instr) (x : Ins) (p : Word) (s : State) (k : Cont) : Prop :=
  (fld p.toNat 53 48 ≠ 0 → exec ins s = .next (takeTrap (started x k s) 2 { code := 7, tval := p })) ∧
  (fld p.toNat 53 48 = 0 → p.getLsbD 0 = true →
    exec ins s = .next (takeTrap (started x k s) 2 { code := 4, tval := (p.setWidth 48).setWidth 64 }))

/-- 06 R131 with 07 R144 and R152: `jr`, `callr` and `call` transfer; a push onto a stack with room places the address of
the following instruction on top. A full stack spills its oldest entry to `rsp` first. -/
def CallsSpec : Prop :=
  ∀ (s : State) (k : Cont),
    (∀ o : BitVec 6, Issues (zsIns 10 o) s k → codePointer (s.core.getG o.toNat) →
      exec (.jr o) s = .next { s with core := jumped (zsIns 10 o) ((s.core.getG o.toNat).setWidth 48) s.core }) ∧
    (∀ o : BitVec 6, Issues (zsIns 11 o) s k → codePointer (s.core.getG o.toNat) → s.core.rstack.length < 16 →
      exec (.callr o) s = .next { s with core := { jumped (zsIns 11 o) ((s.core.getG o.toNat).setWidth 48) s.core with
        rstack := s.core.rstack ++ [s.core.pc + 2] } }) ∧
    (∀ o : ImmF, let x := Ins.of (encJ 1 o)
      Issues x s k → s.core.rstack.length < 16 →
      exec (.call o) s = .next { s with core := { jumped x (target s (o.sval 11)) s.core with
        rstack := s.core.rstack ++ [s.core.pc + BitVec.ofNat 48 x.size] } }) ∧
    (∀ o : BitVec 6, Issues (zsIns 10 o) s k → ChecksTarget (.jr o) (zsIns 10 o) (s.core.getG o.toNat) s k) ∧
    (∀ o : BitVec 6, Issues (zsIns 11 o) s k → ChecksTarget (.callr o) (zsIns 11 o) (s.core.getG o.toNat) s k) ∧
    (∀ o : BitVec 6, Issues (zsIns 11 o) s k → s.core.cont = none → codePointer (s.core.getG o.toNat) →
      Spills (.callr o) (zsIns 11 o) ((s.core.getG o.toNat).setWidth 48) s) ∧
    (∀ o : ImmF, Issues (Ins.of (encJ 1 o)) s k → s.core.cont = none → Spills (.call o) (Ins.of (encJ 1 o)) (target s (o.sval 11)) s)

/-- 06 R131: `ret` pops the top entry, or reads the entry below `rsp` back when the chip holds none, whose bits 63:48 it drops
(DESIGN CHOICE, log 56); a stack without any entry and a read that faults raise cause 13 and an odd return address cause 4, which
remove nothing. -/
def ReturnsSpec : Prop :=
  ∀ (s : State) (k : Cont), let x := zIns 4 0
    Issues x s k → s.core.cont = none →
    (∀ (l : List Addr) (a : Addr), s.core.rstack = l ++ [a] → a.getLsbD 0 = false →
      exec .ret s = .next { s with core := { jumped x a s.core with rstack := l } }) ∧
    (∀ (bs : List Byte) (s1 : State), s.core.rstack = [] → s.core.spilled ≠ 0 →
      loadVa (s.core.rsp - 8).toNat 8 0 0 (fun v => .pop v 2) { s with core := begun x s.core } = .ok (some bs, s1) →
      (BitVec.ofNat 48 (ofLe bs)).getLsbD 0 = false →
      exec .ret s = .next { s1 with core := { s1.core with
        pc := BitVec.ofNat 48 (ofLe bs), rsp := s1.core.rsp - 8, spilled := s1.core.spilled - 1 } }) ∧
    (∀ (bs : List Byte) (s1 : State), s.core.rstack = [] → s.core.spilled ≠ 0 →
      loadVa (s.core.rsp - 8).toNat 8 0 0 (fun v => .pop v 2) { s with core := begun x s.core } = .ok (some bs, s1) →
      (BitVec.ofNat 48 (ofLe bs)).getLsbD 0 = true →
      exec .ret s = .next (takeTrap { s with core := begun x s.core } 2 { code := 4, tval := BitVec.ofNat 64 (ofLe bs % 2 ^ 48) })) ∧
    (∀ t, s.core.rstack = [] → s.core.spilled ≠ 0 →
      loadVa (s.core.rsp - 8).toNat 8 0 0 (fun v => .pop v 2) { s with core := begun x s.core } = .error t →
      exec .ret s = .next (takeTrap { s with core := begun x s.core } 2
        { code := 13, sub := t.code, tval := (s.core.rsp - 8).setWidth 64 })) ∧
    (s.core.rstack = [] → s.core.spilled = 0 →
      exec .ret s = .next (takeTrap { s with core := begun x s.core } 2 { code := 13 })) ∧
    (∀ (l : List Addr) (a : Addr), s.core.rstack = l ++ [a] → a.getLsbD 0 = true →
      exec .ret s = .next (takeTrap { s with core := begun x s.core } 2 { code := 4, tval := a.setWidth 64 }))

end Sys2Proof.Machine

/-- 07 R144, R145; 06 R130, R131: branches, jumps, calls and returns: the next pc, the link, and the return stack with its spill and refill. -/
def Obligations.ControlTransfers : Prop := BranchesSpec ∧ CallsSpec ∧ ReturnsSpec

namespace Sys2Proof.Machine

/-- No buffer of the trace writer has a descriptor: records are numbered and stamped, and go nowhere (24 R382). -/
def Untraced (s : State) : Prop := ∀ k, fld (bufCtl s k) 47 6 = 0

/-- The core in the handler of a synchronous cause or an event (06 R135), for an entry at K and at H. -/
def atK (c : Core) (code sub : Nat) (tv : Word) (intr : Bool) (pcE : Addr) : Core :=
  { c with
    status := { c.status with kpp := c.priv == .k, kpie := c.status.kie, kie := false }
    epc := pcE, cause := BitVec.ofNat 64 (b2n intr * 2 ^ 63 + sub * 256 + code), tval := tv, priv := .k, pc := c.tveck }

def atH (c : Core) (code sub : Nat) (tv : Word) (intr : Bool) (pcE : Addr) : Core :=
  { c with
    status := { c.status with hpp := c.priv, hpie := c.status.hie, hie := false }
    epch := pcE, causeh := BitVec.ofNat 64 (b2n intr * 2 ^ 63 + sub * 256 + code), tvalh := tv, priv := .h, pc := c.tvech }

/-- The core in the handler of a synchronous cause at H (`toH`) or at K. -/
def handled (toH : Bool) (c : Core) (code sub : Nat) (tv : Word) (pcE : Addr) : Core :=
  if toH then atH c code sub tv false pcE else atK c code sub tv false pcE

/-- A core that leaves its instruction for a handler: nothing waits, and the marks of a return are cleared. -/
def left (c : Core) : Core := { c with wait := .none, retouch := false, opening := none, afterRett := false, skipBkpt := false }

/-- 06 R132, R135: a synchronous cause other than 5 is taken at H when it is raised at H, by K for cause 2 or where the
cause belongs to H, and at K otherwise; the saved registers, the status, the level and the pc change as R135 gives and
nothing else does, but that the exchange stores of the core are accepted first (02 R39). Without a repeat under way and
without trace buffers. -/
def TrapEntrySpec : Prop :=
  ∀ (s : State) (size : Nat) (t : Trap), s.core.wins = [] → s.core.cont = none → Untraced s → t.code ≠ 5 → t.code < 256 →
    t.sub < 256 → t.carry = none →
    let pcE := if t.after then s.core.pc + BitVec.ofNat 48 size else s.core.pc
    let toH := decide (s.core.priv = .h ∨ t.toH = true ∨ t.code = 23 ∨ (t.code = 2 ∧ s.core.priv = .k))
    let u := flushXsts { s with core := { s.core with wait := .none, retouch := false, opening := none } } s.cur
    ∃ tr, takeTrap s size t = { u with trc := tr, core := handled toH (left u.core) t.code t.sub t.tval pcE }

/-- 07 R144, R145: `trap n` raises cause 15 with tval n and the following instruction as epc; `brk n` raises cause 16 with
its own address, and halts the task where a debugger has armed software-breakpoint capture in its context. -/
def TrapAndBreakSpec : Prop :=
  ∀ (n : BitVec 8) (s : State) (k : Cont), s.core.cont = none → Untraced s →
    (Issues (zIns 2 n.toNat) s k → ∃ tr, exec (.trap n) s = .next { s with trc := tr, core :=
      (handled (s.core.priv == .h) (left (begun (zIns 2 n.toNat) s.core)) 15 0 (n.setWidth 64) (s.core.pc + 2)) }) ∧
    (Issues (zIns 3 n.toNat) s k → ((getCtx s s.core.ctx.toNat).capture = false ∨ s.core.task = none) →
      ∃ tr, exec (.brk n) s = .next { s with trc := tr, core :=
        (handled (s.core.priv == .h) (left (begun (zIns 3 n.toNat) s.core)) 16 0 (n.setWidth 64) s.core.pc) }) ∧
    (Issues (zIns 3 n.toNat) s k → (getCtx s s.core.ctx.toNat).capture = true → s.core.task.isSome → stalledSrc s s.cur = false →
      ∃ tr, exec (.brk n) s = .next { s with trc := tr, core :=
        { passed (zIns 3 n.toNat) k s.core with
            halted := true, skipBkpt := true, wait := .none, opening := none, ssb := s.core.ssb.map Scan.ask
            pend := { s.core.pend with preempt := s.core.pend.preempt || s.core.wait == .stopped } } })

/-- 06 R136: `rett` at K and at H restores the level, the enable bit and the pc from that level's registers; the next
instruction consults `rep` (R129); at U it raises cause 2 with tval 0x0500. -/
def ReturnFromHandlerSpec : Prop :=
  ∀ (s : State) (k : Cont), let x := zIns 5 0
    Issues x s k → s.core.cont = none →
    (s.core.priv = .k → s.core.bar.arrived = false → ¬ (s.core.mode = .irq ∧ s.core.status.kpp = false) →
      exec .rett s = .next { s with core := { begun x s.core with
        priv := if s.core.status.kpp then .k else .u
        status := { s.core.status with kie := s.core.status.kpie, kpie := false }
        pc := s.core.epc, afterRett := true, skipBkpt := true } }) ∧
    (s.core.priv = .h → s.core.bar.arrived = false → ¬ (s.core.mode = .irq ∧ s.core.status.hpp = .u) →
      exec .rett s = .next { s with core := { begun x s.core with
        priv := s.core.status.hpp
        status := { s.core.status with hie := s.core.status.hpie, hpie := false }
        pc := s.core.epch, afterRett := true, skipBkpt := true } }) ∧
    (s.core.priv = .u → Untraced s →
      ∃ tr, exec .rett s = .next { s with trc := tr, core := atK (left s.core) 2 0 0x0500 false s.core.pc })

end Sys2Proof.Machine

/-- 06 R122 to R129, R133: what taking a trap at K or H saves and where it goes, and what `rett` restores. -/
def Obligations.Handlers : Prop := TrapEntrySpec ∧ ReturnFromHandlerSpec

namespace Sys2Proof.Machine

/-- 07 R144, R146, R147: `nop` only passes; `isync` discards the fetch buffer; a fence performs the stores that its kind and
scope name and invalidates L1 where it acquires at device or system scope; a release past core scope needs every remote store
acknowledged; `fence.eng` makes the target banks accept the exchange stores of the core that are still on their way, those whose
windows are behind it first, and then none of them is left. -/
def FencesAndSyncSpec : Prop :=
  ∀ (s : State) (k : Cont),
    (Issues (zIns 0 0) s k → exec .nop s = .next (passes (zIns 0 0) k s)) ∧
    (Issues (zIns 6 0) s k → exec .isync s = .next (passesWith (zIns 6 0) k (fun c => { c with fbuf := .empty }) s)) ∧
    (∀ o : FenceOp, let x := zIns 1 (o.scope.toNat * 64 + o.kind.toNat * 16)
      Issues x s k → s.core.cont = none → (o.kind.toNat % 2 = 0 → 1 ≤ o.scope.toNat → storesOut s s.cur none = false) →
      exec (.fence o) s = .next
        (let pass := fun (st : State) => { st with core := { st.core with pc := s.core.pc + 2 } }
         let s0 : State := { s with core := begun x s.core }
         if o.kind = 3 then pass s0
         else
           let s1 := if o.kind = 1 then s0
             else if o.scope = 0 then drainSome s0 s.cur (fun e => e.slot.isNone)
             else if o.scope = 1 then drainSome s0 s.cur (fun e => !e.cached) else drainCore s0 s.cur
           if o.kind ≠ 2 ∧ 2 ≤ o.scope.toNat then pass { s1 with core := { s1.core with l1 := [] } } else pass s1)) ∧
    (∀ o : FenceOp, let x := zIns 1 (o.scope.toNat * 64 + o.kind.toNat * 16)
      Issues x s k → o.kind.toNat % 2 = 0 → 1 ≤ o.scope.toNat → storesOut s s.cur none = true →
      exec (.fence o) s = .next { s with core := { begun x s.core with wait := .issue } }) ∧
    (∀ o : FenceOp, let x := zIns 1 (o.scope.toNat * 64 + o.kind.toNat * 16)
      let s1 := settleXsts s
      let u := flushXsts { s1 with core := begun x s1.core } s.cur
      o.kind = 3 → s.core.cont = none →
      Sent u ∧ exec (.fence o) s = .next { u with core := ({ u.core with pc := u.core.pc + 2 } : Core).countWins })

end Sys2Proof.Machine

/-- 07 R144 to R147: the reads of counters and numbers, `trap` and `brk`, and `nop`, `isync` and the fences. -/
def Obligations.CountersTrapsAndFences : Prop := CounterReadsSpec ∧ TrapAndBreakSpec ∧ FencesAndSyncSpec

/-! Special registers (06 R124 to R130; 07 R167, R168) -/

namespace Sys2Proof.Machine

/-- 07 R167, R168 with 06 R124: `csrr` reads a CSR whose level the core reaches; a reserved number raises cause 1 and a CSR
above the core's level cause 2, which write nothing else. -/
def CsrReadsSpec : Prop :=
  ∀ (o : CsrOp) (s : State) (k : Cont), let x := csrIns 4 o
    (∀ r w, Issues x s k → csrLevels o.csr.toNat = some (r, w) → r.num ≤ s.core.priv.num →
      exec (.csrr o) s = .next (passesWith x k (fun c => c.setG (dOf x k) (csrGet (started x k s) o.csr.toNat)) s)) ∧
    (csrLevels o.csr.toNat = none → exec (.csrr o) s = .next (takeTrap (settleXsts s) x.size { code := 1, tval := BitVec.ofNat 64 x.body1 })) ∧
    (∀ r w, csrLevels o.csr.toNat = some (r, w) → s.core.priv.num < r.num →
      exec (.csrr o) s = .next (takeTrap (settleXsts s) x.size { code := 2, tval := BitVec.ofNat 64 x.body1 }))

/-- A writing form of a CSR, behind everything outstanding: it writes `f old new` where the CSR may be written at the core's
level and the value keeps its layout, and raises cause 1 or 2 otherwise, the value of a register that no open window's instruction
writes (02 R37); a write of `trpause` waits for the records in flight. -/
def WritesCsr (ins : CsrOp → Instr) (op : Nat) (f : Word → Word → Word) : Prop :=
  ∀ (o : CsrOp) (s : State) (k : Cont), let x := csrIns op o
    let new := fun (st : State) => if o.csr = 0x208 then st.core.getG o.d.toNat else f (csrGet st o.csr.toNat) (st.core.getG o.d.toNat)
    let u := landAll s
    (∀ r w t, Issues x s k → csrLevels o.csr.toNat = some (r, some w) → w.num ≤ s.core.priv.num →
      (csrPut s o.csr.toNat (new s)).isSome → (o.csr = 0x209 → inFlight s (new s) = false) →
      csrPut (started x k s) o.csr.toNat (new (started x k s)) = some t →
      exec (ins o) s = .next (onward x k t)) ∧
    (∀ r w, Issues x s k → csrLevels o.csr.toNat = some (r, some w) → w.num ≤ s.core.priv.num →
      (csrPut s o.csr.toNat (new s)).isSome → o.csr = 0x209 → inFlight s (new s) = true →
      exec (ins o) s = .next { s with core := { begun x s.core with wait := .issue } }) ∧
    (∀ r w, csrLevels o.csr.toNat = some (r, some w) → w.num ≤ s.core.priv.num → csrPut u o.csr.toNat (new u) = none →
      s.core.wins.all (fun y => !y.w.contains (.g o.d.toNat)) →
      exec (ins o) s = .next (takeTrap u x.size { code := 1, tval := BitVec.ofNat 64 x.body1 })) ∧
    (∀ r w, csrLevels o.csr.toNat = some (r, some w) → s.core.priv.num < w.num →
      exec (ins o) s = .next (takeTrap u x.size { code := 2, tval := BitVec.ofNat 64 x.body1 })) ∧
    ((csrLevels o.csr.toNat = none ∨ ∃ r, csrLevels o.csr.toNat = some (r, none)) →
      exec (ins o) s = .next (takeTrap u x.size { code := 1, tval := BitVec.ofNat 64 x.body1 }))

/-- 07 R167, R168: `csrw` writes g(d), `csrs` sets and `csrc` clears the bits that g(d) names; `keyretire` takes a slot number
in every form. -/
def CsrWritesSpec : Prop :=
  WritesCsr .csrw 5 (fun _ a => a) ∧ WritesCsr .csrs 6 (fun old a => old ||| a) ∧ WritesCsr .csrc 7 (fun old a => old &&& ~~~a)

/-- 06 R124 to R130: what a write of a CSR left is what a read gives, for every CSR that can be written but `keyretire`,
whose read gives the slots that retire; level K reaches only the lower half of `status`. -/
def CsrReadsBackSpec : Prop :=
  ∀ (n : Nat) (v : Word) (s t : State), csrPut s n v = some t → n ≠ 0x208 →
    csrGet t n = if n = 0x100 ∧ s.core.priv ≠ .h then v &&& 0xF else v

end Sys2Proof.Machine

/-- 06 R124 to R128; 07 R167: `csrr`, `csrw`, `csrs` and `csrc` of every CSR: levels, reserved bits, the value written and the value read
back. -/
def Obligations.CsrAccesses : Prop := CsrReadsSpec ∧ CsrWritesSpec ∧ CsrReadsBackSpec

namespace Sys2Proof.Machine

/-- 05 R115, 24 R388: a write of `keyretire` makes the slot busy; when it has retired, the slot is invalid, no longer busy,
no core's L1 and no slice holds a line of it, and a store that waits for it is not performed; a write of `trpause` holds its value once
no record of the contexts it pauses is in flight. Nothing else changes. -/
def KeyRetirementSpec : Prop :=
  (∀ (k : BitVec 6) (s : State), ∃ t, exec (.keyretireWrite k) s = .next t ∧
    t = { s with keys := s.keys.insert k.toNat { s.keys.getD k.toNat KeySlot.reset with busy := true } }) ∧
  (∀ (k : BitVec 6) (s : State), (s.keys.getD k.toNat KeySlot.reset).busy = true →
    let drop := fun (c : Core) => { c with l1 := c.l1.filter (fun t => t.slot != k.toNat) }
    let late := fun (w : WbEnt) => w.slot == some k.toNat
    ∃ u : State, u = (listedCores s).foldl (fun st p => drainSome st p.1 late) s ∧
    ((∀ p ∈ listedCores s, (getCore s p.1).wbuf.any late = false) → u = s) ∧
    exec (.keyRetireDone k) s = .next { u with
      keys := u.keys.insert k.toNat { s.keys.getD k.toNat KeySlot.reset with busy := false, valid := false }
      slices := u.slices.filter (fun e => e.slot != k.toNat)
      core := drop u.core, others := u.others.map (fun p => (p.1, drop p.2)) }) ∧
  (∀ (v : BitVec 64) (s : State),
    (inFlight s v = false → exec (.trpauseWrite v) s = .next { s with trpause := v }) ∧
    (inFlight s v = true → exec (.trpauseWrite v) s = .next s))

end Sys2Proof.Machine

/-! Vector instructions (08 R172 to R186) -/

namespace Sys2Proof.Machine

/-- Lane `i` of width `w` of a vector register (08 R172). -/
def lane (w : Nat) (r : VReg) (i : Nat) : BitVec w := r.extractLsb' (w * i) w

/-- Is element `i` active (08 R173)? -/
def isActive (m : Option MaskF) (c : Core) (i : Nat) : Bool :=
  match m with
  | none => true
  | some x => (c.getK x.k.toNat).getLsbD i

/-- Lane `i` under the mask: the new value where active, else 0 or the old one (08 R173). -/
def masked (o : VR) (c : Core) (i : Nat) {w : Nat} (old new : BitVec w) : BitVec w :=
  if isActive o.mask c i then new else if zeroing o.mask then 0 else old

/-- Operands a and b of a binary form (08 R175). -/
def vecA (o : VR) (d s : Nat) (c : Core) : VReg := match o.t with | none => c.getV d | some _ => c.getV s
def vecB (o : VR) (s : Nat) (c : Core) : VReg := match o.t with | none => c.getV s | some t => c.getV t.toNat

/-- The vector unit is not owned by a scan (08 R176). -/
def Free (s : State) : Prop := s.core.ssb = none

/-- `ins` writes to v(d), lane by lane under its mask, the 32-bit lanes that `f` gives, and changes nothing else. -/
def WritesLanes (ins : VR → Instr) (fr : VR → Ins) (f : VR → Nat → Nat → Core → Nat → BitVec 32) : Prop :=
  ∀ (o : VR) (s : State) (k : Cont), let x := fr o
    Issues x s k → Free s →
    ∃ r : VReg, (∀ i, i < 16 → lane 32 r i = masked o s.core i (lane 32 (s.core.getV (dOf x k)) i) (f o (dOf x k) (sOf x k) s.core i)) ∧
      exec (ins o) s = .next (passesWith x k (fun c => c.setV (dOf x k) r) s)

/-- `ins` writes the word that `f` gives to g(d) and changes nothing else. -/
def WritesScalar (ins : VR → Instr) (fr : VR → Ins) (is : VR → Nat → Core → Word → Prop) : Prop :=
  ∀ (o : VR) (s : State) (k : Cont), let x := fr o
    Issues x s k → Free s →
    ∃ r, is o (sOf x k) s.core r ∧ exec (ins o) s = .next (passesWith x k (fun c => c.setG (dOf x k) r) s)

/-- `ins` compares `n` lanes into k(d): active bits are the comparison, inactive ones stay, bits from `n` on are 0 (08 R174). -/
def Compares (ins : VR → Instr) (fr : VR → Ins) (n : Nat) (f : VReg → VReg → Nat → Bool) : Prop :=
  ∀ (o : VR) (s : State) (k : Cont), let x := fr o
    Issues x s k → Free s →
    ∃ r : Word, (∀ i, i < n → r.getLsbD i = if isActive o.mask s.core i then
        f (vecA o (dOf x k) (sOf x k) s.core) (vecB o (sOf x k) s.core) i else (s.core.getK (dOf x k)).getLsbD i) ∧
      (∀ i, n ≤ i → r.getLsbD i = false) ∧
      exec (ins o) s = .next (passesWith x k (fun c => c.setK (dOf x k) r) s)

def intFrame (fn : Nat) (o : VR) : Ins := vIns (encVR 7 none fn o) (shInt fn) false o

/-- A lane-by-lane binary operation of 08 R180. -/
def IntOp (ins : VR → Instr) (fn : Nat) (f : BitVec 32 → BitVec 32 → BitVec 32) : Prop :=
  WritesLanes ins (intFrame fn) (fun o d s c i => f (lane 32 (vecA o d s c) i) (lane 32 (vecB o s c) i))

/-- 08 R180, R181: the integer lane instructions; no flag is raised. -/
def VectorIntegerSpec : Prop :=
  IntOp .vadd 0 (fun a b => a + b) ∧ IntOp .vsub 1 (fun a b => a - b) ∧ IntOp .vmul 2 (fun a b => a * b) ∧
  IntOp .vand 3 (fun a b => a &&& b) ∧ IntOp .vor 4 (fun a b => a ||| b) ∧ IntOp .vxor 5 (fun a b => a ^^^ b) ∧
  IntOp .vsll 6 (fun a b => a <<< (b.toNat % 32)) ∧ IntOp .vsrl 7 (fun a b => a >>> (b.toNat % 32)) ∧
  IntOp .vsra 8 (fun a b => a.sshiftRight (b.toNat % 32)) ∧
  IntOp .vmin 9 (fun a b => BitVec.ofInt 32 (min a.toInt b.toInt)) ∧ IntOp .vmax 10 (fun a b => BitVec.ofInt 32 (max a.toInt b.toInt)) ∧
  Compares .vceq (intFrame 11) 16 (fun a b i => lane 32 a i == lane 32 b i) ∧
  Compares .vclt (intFrame 12) 16 (fun a b i => decide ((lane 32 a i).toInt < (lane 32 b i).toInt)) ∧
  WritesLanes .vperm (intFrame 13) (fun o d s c i => lane 32 (vecA o d s c) ((lane 32 (vecB o s c) i).toNat % 16)) ∧
  WritesLanes .vmov (intFrame 14) (fun _ _ s c i => lane 32 (c.getV s) i) ∧
  WritesLanes .vbcst (intFrame 15) (fun _ _ s c _ => (c.getG s).setWidth 32)

/-- The active lanes of vs as signed integers. -/
def signedLanes (o : VR) (c : Core) (a : VReg) : List Int :=
  ((List.range 16).filter (isActive o.mask c)).map (fun i => (lane 32 a i).toInt)

/-- g(t), and its lane index (08 R182). -/
def countOf (o : VR) (c : Core) : Nat := (tG o c).toNat

/-- 08 R182: lane moves and integer reductions. -/
def LaneMovesSpec : Prop :=
  WritesScalar .vext (p3Ins 0 false) (fun o s c r =>
    r = if isActive o.mask c (countOf o c % 16) then (lane 32 (c.getV s) (countOf o c % 16)).signExtend 64 else 0) ∧
  WritesLanes .vins (p3Ins 1 true) (fun o d s c i => if i = countOf o c % 16 then (c.getG s).setWidth 32 else lane 32 (c.getV d) i) ∧
  WritesLanes .vidx (p3Ins 2 false) (fun _ _ _ _ i => BitVec.ofNat 32 i) ∧
  WritesScalar .vredadd (p3Ins 3 false) (fun o s c r => r.toInt = (signedLanes o c (c.getV s)).sum) ∧
  WritesScalar .vredmin (p3Ins 4 false) (fun o s c r => r.toInt = (signedLanes o c (c.getV s)).foldr min (2 ^ 31 - 1)) ∧
  WritesScalar .vredmax (p3Ins 5 false) (fun o s c r => r.toInt = (signedLanes o c (c.getV s)).foldr max (-2 ^ 31)) ∧
  WritesLanes .vslideup (p3Ins 8 true) (fun o d s c i =>
    if countOf o c ≤ i then lane 32 (c.getV s) (i - countOf o c) else lane 32 (c.getV d) i) ∧
  WritesLanes .vslidedn (p3Ins 9 false) (fun o _ s c i =>
    if i + countOf o c ≤ 15 then lane 32 (c.getV s) (i + countOf o c) else 0)

/-- Lane `i` counts for `vargmax` and `vargmin`: active and not a NaN. -/
def counts (o : VR) (c : Core) (a : VReg) (i : Nat) : Prop :=
  i < 16 ∧ isActive o.mask c i = true ∧ (fp32.dec (lane 32 a i).toNat).isNan = false

/-- The answer of 08 R183: the lowest index whose lane no counting lane beats; all ones where no lane counts. -/
def IsBest (o : VR) (c : Core) (a : VReg) (beats : FVal → FVal → Bool) (r : Word) : Prop :=
  ((∀ i, ¬ counts o c a i) → r = BitVec.allOnes 64) ∧
  ((∃ i, counts o c a i) → counts o c a r.toNat ∧
    (∀ j, counts o c a j → beats (fp32.dec (lane 32 a j).toNat) (fp32.dec (lane 32 a r.toNat).toNat) = false) ∧
    (∀ j, counts o c a j → j < r.toNat → beats (fp32.dec (lane 32 a r.toNat).toNat) (fp32.dec (lane 32 a j).toNat) = true))

/-- 08 R183: `vargmax` and `vargmin`. -/
def ArgSearchSpec : Prop :=
  WritesScalar .vargmax (p3Ins 6 false) (fun o s c r => IsBest o c (c.getV s) (fun a b => decide (0 < fcmp a b)) r) ∧
  WritesScalar .vargmin (p3Ins 7 false) (fun o s c r => IsBest o c (c.getV s) (fun a b => decide (fcmp a b < 0)) r)

/-- A mask operation that writes `f` to k(d), or to g(d), and changes nothing else. -/
def MaskToK (ins : KM → Instr) (fn : Nat) (is : KM → Nat → Nat → Core → Word → Prop) : Prop :=
  ∀ (o : KM) (s : State) (k : Cont), let x := kmIns fn o
    Issues x s k → Free s →
    ∃ r, is o (dOf x k) (sOf x k) s.core r ∧ exec (ins o) s = .next (passesWith x k (fun c => c.setK (dOf x k) r) s)

def MaskToG (ins : KM → Instr) (fn : Nat) (is : Word → Word → Prop) : Prop :=
  ∀ (o : KM) (s : State) (k : Cont), let x := kmIns fn o
    Issues x s k → Free s →
    ∃ r, is (s.core.getK (sOf x k)) r ∧ exec (ins o) s = .next (passesWith x k (fun c => c.setG (dOf x k) r) s)

def kA (o : KM) (d s : Nat) (c : Core) : Word := match o.t with | none => c.getK d | some _ => c.getK s
def kB (o : KM) (s : Nat) (c : Core) : Word := match o.t with | none => c.getK s | some t => c.getK t.toNat

/-- 08 R186: operations on mask registers; a write of k0 is discarded, and a read of it gives all ones. -/
def MaskOperationsSpec : Prop :=
  MaskToK .kand 0 (fun o d s c r => r = kA o d s c &&& kB o s c) ∧ MaskToK .kor 1 (fun o d s c r => r = kA o d s c ||| kB o s c) ∧
  MaskToK .kxor 2 (fun o d s c r => r = kA o d s c ^^^ kB o s c) ∧ MaskToK .knot 3 (fun _ _ s c r => r = ~~~(c.getK s)) ∧
  MaskToG .kmovg 4 (fun a r => r = a) ∧ MaskToK .kmovk 5 (fun _ _ s c r => r = c.getG s) ∧
  MaskToG .kpopc 6 (fun a r => r.toNat = ((List.range 64).filter (fun j => a.getLsbD j)).length) ∧
  MaskToG .kfirst 7 (fun a r => r.toNat ≤ 64 ∧ (∀ j, j < r.toNat → a.getLsbD j = false) ∧ (r.toNat < 64 → a.getLsbD r.toNat = true)) ∧
  MaskToK .klanes 8 (fun _ _ s c r => ∀ j, j < 64 → r.getLsbD j = decide (j < (c.getG s).toNat)) ∧
  (∀ (c : Core) (w : Word), c.getK 0 = BitVec.allOnes 64 ∧ c.setK 0 w = c)

end Sys2Proof.Machine

/-- 08 R180 to R186: moves between lanes and registers, the search for a least or greatest lane, and the operations on mask registers. -/
def Obligations.LanesAndMasks : Prop := LaneMovesSpec ∧ ArgSearchSpec ∧ MaskOperationsSpec

/-! Floating point (03; 08 R177 to R179, R184, R185) -/

namespace Sys2Proof.Machine

/-- The flags of the active elements of `n`, where element `i` gives `g i`. -/
def flagsOf (o : VR) (c : Core) (n : Nat) (g : Nat → Nat × Nat) : Nat :=
  (List.range n).foldl (fun f i => if isActive o.mask c i then f ||| (g i).2 else f) 0

/-- Flags join `fflags` (03 R72). -/
def withFlags (fl : Nat) (c : Core) : Core := { c with fflags := BitVec.ofNat 5 (c.fflags.toNat ||| fl) }

/-- `ins` computes `n` elements of width `w` from element `base` of v(d) on, element i giving a result and flags by `g`: under
the mask it writes the results and the flags join `fflags`; where a raised flag is enabled it raises cause 14 with those
flags as tval and writes nothing (03 R72). -/
def Elementwise (ins : VR → Instr) (fr : VR → Ins) (w n : Nat) (base : VR → Nat) (g : VR → Nat → Nat → Core → Nat → Nat × Nat) : Prop :=
  ∀ (o : VR) (s : State) (k : Cont), let x := fr o
    let res := g o (dOf x k) (sOf x k) s.core
    let fl := flagsOf o s.core n res
    Issues x s k → Free s → base o + n ≤ 512 / w →
    (fl &&& s.core.fenable.toNat = 0 → ∃ r : VReg,
      (∀ i, i < n → lane w r (base o + i) = masked o s.core i (lane w (s.core.getV (dOf x k)) (base o + i)) (BitVec.ofNat w (res i).1)) ∧
      (∀ i, i < base o ∨ base o + n ≤ i → i < 512 / w → lane w r i = lane w (s.core.getV (dOf x k)) i) ∧
      exec (ins o) s = .next (passesWith x k (fun c => (withFlags fl c).setV (dOf x k) r) s)) ∧
    (fl &&& s.core.fenable.toNat ≠ 0 →
      exec (ins o) s = .next (takeTrap (started x k s) x.size { code := 14, tval := BitVec.ofNat 64 fl }))

def fpFrame (pg : Option Nat) (fn : Nat) (readsD : Bool) (o : VR) : Ins := vIns (encVR 6 pg fn o) (shFp fn) readsD o

/-- The exact value of lane `i` in format `f`. -/
def val (f : FFmt) (r : VReg) (i : Nat) : FVal := f.dec (lane f.w r i).toNat

/-- Round to nearest even, with the flags of the operation before (03 R65, R70). -/
def rounded (f : FFmt) (p : FVal × Nat) : Nat × Nat := ((rne f p.1).1, p.2 ||| (rne f p.1).2)

def FpTwo (ins : VR → Instr) (pg : Option Nat) (fn : Nat) (f : FFmt) (op : FVal → FVal → FVal × Nat) : Prop :=
  Elementwise ins (fpFrame pg fn false) f.w (512 / f.w) (fun _ => 0) (fun o d s c i =>
    rounded f (op (val f (vecA o d s c) i) (val f (vecB o s c) i)))

def FpOne (ins : VR → Instr) (pg : Option Nat) (fn : Nat) (f : FFmt) (op : FVal → FVal × Nat) : Prop :=
  Elementwise ins (fpFrame pg fn false) f.w (512 / f.w) (fun _ => 0) (fun _ _ s c i => rounded f (op (val f (c.getV s) i)))

def FpMulAdd (ins : VR → Instr) (pg : Option Nat) (f : FFmt) : Prop :=
  Elementwise ins (fpFrame pg 3 true) f.w (512 / f.w) (fun _ => 0) (fun o d s c i =>
    rounded f (ffma (val f (c.getV d) i) (val f (vecA o d s c) i) (val f (vecB o s c) i)))

def FpTest (ins : VR → Instr) (pg : Option Nat) (fn : Nat) (f : FFmt) (p : Int → Bool) : Prop :=
  Compares ins (fpFrame pg fn false) (512 / f.w) (fun a b i =>
    !(val f a i).isNan && !(val f b i).isNan && p (fcmp (val f a i) (val f b i)))

/-- The instructions of one format but the sum (08 R177, R178). -/
def FpFormat (pg : Option Nat) (f : FFmt) (add sub mul ma mn mx ab ng eq lt le rcp ex lg rs : VR → Instr) : Prop :=
  FpTwo add pg 0 f fadd ∧ FpTwo sub pg 1 f (fun a b => fadd a b.negate) ∧ FpTwo mul pg 2 f fmul ∧ FpMulAdd ma pg f ∧
  FpTwo mn pg 4 f (fun a b => (fmin a b, 0)) ∧ FpTwo mx pg 5 f (fun a b => (fmax a b, 0)) ∧
  FpOne ab pg 6 f (fun a => (a.absolute, 0)) ∧ FpOne ng pg 7 f (fun a => (a.negate, 0)) ∧
  FpTest eq pg 8 f (fun x => x == 0) ∧ FpTest lt pg 9 f (fun x => decide (x < 0)) ∧ FpTest le pg 10 f (fun x => decide (x ≤ 0)) ∧
  FpOne rcp pg 11 f frcp ∧ FpOne ex pg 12 f fexp2 ∧ FpOne lg pg 13 f flog2 ∧ FpOne rs pg 14 f frsq

/-- 08 R177, R178; 03 R72: FP32, FP16 and BF16 lane arithmetic, comparisons and special functions. -/
def VectorFloatSpec : Prop :=
  FpFormat none fp32 .vfadd .vfsub .vfmul .vfma .vfmin .vfmax .vfabs .vfneg .vfceq .vfclt .vfcle .vfrcp .vfexp2 .vflog2 .vfrsq ∧
  FpFormat (some 1) fp16 .vfaddH .vfsubH .vfmulH .vfmaH .vfminH .vfmaxH .vfabsH .vfnegH .vfceqH .vfcltH .vfcleH .vfrcpH .vfexp2H
    .vflog2H .vfrsqH ∧
  FpFormat (some 2) bf16 .vfaddB .vfsubB .vfmulB .vfmaB .vfminB .vfmaxB .vfabsB .vfnegB .vfceqB .vfcltB .vfcleB .vfrcpB .vfexp2B
    .vflog2B .vfrsqB

/-- The pairwise sum of `l`, each addition rounded once, with the flags of all of them (08 R179). -/
def pairSum (f : FFmt) : Nat → List Nat → Nat × Nat
  | 0, l => (l.headD 0, 0)
  | n + 1, l =>
    let sums := (List.range (l.length / 2)).map (fun j => rounded f (fadd (f.dec (l.getD (2 * j) 0)) (f.dec (l.getD (2 * j + 1) 0))))
    let rest := pairSum f n (sums.map (fun p => p.1))
    (rest.1, (sums.foldl (fun fl p => fl ||| p.2) 0) ||| rest.2)

def PairwiseSum (ins : VR → Instr) (pg : Option Nat) (f : FFmt) (depth : Nat) : Prop :=
  ∀ (o : VR) (s : State) (k : Cont), let x := fpFrame pg 15 false o
    let r := pairSum f depth ((List.range (2 ^ depth)).map (fun i =>
      if isActive o.mask s.core i then (lane f.w (s.core.getV (sOf x k)) i).toNat else 2 ^ (f.w - 1)))
    Issues x s k → Free s →
    (r.2 &&& s.core.fenable.toNat = 0 →
      exec (ins o) s = .next (passesWith x k (fun c => (withFlags r.2 c).setV (dOf x k) (BitVec.ofNat 512 r.1)) s)) ∧
    (r.2 &&& s.core.fenable.toNat ≠ 0 →
      exec (ins o) s = .next (takeTrap (started x k s) x.size { code := 14, tval := BitVec.ofNat 64 r.2 }))

/-- 08 R179: `vfsum` adds the active lanes in the fixed tree, writes lane 0 and clears the others. -/
def VectorSumSpec : Prop :=
  PairwiseSum .vfsum none fp32 4 ∧ PairwiseSum .vfsumH (some 1) fp16 5 ∧ PairwiseSum .vfsumB (some 2) bf16 5

end Sys2Proof.Machine

/-- 08 R174 to R179; 03 R58 to R66: floating-point vector instructions, lane by lane, and the sum over a register. -/
def Obligations.VectorArithmetic : Prop := VectorFloatSpec ∧ VectorSumSpec

namespace Sys2Proof.Machine

/-- 08 R176, 16 R305: while a scan owns the vector unit and the array, an instruction that uses them waits at issue, without
a trap, and does nothing else: integer, floating-point and mask operations, conversions, vector memory, the array and a
further scan. -/
def VectorWaitsSpec : Prop :=
  ∀ (o : VR) (m : KM) (q : VMem) (e : Eng) (a : MSet) (b : MLdb) (p : MMul) (r : MDrain) (s : State), s.core.ssb.isSome →
    let waits := (.next { s with core := { s.core with wait := .issue } } : Host.Outcome State Fault Refusal)
    exec (.vadd o) s = waits ∧ exec (.vmov o) s = waits ∧ exec (.vfadd o) s = waits ∧ exec (.vfsum o) s = waits ∧
    exec (.vredadd o) s = waits ∧ exec (.vcvtF32Bf16Lo o) s = waits ∧ exec (.vqcb o) s = waits ∧ exec (.vxcb o) s = waits ∧
    exec (.kand m) s = waits ∧ exec (.vld q) s = waits ∧ exec (.vscat q) s = waits ∧ exec (.sscan e) s = waits ∧
    exec (.mzero a) s = waits ∧ exec (.mldb b) s = waits ∧ exec (.mmul p) s = waits ∧ exec (.mdrain r) s = waits

end Sys2Proof.Machine

/-- 08 R176, R180, R181; 16 R305: integer lane instructions, and the wait of a vector instruction while a scan owns the unit. -/
def Obligations.VectorIntegers : Prop := VectorIntegerSpec ∧ VectorWaitsSpec

namespace Sys2Proof.Machine

/-- The rational number that a finite value stands for. -/
def FVal.rat : FVal → Rat
  | .fin neg n e _ => (if neg then -1 else 1) * (n : Rat) * (2 : Rat) ^ e
  | _ => 0

def FVal.Finite : FVal → Prop
  | .fin _ _ _ st => st = false
  | _ => False

end Sys2Proof.Machine

/-- 03 R65, R70: before the one rounding, sum, product and fused product-sum of finite operands are exact and raise nothing. -/
def Obligations.ExactBeforeRounding : Prop :=
  ∀ (a b c : FVal), a.Finite → b.Finite → c.Finite →
    ((fadd a b).1.Finite ∧ (fadd a b).1.rat = a.rat + b.rat ∧ (fadd a b).2 = 0) ∧
    ((fmul a b).1.Finite ∧ (fmul a b).1.rat = a.rat * b.rat ∧ (fmul a b).2 = 0) ∧
    ((ffma a b c).1.Finite ∧ (ffma a b c).1.rat = a.rat + b.rat * c.rat ∧ (ffma a b c).2 = 0) ∧
    (fcmp a b < 0 ↔ a.rat < b.rat) ∧ (fcmp a b = 0 ↔ a.rat = b.rat)

namespace Sys2Proof.Machine

/-- A conversion: `Elementwise` with the rounding mode of the prefix and, under SR, one draw for each active element in
ascending order, by which the generator advances (03 R73; 08 R185). -/
def Converts (ins : VR → Instr) (fr : VR → Ins) (w n : Nat) (base : VR → Nat)
    (g : VR → RMode → Nat → Nat → Core → Nat → Nat × Nat) : Prop :=
  ∀ (o : VR) (s : State) (k : Cont), let x := fr o
    let mode := maskMode o.mask
    let dr := draws s.cur (maskBits o.mask s.core) n 0 s.core.sgen
    let res := fun i => g o mode (if mode = .sr then dr.1.getD i 0 else 0) (sOf x k) s.core i
    let fl := flagsOf o s.core n res
    Issues x s k → Free s → base o + n ≤ 512 / w →
    (fl &&& s.core.fenable.toNat = 0 → ∃ r : VReg,
      (∀ i, i < n → lane w r (base o + i) = masked o s.core i (lane w (s.core.getV (dOf x k)) (base o + i)) (BitVec.ofNat w (res i).1)) ∧
      (∀ i, i < base o ∨ base o + n ≤ i → i < 512 / w → lane w r i = lane w (s.core.getV (dOf x k)) i) ∧
      exec (ins o) s = .next (passesWith x k (fun c =>
        (withFlags fl { c with sgen := if mode = .sr then dr.2 else c.sgen }).setV (dOf x k) r) s)) ∧
    (fl &&& s.core.fenable.toNat ≠ 0 →
      exec (ins o) s = .next (takeTrap (started x k s) x.size { code := 14, tval := BitVec.ofNat 64 fl }))

/-- The selector in t: a quarter of bytes, or a codebook register and an eighth of nibbles (02 R46). -/
def quarter (o : VR) : Nat := 16 * (tNum o % 4)

/-- 08 R184, R185; 03 R65 to R69, R73: the conversions between FP32 and the narrower formats and INT32. -/
def ConversionsSpec : Prop :=
  let zero := fun (_ : VR) => 0
  let wide := fun (ins : VR → Instr) (fn : Nat) (f : FFmt) (from_ : VR → Nat) =>
    Converts ins (p4Ins fn false) 32 16 zero (fun o _ _ s c i => rne fp32 (val f (c.getV s) (from_ o + i)))
  let pair := fun (ins : VR → Instr) (fn : Nat) (f : FFmt) =>
    Converts ins (p4Ins fn false) 16 32 zero (fun o m r s c i =>
      f.round m false r (if i < 16 then val fp32 (c.getV s) i else val fp32 (c.getV (tNum o)) (i - 16)))
  let byte := fun (ins : VR → Instr) (fn : Nat) (f : FFmt) =>
    Converts ins (p4Ins fn true) 8 16 quarter (fun o m r s c i =>
      f.round m (bitOf (tNum o) 2) r (val fp32 (c.getV s) i))
  wide .vcvtF32Bf16Lo 0 bf16 (fun _ => 0) ∧ wide .vcvtF32Bf16Hi 1 bf16 (fun _ => 16) ∧ wide .vcvtF32F16Lo 2 fp16 (fun _ => 0) ∧
  wide .vcvtF32F16Hi 3 fp16 (fun _ => 16) ∧ pair .vcvtBf16F32 4 bf16 ∧ pair .vcvtF16F32 5 fp16 ∧ byte .vcvtE4m3F32 6 fE4m3 ∧
  byte .vcvtE5m2F32 7 fE5m2 ∧ wide .vcvtF32E4m3 8 fE4m3 quarter ∧ wide .vcvtF32E5m2 9 fE5m2 quarter ∧
  Converts .vcvtI32F32 (p4Ins 10 false) 32 16 zero (fun _ m r s c i =>
    let p := toInt m r (-2 ^ 31) (2 ^ 31 - 1) (val fp32 (c.getV s) i)
    ((BitVec.ofInt 32 p.1).toNat, p.2)) ∧
  Converts .vcvtF32I32 (p4Ins 11 false) 32 16 zero (fun _ m r s c i => fp32.round m false r (ofInt (lane 32 (c.getV s) i).toInt))

/-- A codebook conversion `ins` on a core whose task declares the array: `n`-bit elements from `base` on, with the draws of SR and
cause 14 as every conversion has them. -/
def CodebookOne (ins : VR → Instr) (fr : VR → Ins) (w : Nat) (base : VR → Nat) (g : VR → RMode → Nat → Nat → Core → Nat → Nat × Nat) : Prop :=
  ∀ (o : VR) (s : State) (k : Cont), let x := fr o
    let mode := maskMode o.mask
    let dr := draws s.cur (maskBits o.mask s.core) 16 0 s.core.sgen
    let res := fun i => g o mode (if mode = .sr then dr.1.getD i 0 else 0) (sOf x k) s.core i
    let fl := flagsOf o s.core 16 res
    Issues x s k → Free s → declArr s = true →
    (fl &&& s.core.fenable.toNat = 0 → ∃ r : VReg,
      (∀ i, i < 16 → lane w r (base o + i) = masked o s.core i (lane w (s.core.getV (dOf x k)) (base o + i)) (BitVec.ofNat w (res i).1)) ∧
      (∀ i, i < base o ∨ base o + 16 ≤ i → i < 512 / w → lane w r i = lane w (s.core.getV (dOf x k)) i) ∧
      exec (ins o) s = .next (passesWith x k (fun c =>
        (withFlags fl { c with sgen := if mode = .sr then dr.2 else c.sgen }).setV (dOf x k) r) s)) ∧
    (fl &&& s.core.fenable.toNat ≠ 0 →
      exec (ins o) s = .next (takeTrap (started x k s) x.size { code := 14, tval := BitVec.ofNat 64 fl }))

/-- 08 R176, R184; 03 R63, R73: the codebook conversions of a task that declares the array, with the generator of SR and cause 14;
cause 1 for one that does not, before any iteration of a repeat, so that `rep` is not recorded (the model's reading, log 26). -/
def CodebookConversionsSpec : Prop :=
  let book := fun (o : VR) (c : Core) => cbOf c.arr (tNum o / 8)
  let part := fun (o : VR) => 16 * (tNum o % 8)
  CodebookOne .vqcb (p4Ins 12 true) 4 part (fun o m r sf c i => quantCb (book o c) m r (val fp32 (c.getV sf) i)) ∧
  CodebookOne .vxcb (p4Ins 13 false) 32 (fun _ => 0) (fun o _ _ sf c i =>
    rne fp32 (cbEntry (book o c) (lane 4 (c.getV sf) (part o + i)).toNat)) ∧
  (∀ (o : VR) (s : State) (k : Cont), let x := p4Ins 12 true o
    Issues x s k → Free s → declArr s = false →
      exec (.vqcb o) s = .next (takeTrap s x.size { code := 1, tval := BitVec.ofNat 64 x.body1 })) ∧
  (∀ (o : VR) (s : State) (k : Cont), let x := p4Ins 13 false o
    Issues x s k → Free s → declArr s = false →
      exec (.vxcb o) s = .next (takeTrap s x.size { code := 1, tval := BitVec.ofNat 64 x.body1 }))

end Sys2Proof.Machine

/-- 08 R187, R188; 03 R67, R68: conversions between the vector formats. -/
def Obligations.VectorConversions : Prop := ConversionsSpec ∧ CodebookConversionsSpec

/-! Loads and stores (07 R153 to R159; 08 R187 to R191; 23 R369 to R373) -/

namespace Sys2Proof.Machine

/-- A pointer plus an offset, modulo 2^48 (04 R80, 07 R153). -/
def effective (p : Word) (off : Int) : Nat := (((p.toNat % 2 ^ 48 : Nat) + off) % (2 ^ 48 : Int)).toNat

/-- A pointer that passes the check of 04 R82 for an untyped access. -/
def plainPointer (p : Word) : Prop := fld p.toNat 53 48 = 0

/-- The effective address of a scalar access at iteration `k`. -/
def eaOf (x : Ins) (k : Cont) (n : Nat) (imm : Int) (s : State) : Nat := effective (s.core.getG (sOf x k)) ((imm + mOf k) * n)

/-- What a load with this order and scope does to L1 when it has read (07 R154). -/
def acquired (order scope : Nat) (c : Core) : Core := if order ≠ 0 ∧ 2 ≤ scope then { c with l1 := [] } else c

/-- What a store with this order and scope performs first, the writes of `xst` among it (07 R146, R154). -/
def released (order scope : Nat) (s : State) : State :=
  if order = 0 then s
  else if scope = 1 then drainSome (flushXsts s s.cur) s.cur (fun e => !e.cached)
  else drainCore (flushXsts s s.cur) s.cur

/-- A scalar load of this sign extension: its address, its checks in order, and its value (07 R153, R154). -/
def LoadsScalar (ins : MemOp → Instr) (sx : Bool) : Prop :=
  ∀ (o : MemOp) (s : State) (k : Cont), let x := memIns 0 (b2n sx) o
    let s0 := started x k s
    let p := s.core.getG (sOf x k)
    let n := 2 ^ o.size.toNat
    let ea := eaOf x k n (o.imm.sval 5) s
    Issues x s k →
    (¬ plainPointer p → exec (ins o) s = .next (takeTrap s0 x.size { code := 7, tval := p })) ∧
    (plainPointer p → ea % n ≠ 0 → exec (ins o) s = .next (takeTrap s0 x.size { code := 4, tval := BitVec.ofNat 64 ea })) ∧
    (∀ t, plainPointer p → ea % n = 0 → access s0 ea 1 = .error t → t.code ≠ 5 → exec (ins o) s = .next (takeTrap s0 x.size t)) ∧
    (∀ l s1, plainPointer p → ea % n = 0 → access s0 ea 1 = .ok (l, s1) → l.place ≠ .remote → o.order = 2 →
      storesOut s s.cur none = true → exec (ins o) s = .next { s1 with core := { s1.core with wait := .issue } }) ∧
    (∀ l s1 s2, plainPointer p → ea % n = 0 → access s0 ea 1 = .ok (l, s1) → l.place ≠ .remote →
      (o.order = 2 → storesOut s s.cur none = false) → bankTurn ea l s1 = .ok (false, s2) → exec (ins o) s = .next s2) ∧
    (∀ l s1 t1 b s2, plainPointer p → ea % n = 0 → access s0 ea 1 = .ok (l, s1) → l.place ≠ .remote →
      (o.order = 2 → storesOut s s.cur none = false) → bankTurn ea l s1 = .ok (true, t1) → loadLoc l n o.order.toNat (memScope o.scope) t1 = .ok (b, s2) →
      exec (ins o) s = .next (onward x k { s2 with core := ((acquired o.order.toNat (memScope o.scope) s2.core).setG (dOf x k)
        (if sx then BitVec.ofInt 64 (sextI (ofLe b) (8 * n)) else BitVec.ofNat 64 (ofLe b))) }))

/-- 07 R153, R154: `ld` zero-extends and `lds` sign-extends; a bad pointer raises cause 7, a misaligned address cause 4, and
then the causes of the translation, in that order; an access to a gang-shared tile waits for its turn at the bank (19 R338), and a
seq-cst load waits for the acknowledgements of the core's remote stores (07 R154). -/
def ScalarLoadsSpec : Prop := LoadsScalar .ld false ∧ LoadsScalar .lds true

/-- 07 R153, R154: `st` writes the low bytes of g(d) at its address, after what a release performs and the dirty log
records; a release first waits for the acknowledgements of the core's remote stores, and a full dirty log raises cause 23. -/
def ScalarStoresSpec : Prop :=
  ∀ (o : MemOp) (s : State) (k : Cont), let x := memIns 1 0 o
    let s0 := started x k s
    let p := s.core.getG (sOf x k)
    let n := 2 ^ o.size.toNat
    let ea := eaOf x k n (o.imm.sval 5) s
    Issues x s k →
    (¬ plainPointer p → exec (.st o) s = .next (takeTrap s0 x.size { code := 7, tval := p })) ∧
    (plainPointer p → ea % n ≠ 0 → exec (.st o) s = .next (takeTrap s0 x.size { code := 4, tval := BitVec.ofNat 64 ea })) ∧
    (∀ t, plainPointer p → ea % n = 0 → access s0 ea 2 = .error t → t.code ≠ 5 → exec (.st o) s = .next (takeTrap s0 x.size t)) ∧
    (∀ l s1 t1, plainPointer p → ea % n = 0 → access s0 ea 2 = .ok (l, s1) → o.order ≠ 0 →
      storesOut s1 s1.cur none = true → t1 = { s1 with core := { s1.core with wait := .issue } } → exec (.st o) s = .next t1) ∧
    (∀ l s1 t1, plainPointer p → ea % n = 0 → access s0 ea 2 = .ok (l, s1) → l.place ≠ .remote →
      (o.order ≠ 0 → storesOut s1 s1.cur none = false) → bankTurn ea l s1 = .ok (false, t1) → exec (.st o) s = .next t1) ∧
    (∀ l s1 t1, plainPointer p → ea % n = 0 → access s0 ea 2 = .ok (l, s1) → l.place ≠ .remote →
      (o.order ≠ 0 → storesOut s1 s1.cur none = false) → bankTurn ea l s1 = .ok (true, t1) →
      dirtyLog t1 s.core.ctx.toNat (s.cur / 8) l = none →
      exec (.st o) s = .next (takeTrap s0 x.size { code := 23, tval := BitVec.ofNat 64 l.gpa, toH := true })) ∧
    (∀ l s1 t1 s2 s3, plainPointer p → ea % n = 0 → access s0 ea 2 = .ok (l, s1) → l.place ≠ .remote →
      (o.order ≠ 0 → storesOut s1 s1.cur none = false) → bankTurn ea l s1 = .ok (true, t1) →
      dirtyLog t1 s.core.ctx.toNat (s.cur / 8) l = some s2 →
      storeLoc l (leBytes n (s.core.getG (dOf x k)).toNat) o.order.toNat (memScope o.scope)
        (released o.order.toNat (memScope o.scope) s2) = .ok ((), s3) →
      exec (.st o) s = .next (onward x k s3))

end Sys2Proof.Machine

/-- 07 R152 to R155: scalar loads and stores: address, pointer and alignment checks, the bytes read and written, ordering. -/
def Obligations.ScalarMemory : Prop := ScalarLoadsSpec ∧ ScalarStoresSpec

namespace Sys2Proof.Machine

/-- Where a window access goes (04 R84): scratchpad, core store or live exchange bank of the core; no access leaves it. -/
def WindowPlacesSpec : Prop :=
  ∀ (s : State) (va acc : Nat), va < 2 ^ 48 →
    let o := ownerOf s (s.cur / 8) ((va - 0xFFFFFFC00000) / 4096)
    (0xFFFFFFC00000 ≤ va → va < 0xFFFFFFFC0000 → ownerOk s s.cur o = true →
      ∃ l, access s va acc = .ok (l, s) ∧ l.at_ = 2 ^ 42 + (s.cur / 8) * 2 ^ 22 + (va - 0xFFFFFFC00000) ∧ l.place = .pad) ∧
    (0xFFFFFFC00000 ≤ va → va < 0xFFFFFFFC0000 → ownerOk s s.cur o = false →
      access s va acc = .error { code := 8, tval := BitVec.ofNat 64 va }) ∧
    (0xFFFFFFFC0000 ≤ va → va < 0xFFFFFFFF8000 →
      ∃ l, access s va acc = .ok (l, s) ∧ l.at_ = 2 ^ 40 + s.cur * 2 ^ 18 + (va - 0xFFFFFFFC0000) ∧ l.place = .store) ∧
    (0xFFFFFFFF8000 ≤ va →
      ∃ l, access s va acc = .ok (l, s) ∧ l.place = .store ∧
        l.at_ = 2 ^ 41 + (s.cur * 2 + (if s.core.live then 1 else 0)) * 2 ^ 15 + (va - 0xFFFFFFFF8000))

/-- No line of the bytes holds an uncorrectable error (25 R399). -/
def Clean (s : State) (a n : Nat) : Prop := ∀ e ∈ s.ecc, ¬ (a / 128 ≤ e ∧ e ≤ (a + n - 1) / 128)

/-- A place whose bytes are read and written at once, inside one line: one in a window. -/
def AtOnce (l : Loc) (n : Nat) : Prop :=
  (l.place = .pad ∨ l.place = .store) ∧ l.cached = false ∧ l.hits = false ∧ isHbm l.at_ = false ∧ 0 < n ∧ l.at_ / 128 = (l.at_ + n - 1) / 128

/-- 07 R153, 04 R84: a store to a window writes exactly the bytes at its address, every other
byte of memory reads as before, and a load of the same place gives the bytes stored. -/
def StoresAtOnceSpec : Prop :=
  ∀ (l : Loc) (bs : List Byte) (s : State), s.Inv → AtOnce l bs.length → s.core.wbuf.any (WbEnt.meets l.at_ bs.length) = false →
    ∃ s1, storeLoc l bs 0 1 s = .ok ((), s1) ∧
      (∀ i, i < bs.length → memGet s1.mem (l.at_ + i) = bs.getD i 0) ∧
      (∀ a, ¬ (l.at_ ≤ a ∧ a < l.at_ + bs.length) → memGet s1.mem a = memGet s.mem a) ∧
      s1.core.g = s.core.g ∧ s1.core.v = s.core.v ∧ s1.core.k = s.core.k ∧ s1.core.pc = s.core.pc ∧
      (Clean s l.at_ bs.length → loadLoc l bs.length 0 1 s1 = .ok (bs, s1))

/-- 05 R100, 23 R369, R373: a plain store to a page of device memory, or to one pinned in a core store, enters the write
buffer, where memory stays as it is while the buffer has room; where no gate is locked on its way and its key stays, the
core's own loads of those bytes give the bytes stored. -/
def StoresBufferedSpec : Prop :=
  ∀ (l : Loc) (bs : List Byte) (s : State), s.Inv → (l.place = .hbm ∨ l.place = .pinned ∧ isHbm l.at_ = false) → s.core.wbuf.length < 16 →
    let e : WbEnt := ⟨l.at_, bs, if l.place = .hbm then some l.slot else none, s.core.pc.toNat, l.cached, l.sync⟩
    ∃ s1, storeLoc l bs 0 1 s = .ok ((), s1) ∧ s1.mem = s.mem ∧
      s1.core.wbuf = s.core.wbuf ++ [e] ∧
      s1.core.g = s.core.g ∧ s1.core.v = s.core.v ∧ s1.core.pc = s.core.pc ∧
      (Clean s l.at_ bs.length → 0 < bs.length → l.at_ / 128 = (l.at_ + bs.length - 1) / 128 → e.passes s s.cur = true →
        (l.place = .hbm → keyVal s l.slot = some l.kv) → ∃ s2, loadLoc l bs.length 0 1 s1 = .ok (bs, s2))

end Sys2Proof.Machine

/-! Full/empty accesses -/

namespace Sys2Proof.Machine

/-- 07 R156: what an access does at its home, by mode: the value, the bit after it, and memory. -/
def FullEmptyModesSpec : Prop :=
  ∀ (s : State) (kv pa : Nat) (data : Word),
    let word := BitVec.ofNat 64 (ofLe (homeRead s kv pa 8))
    let put := homeWrite s none kv pa (leBytes 8 data.toNat)
    feApply s kv pa 1 data = (word, s) ∧
    feApply s kv pa 2 data = (word, setFull s pa false) ∧
    feApply s kv pa 3 data = (0, setFull put pa true) ∧ feApply s kv pa 4 data = (0, setFull put pa true) ∧
    feApply s kv pa 5 data = (word, setFull s pa false) ∧
    feApply s kv pa 6 data = (if feFull s pa then 1 else 0, s) ∧
    (∀ b, feFull (setFull s pa b) pa = b) ∧ (∀ b a, a / 8 ≠ pa / 8 → feFull (setFull s pa b) a = feFull s a)

/-- A full/empty access: the causes before it, its effect where its condition holds, and its wait in the home's retry list
where it does not. -/
def FullEmpty (ins : FeOp → Instr) (st mode : Nat) (ready : Bool → Bool) : Prop :=
  ∀ (o : FeOp) (s : State) (k : Cont), let x := feIns st mode o
    let s0 := started x k s
    let p := s.core.getG (sOf x k)
    let ea := eaOf x k 8 (o.imm.sval 5) s
    let data := s.core.getG (dOf x k)
    Issues x s k → plainPointer p →
    (ea % 8 ≠ 0 → exec (ins o) s = .next (takeTrap s0 x.size { code := 4, tval := BitVec.ofNat 64 ea })) ∧
    (ea % 8 = 0 → 0xFFFFFFC00000 ≤ ea → exec (ins o) s = .next (takeTrap s0 x.size { code := 19, tval := BitVec.ofNat 64 ea })) ∧
    (∀ l s1, ea % 8 = 0 → ea < 0xFFFFFFC00000 → translate (me s0) ea (if st = 1 then 2 else 1) s0 = .ok (l, s1) → l.place = .pinned →
      exec (ins o) s = .next (takeTrap s0 x.size { code := 19, tval := BitVec.ofNat 64 ea })) ∧
    (∀ l s1, ea % 8 = 0 → ea < 0xFFFFFFC00000 → translate (me s0) ea (if st = 1 then 2 else 1) s0 = .ok (l, s1) → l.place = .hbm →
      (storesOut s s.cur none || syeStalled s l) = true →
      exec (ins o) s = .next { s1 with core := { s1.core with wait := .issue } }) ∧
    (∀ l s1, ea % 8 = 0 → ea < 0xFFFFFFC00000 → translate (me s0) ea (if st = 1 then 2 else 1) s0 = .ok (l, s1) → l.place = .hbm →
      (storesOut s s.cur none || syeStalled s l) = false → st = 1 → dirtyLog s1 s.core.ctx.toNat (s.cur / 8) l = none →
      exec (ins o) s = .next (takeTrap s0 x.size { code := 23, tval := BitVec.ofNat 64 l.gpa, toH := true })) ∧
    (∀ l s1 s2, ea % 8 = 0 → ea < 0xFFFFFFC00000 → translate (me s0) ea (if st = 1 then 2 else 1) s0 = .ok (l, s1) → l.place = .hbm →
      (storesOut s s.cur none || syeStalled s l) = false →
      (if st = 1 then dirtyLog s1 s.core.ctx.toNat (s.cur / 8) l else some s1) = some s2 →
      let s3 := drainCore (flushXsts s2 s2.cur) s2.cur
      (ready (feFull s3 l.at_) = true → ∀ r t s4, eccPost (feLoads mode && eccHit s3 l.at_ 8) s3 = .ok ((), t) →
        feHome t (some t.cur) l.kv l.at_ mode data = (r, s4) → s4.core.wins = [] → s4.core.cont = s0.core.cont →
        exec (ins o) s = .next (onward x k { s4 with core := acquired 1 3 (if st = 1 then s4.core else s4.core.setG (dOf x k) r) })) ∧
      (ready (feFull s3 l.at_) = false →
        exec (ins o) s = .next { s3 with
          feq := s3.feq ++ [⟨l.at_, mode, data, l.kv, l.logAt (me s0), some s3.cur, none, false⟩]
          core := { s3.core with wait := .fe (if st = 1 then none else some (dOf x k)) x.size } }))

/-- 07 R155 to R157; 24 R385: the six full/empty accesses. Each is a release of device scope, for which the core's remote stores are
acknowledged and its stores and exchange stores performed first, and waits at issue while the synchronisation engine of its address
stalls. That `take` and `se` ask read permission alone, and `put` and `sf` mark the page at issue, is the model's choice (log 55). -/
def FullEmptyAccessesSpec : Prop :=
  FullEmpty .ldWf 0 1 (fun full => full) ∧ FullEmpty .ldTake 0 2 (fun full => full) ∧ FullEmpty .stPut 1 3 (fun full => !full) ∧
  FullEmpty .stSf 1 4 (fun _ => true) ∧ FullEmpty .ldSe 0 5 (fun _ => true) ∧ FullEmpty .ldFes 0 6 (fun _ => true)

/-- 07 R159: a home that has not satisfied the access withdraws it: the bit and memory stay, the core waits no more and its
pc still names the instruction. Without an error in the overflow record of the wait, and outside a trace stall. -/
def FullEmptyWithdrawalSpec : Prop :=
  ∀ (s : State) (v d size : Nat), v = s.cur → stalledSrc s v = false → s.core.wait = .fe (some d) size ∨ s.core.wait = .fe none size →
    (s.feq.any (fun w => w.core == some v) = true → (∀ w ∈ s.feq, w.core = some v → overflowLine w.pa ∉ s.ecc) →
      exec (.feWithdraw v) s = .next { s with feq := s.feq.filter (fun w => w.core != some v), core := { s.core with wait := .none } }) ∧
    (s.feq.any (fun w => w.core == some v) = false → exec (.feWithdraw v) s = .next s)

end Sys2Proof.Machine

/-- 07 R156 to R159: full/empty accesses: modes, waiting, withdrawal. -/
def Obligations.FullEmptyWords : Prop := FullEmptyModesSpec ∧ FullEmptyAccessesSpec ∧ FullEmptyWithdrawalSpec

/-! Vector loads and stores -/

namespace Sys2Proof.Machine

/-- The lane that an element of FMT `f` gives, and the element and flags that a lane gives (08 R188); FMT 0 stands for the
untyped accesses. -/
def IsLane (f : Nat) (x : Nat) (r : BitVec 32) : Prop :=
  (f = 8 → r = BitVec.ofNat 32 (rne fp32 (fp32.dec x)).1) ∧ (f = 9 → r = BitVec.ofNat 32 (rne fp32 (fp16.dec x)).1) ∧
  (f = 10 → r = BitVec.ofNat 32 (rne fp32 (bf16.dec x)).1) ∧ (f = 11 → r = BitVec.ofNat 32 (rne fp32 (fE4m3.dec x)).1) ∧
  (f = 12 → r = BitVec.ofNat 32 (rne fp32 (fE5m2.dec x)).1) ∧ (f = 1 → r = (BitVec.ofNat 8 x).signExtend 32) ∧
  (f = 3 → r = (BitVec.ofNat 16 x).signExtend 32) ∧ ((f = 0 ∨ f = 2 ∨ f = 4) → r = BitVec.ofNat 32 x)

/-- The active elements of a vector access, as lane and address (08 R187). -/
def elemsAt (op : Nat) (o : VMem) (k : Cont) (x : Ins) (s : State) : List (Nat × Nat) :=
  let p := s.core.getG (sOf x k)
  let t := (o.t.map (fun x => x.toNat)).getD 0
  let imm := o.imm.sval 9
  ((List.range 16).filter (isActive o.mask s.core)).map (fun i => (i, effective p (
    if op / 2 = 0 then 64 * (imm + mOf k) + 4 * i
    else if op / 2 = 1 then 4 * imm + i * (s.core.getG t).toInt
    else if op / 2 = 2 then 4 * imm + (lane 32 (s.core.getV t) i).toNat
    else (16 * (imm + mOf k) + i) * fmtSize (ptrFmt p))))

/-- The FMT of a vector access: that of the pointer for a typed one. -/
def fmtAt (op : Nat) (x : Ins) (k : Cont) (s : State) : Nat := if 6 ≤ op then ptrFmt (s.core.getG (sOf x k)) else 0

/-- The pointer of a vector access passes its checks (04 R82, 08 R188). -/
def vecPointer (op : Nat) (x : Ins) (k : Cont) (s : State) : Prop :=
  ptrOk (decide (6 ≤ op)) (s.core.getG (sOf x k)) = true ∧ (6 ≤ op → vfmtOk (fmtAt op x k s) = true)

/-- A vector load: every active element is checked, then all are read; the lanes are written under the mask. -/
def LoadsVector (ins : VMem → Instr) (op : Nat) : Prop :=
  ∀ (o : VMem) (s : State) (k : Cont), let x := vmemIns op o
    let s0 := started x k s
    let fmt := fmtAt op x k s
    Issues x s k → Free s →
    (¬ vecPointer op x k s → exec (ins o) s = .next (takeTrap s0 x.size { code := 7, tval := s.core.getG (sOf x k) })) ∧
    (∀ t, vecPointer op x k s → checkElems 1 (elemSize fmt) (elemsAt op o k x s) s0 = .error t → t.code ≠ 5 →
      exec (ins o) s = .next (takeTrap s0 x.size t)) ∧
    (∀ es s1, vecPointer op x k s → checkElems 1 (elemSize fmt) (elemsAt op o k x s) s0 = .ok (es, s1) →
      (∀ e ∈ es, e.loc.place ≠ .remote) → o.order = 2 → storesOut s1 s1.cur none = true →
      exec (ins o) s = .next { s1 with core := { s1.core with wait := .issue } }) ∧
    (∀ es s1 t1, vecPointer op x k s → checkElems 1 (elemSize fmt) (elemsAt op o k x s) s0 = .ok (es, s1) →
      (∀ e ∈ es, e.loc.place ≠ .remote) → (o.order = 2 → storesOut s1 s1.cur none = false) → elemTurns es s1 = .ok (false, t1) →
      exec (ins o) s = .next t1) ∧
    (∀ es s1 t1 near s2 s3, vecPointer op x k s → checkElems 1 (elemSize fmt) (elemsAt op o k x s) s0 = .ok (es, s1) →
      (∀ e ∈ es, e.loc.place ≠ .remote) → (o.order = 2 → storesOut s1 s1.cur none = false) → elemTurns es s1 = .ok (true, t1) →
      readElems (elemSize fmt) o.order.toNat (memScope o.scope) es t1 = .ok (near, s2) →
      eccPost (!near.2.isEmpty) s2 = .ok ((), s3) →
      ∃ r : VReg, (∀ i, i < 16 → lane 32 r i = masked ⟨none, o.mask, 0, 0, none⟩ s.core i (lane 32 (s.core.getV (dOf x k)) i)
          (BitVec.ofNat 32 (((near.1.find? (fun p => p.1 == i)).map (fun p => laneOfElem fmt (ofLe p.2))).getD 0))) ∧
        exec (ins o) s = .next (onward x k { s3 with core := (acquired o.order.toNat (memScope o.scope)
          (s3.core.setV (dOf x k) r)) })) ∧
    (∀ e r got s1 s2 s3 b bad, readLoc e.loc (elemSize fmt) o.order.toNat (memScope o.scope) s1 = .ok ((b, bad), s2) →
      readElems (elemSize fmt) o.order.toNat (memScope o.scope) r s2 = .ok (got, s3) →
      readElems (elemSize fmt) o.order.toNat (memScope o.scope) (e :: r) s1 =
        .ok (((e.lane, b) :: got.1, if bad then e.lane :: got.2 else got.2), s3)) ∧
    (∀ y, vfmtOk fmt = true ∨ fmt = 0 → y < 2 ^ (8 * elemSize fmt) → IsLane fmt y (BitVec.ofNat 32 (laneOfElem fmt y)))

/-- 08 R187 to R190; 07 R154; 19 R338: `vld`, `vlds`, `vgath`, `vldf`. Elements of a gang-shared tile wait for their turn at the banks,
those in one bank as one access (the model's choice, log 103). -/
def VectorLoadsSpec : Prop := LoadsVector .vld 0 ∧ LoadsVector .vlds 2 ∧ LoadsVector .vgath 4 ∧ LoadsVector .vldf 6

/-- A vector store: every active element is checked, then the flags of all of them, then the elements are stored in ascending
order. -/
def StoresVector (ins : VMem → Instr) (op : Nat) : Prop :=
  ∀ (o : VMem) (s : State) (k : Cont), let x := vmemIns op o
    let s0 := started x k s
    let fmt := fmtAt op x k s
    let out := fun i => elemOfLane fmt (lane 32 (s.core.getV (dOf x k)) i).toNat
    let fl := (List.range 16).foldl (fun f i => if isActive o.mask s.core i then f ||| (out i).2 else f) 0
    Issues x s k → Free s →
    (¬ vecPointer op x k s → exec (ins o) s = .next (takeTrap s0 x.size { code := 7, tval := s.core.getG (sOf x k) })) ∧
    (∀ t, vecPointer op x k s → checkElems 2 (elemSize fmt) (elemsAt op o k x s) s0 = .error t → t.code ≠ 5 →
      exec (ins o) s = .next (takeTrap s0 x.size t)) ∧
    (∀ es s1, vecPointer op x k s → checkElems 2 (elemSize fmt) (elemsAt op o k x s) s0 = .ok (es, s1) →
      (∀ e ∈ es, e.loc.place ≠ .remote) → o.order ≠ 0 → storesOut s1 s1.cur none = true →
      exec (ins o) s = .next { s1 with core := { s1.core with wait := .issue } }) ∧
    (∀ es s1 t1, vecPointer op x k s → checkElems 2 (elemSize fmt) (elemsAt op o k x s) s0 = .ok (es, s1) →
      (∀ e ∈ es, e.loc.place ≠ .remote) → (o.order ≠ 0 → storesOut s1 s1.cur none = false) → elemTurns es s1 = .ok (false, t1) →
      exec (ins o) s = .next t1) ∧
    (∀ es s1 t1 s2 s3, vecPointer op x k s → checkElems 2 (elemSize fmt) (elemsAt op o k x s) s0 = .ok (es, s1) →
      (∀ e ∈ es, e.loc.place ≠ .remote ∧ e.lane < 16 ∧ isActive o.mask s.core e.lane = true) →
      (o.order ≠ 0 → storesOut s1 s1.cur none = false) → elemTurns es s1 = .ok (true, t1) →
      (fl &&& s.core.fenable.toNat ≠ 0 → exec (ins o) s = .next (takeTrap s0 x.size { code := 14, tval := BitVec.ofNat 64 fl })) ∧
      (fl &&& s.core.fenable.toNat = 0 → logElems es { t1 with core := withFlags fl t1.core } = .ok ((), s2) →
      writeElems o.order.toNat (memScope o.scope) (fun i => leBytes (elemSize fmt) (out i).1) es
        (released o.order.toNat (memScope o.scope) s2) = .ok ((), s3) →
      exec (ins o) s = .next (onward x k s3)))

/-- 08 R187 to R190; 07 R154; 19 R338: `vst`, `vsts`, `vscat`, `vstf`, with the same turns at the banks (log 103). -/
def VectorStoresSpec : Prop := StoresVector .vst 1 ∧ StoresVector .vsts 3 ∧ StoresVector .vscat 5 ∧ StoresVector .vstf 7

end Sys2Proof.Machine

/-- 08 R189 to R192: vector loads and stores of every form. -/
def Obligations.VectorMemory : Prop := VectorLoadsSpec ∧ VectorStoresSpec

/-! Atomics, barriers, exchange and maintenance (19 R331 to R345; 07 R160 to R170) -/

namespace Sys2Proof.Machine

/-- The word of width `w` at the low end of a register. -/
def lowBits (w : Nat) (a : Word) : Nat := a.toNat % 2 ^ w

/-- An atomic: its checks in the order of 19 R333, the acknowledgements of remote stores that a release waits for, its turn at the
bank (19 R338), the dirty log, then the old memory, of which nothing is known where it is in error (25 R399), the new memory and the
result, where `f` is given the width in bits, the old memory, v and t. -/
def Atomically (ins : Atom → Instr) (op : Nat) (f : Nat → Nat → Nat → Nat → Nat × Word) : Prop :=
  ∀ (o : Atom) (s : State) (k : Cont), let x := atomIns op o
    let s0 := started x k s
    let p := s.core.getG (sOf x k)
    let ea := effective p 0
    let n := if op = 13 ∨ op = 14 then 64 else if o.dbl then 8 else 4
    let sc := memScope o.scope
    Issues x s k →
    (¬ plainPointer p → exec (ins o) s = .next (takeTrap s0 x.size { code := 7, tval := p })) ∧
    (plainPointer p → ea % n ≠ 0 → exec (ins o) s = .next (takeTrap s0 x.size { code := 4, tval := BitVec.ofNat 64 ea })) ∧
    (∀ l s1, plainPointer p → ea % n = 0 → translate (me s0) ea (if op = 14 then 1 else 3) s0 = .ok (l, s1) →
      (l.place = .hbm ∨ l.place = .remote) → l.sync = false →
      exec (ins o) s = .next (takeTrap s0 x.size { code := 19, tval := BitVec.ofNat 64 ea })) ∧
    (∀ l s1, plainPointer p → ea % n = 0 → translate (me s0) ea (if op = 14 then 1 else 3) s0 = .ok (l, s1) →
      atomPlace (me s0) ea l s1 = .ok ((), s1) → o.order.getLsbD 1 = true → storesOut s1 s1.cur none = true →
      exec (ins o) s = .next { s1 with core := { s1.core with wait := .issue } }) ∧
    (∀ l s1 t1, plainPointer p → ea % n = 0 → translate (me s0) ea (if op = 14 then 1 else 3) s0 = .ok (l, s1) →
      atomPlace (me s0) ea l s1 = .ok ((), s1) → l.place ≠ .remote →
      (o.order.getLsbD 1 = true → storesOut s1 s1.cur none = false) → bankTurn ea l s1 = .ok (false, t1) →
      exec (ins o) s = .next t1) ∧
    (∀ l s1 t1, plainPointer p → ea % n = 0 → translate (me s0) ea (if op = 14 then 1 else 3) s0 = .ok (l, s1) →
      atomPlace (me s0) ea l s1 = .ok ((), s1) → l.place ≠ .remote → op ≠ 14 →
      (o.order.getLsbD 1 = true → storesOut s1 s1.cur none = false) → bankTurn ea l s1 = .ok (true, t1) →
      dirtyLog t1 s.core.ctx.toNat (s.cur / 8) l = none →
      exec (ins o) s = .next (takeTrap s0 x.size { code := 23, tval := BitVec.ofNat 64 l.gpa, toH := true })) ∧
    (∀ l s1 t1 s2 t3, plainPointer p → ea % n = 0 → translate (me s0) ea (if op = 14 then 1 else 3) s0 = .ok (l, s1) →
      atomPlace (me s0) ea l s1 = .ok ((), s1) → l.place ≠ .remote →
      (o.order.getLsbD 1 = true → storesOut s1 s1.cur none = false) → bankTurn ea l s1 = .ok (true, t1) →
      (if op = 14 then some t1 else dirtyLog t1 s.core.ctx.toNat (s.cur / 8) l) = some s2 →
      let s3 := drainAt (released (if o.order.getLsbD 1 then 1 else 0) sc s2) s.cur l.at_ n
      meetEcc l.kv l.at_ n (if op = 14 then s3 else noteOwn s3 s.cur l.kv l.at_ n) = .ok ((), t3) →
      let r := f (8 * n) (ofLe (homeRead t3 l.kv l.at_ n)) (s.core.getG o.v.toNat).toNat (s.core.getG ((o.t.map (fun t => t.toNat)).getD 0)).toNat
      let s4 := if op = 14 then t3 else homeWrite t3 none l.kv l.at_ (leBytes n r.1)
      exec (ins o) s = .next (onward x k { s4 with core :=
        (acquired (if o.order.getLsbD 0 then 1 else 0) sc (s4.core.setG (dOf x k) r.2)) }))

/-- An integer atomic that returns the old word zero-extended. -/
def AtomicWord (ins : Atom → Instr) (op : Nat) (f : (w : Nat) → BitVec w → BitVec w → BitVec w → BitVec w) : Prop :=
  Atomically ins op (fun w old v t =>
    ((f w (BitVec.ofNat w old) (BitVec.ofNat w v) (BitVec.ofNat w t)).toNat, BitVec.ofNat 64 old))

/-- An FP32 atomic (19 R334). -/
def AtomicFloat (ins : Atom → Instr) (op : Nat) (f : FVal → FVal → FVal) : Prop :=
  Atomically ins op (fun w old v _ => ((rne fp32 (f (fp32.dec old) (fp32.dec (v % 2 ^ w)))).1, BitVec.ofNat 64 old))

/-- 19 R331 to R336: the integer atomics. -/
def AtomicIntegersSpec : Prop :=
  AtomicWord .aadd 0 (fun _ a b _ => a + b) ∧ AtomicWord .aand 1 (fun _ a b _ => a &&& b) ∧
  AtomicWord .aor 2 (fun _ a b _ => a ||| b) ∧ AtomicWord .axor 3 (fun _ a b _ => a ^^^ b) ∧
  Atomically .amin 4 (fun w old v _ => ((BitVec.ofInt w (min (BitVec.ofNat w old).toInt (BitVec.ofNat w v).toInt)).toNat,
    BitVec.ofInt 64 (BitVec.ofNat w old).toInt)) ∧
  Atomically .amax 5 (fun w old v _ => ((BitVec.ofInt w (max (BitVec.ofNat w old).toInt (BitVec.ofNat w v).toInt)).toNat,
    BitVec.ofInt 64 (BitVec.ofNat w old).toInt)) ∧
  AtomicWord .aminu 6 (fun w a b _ => BitVec.ofNat w (min a.toNat b.toNat)) ∧
  AtomicWord .amaxu 7 (fun w a b _ => BitVec.ofNat w (max a.toNat b.toNat)) ∧
  AtomicWord .aswap 8 (fun _ _ b _ => b) ∧ AtomicWord .acas 9 (fun _ a b c => if a = c then b else a) ∧
  AtomicWord .aincw 15 (fun _ a _ c => if c.toNat ≤ a.toNat + 1 then 0 else a + 1)

/-- 19 R334, R340: the FP32 atomics and the exact-sum cell's, which touch no flag. -/
def AtomicFloatsSpec : Prop :=
  AtomicFloat .afadd 10 (fun a b => (fadd a b).1) ∧ AtomicFloat .afmin 11 fmin ∧ AtomicFloat .afmax 12 fmax ∧
  Atomically .axsum 13 (fun _ old v _ => (axsumCell old (v % 2 ^ 32), BitVec.ofNat 64 (fld old 323 320))) ∧
  Atomically .axread 14 (fun _ old _ _ => (old, BitVec.ofNat 64 (axreadCell old)))

end Sys2Proof.Machine

/-- 19 R331 to R335: atomics on sync pages. -/
def Obligations.Atomics : Prop := AtomicIntegersSpec ∧ AtomicFloatsSpec

namespace Sys2Proof.Machine

/-- The exact sum that a cell holds, in units of 2^-149, and its sticky bits (19 R339). -/
def cellSum (c : Nat) : Int := (BitVec.ofNat 320 c).toInt
def cellBits (c : Nat) : Nat := fld c 323 320

end Sys2Proof.Machine

/-- 19 R338, R340: as long as no sum leaves the range, adding two values to a cell gives the same cell in either order, and a
finite value adds exactly itself. -/
def Obligations.ExactSums : Prop :=
  ∀ (c a b : Nat), (cellSum c).natAbs ≤ 2 ^ 318 → a < 2 ^ 32 → b < 2 ^ 32 →
    axsumCell (axsumCell c a) b = axsumCell (axsumCell c b) a ∧
    ((fp32.dec a).Finite → ((cellSum (axsumCell c a) : Int) : Rat) = cellSum c + (fp32.dec a).rat * 2 ^ 149 ∧
      cellBits (axsumCell c a) = cellBits c)

/-! Gang barrier and exchange -/

namespace Sys2Proof.Machine

/-- 07 R160: the combine of a gang or device barrier. -/
def combined (sub : Nat) (l : List Word) (r : Word) : Prop :=
  (sub = 0 → ∀ i, i < 64 → r.getLsbD i = l.all (fun x => x.getLsbD i)) ∧
  (sub = 1 → ∀ i, i < 64 → r.getLsbD i = l.any (fun x => x.getLsbD i)) ∧
  (sub = 2 → r = l.sum) ∧
  (sub = 3 → r = BitVec.ofNat 64 (l.filter (fun x => x != 0)).length) ∧
  (sub = 4 → r.toInt = (l.map BitVec.toInt).foldr min (2 ^ 63 - 1)) ∧
  (sub = 5 → r.toInt = (l.map BitVec.toInt).foldr max (-2 ^ 63)) ∧
  (sub = 6 → r = 0)

/-- Core `s.cur` is a gang of one: the one live member of its gang, or, holding no task, by itself (the model's choice, log 58). -/
def OneMember (s : State) : Prop :=
  s.core.task = none ∨ ∃ g m, gangOfCore s s.cur = some g ∧ g.members = [m] ∧ m.ended = false ∧ m.core = some s.cur

/-- `gbar` of one combine: a member of a larger gang arrives once, when its earlier accesses are performed at cluster scope, and
waits; a gang of one completes at once (07 R161, R162). -/
def GangBarrier (ins : SysOp → Instr) (sub : Nat) : Prop :=
  ∀ (o : SysOp) (s : State) (k : Cont), let x := gbarIns sub o
    let s0 := started x k s
    let s1 := drainSome (flushXsts s0 s.cur) s.cur (fun e => !e.cached)
    Issues x s k →
    (s.core.bar.arrived = false → storesOut s s.cur none = true →
      exec (ins o) s = .next { s0 with core := { s0.core with wait := .issue } }) ∧
    (aloneInGang s s.cur = false →
      (s.core.bar.arrived = false → storesOut s s.cur none = false →
        exec (ins o) s = .next { s1 with core := { s1.core with
          wait := .gbar o.d.toNat x.size
          bar := { s1.core.bar with arrived := true, sub := sub, payload := s.core.getG o.s.toNat, pc := s.core.pc } } }) ∧
      (s.core.bar.arrived = true →
        exec (ins o) s = .next { s0 with core := { s0.core with wait := .gbar o.d.toNat x.size } })) ∧
    (OneMember s → s.core.cont = none → s.core.opening = none → s.core.bar.arrived = false → storesOut s s.cur none = false →
      ∃ r, combined sub [s.core.getG o.s.toNat] r ∧
        exec (ins o) s = .next { s1 with core := ({ s1.core with
          wait := .none, live := !s.core.live, pc := s.core.pc + BitVec.ofNat 48 x.size
          bar := { s.core.bar with arrived := false, sub := sub, payload := s.core.getG o.s.toNat, pc := s.core.pc
                                   epoch := s.core.bar.epoch + 1 } }.setG o.d.toNat r) })

/-- 07 R160 to R162, R146: the gang barrier instructions. That a core without a task is a gang of one is the model's choice (log 58). -/
def GangBarriersSpec : Prop :=
  GangBarrier .gbarAnd 0 ∧ GangBarrier .gbarOr 1 ∧ GangBarrier .gbarAdd 2 ∧ GangBarrier .gbarPopc 3 ∧ GangBarrier .gbarMin 4 ∧
  GangBarrier .gbarMax 5 ∧ GangBarrier .gbarNone 6

/-- 07 R161: when every live member of a gang has arrived and waits, each at one moment swaps its banks, leaves the barrier
with its own combine over all payloads and the identities of the ended members, and goes on; until then nothing happens. -/
def GangCompletionSpec : Prop :=
  ∀ (v : Nat) (s : State) (g : Gang), gangOfCore s v = some g →
    let live := g.members.filter (fun m => !m.ended)
    let cores := live.filterMap (fun m => m.core)
    live.all (fun m => m.core.isSome) = true → cores.Nodup →
    (cores.all (fun w => inGbar (getCore s w)) = true →
      ∃ t, exec (.gbarComplete v) s = .next t ∧ t.mem = s.mem ∧
        ∀ w ∈ cores, ∀ d size, (getCore s w).wait = .gbar d size → (getCore s w).cont = none → (getCore s w).wins = [] →
          (getCore s w).opening = none →
          let c := getCore s w
          let id := if c.bar.sub = 0 then BitVec.allOnes 64 else if c.bar.sub = 4 then BitVec.ofInt 64 (2 ^ 63 - 1)
            else if c.bar.sub = 5 then BitVec.ofInt 64 (-2 ^ 63) else 0
          ∃ r, combined c.bar.sub (cores.map (fun u => (getCore s u).bar.payload) ++ List.replicate (g.members.length - live.length) id) r ∧
            getCore t w = ({ c with wait := .none, live := !c.live, pc := c.pc + BitVec.ofNat 48 size
                                    bar := { c.bar with arrived := false, epoch := c.bar.epoch + 1 } }.setG d r)) ∧
    (cores.any (fun w => !inGbar (getCore s w)) = true → exec (.gbarComplete v) s = .next s)

/-- An exchange of `n` bytes that `data` gives: the checks of 07 R163, then the write into the target's shadow bank, of which
the target's trace unit hears (24 R380). -/
def Exchange (ins : SysOp → Instr) (sub n : Nat) (data : SysOp → Core → List Byte) : Prop :=
  ∀ (o : SysOp) (s : State) (k : Cont), let x := xstIns sub o
    let s0 := started x k s
    let t := s.core.getG o.t.toNat
    let off := fld t.toNat 14 0
    let rank := fld t.toNat 18 16
    Issues x s k →
    (off % n ≠ 0 → exec (ins o) s = .next (takeTrap s0 x.size { code := 4, tval := t })) ∧
    (off % n = 0 → s.core.task = none → rank ≠ 0 → exec (ins o) s = .next (takeTrap s0 x.size { code := 9, tval := t })) ∧
    (off % n = 0 → s.core.task = none → rank = 0 →
      exec (ins o) s = .next (onward x k (homeWrite s0 none 0 (bankAt s.cur (!s.core.live) off) (data o s.core)))) ∧
    (∀ r, off % n = 0 → s.core.task = some r → rankCore s0 r.gid rank = none →
      exec (ins o) s = .next (takeTrap s0 x.size { code := 9, tval := t })) ∧
    (∀ r w, off % n = 0 → s.core.task = some r → rankCore s0 r.gid rank = some w →
      exec (ins o) s = .next (onward x k
        (hears (homeWrite s0 none 0 (bankAt w (!(getCore s0 w).live) off) (data o s.core)) w s.cur)))

/-- 07 R163 to R165: `xst.d` and `xst.v`, of a gang of one among them, and the acceptance of a write that is on its way; where its
target has ended it is discarded. The clauses of a core without a task are the model's choice (log 58). -/
def ExchangeStoresSpec : Prop :=
  Exchange .xstD 0 8 (fun o c => leBytes 8 (c.getG o.s.toNat).toNat) ∧
  Exchange .xstV 1 64 (fun o c => leBytes 64 (c.getV (o.s.toNat % 32)).toNat) ∧
  (∀ (x : Xst) (w : Nat) (s : State), s.xsts = [x] → rankCore s x.gid x.rank = some w →
    exec (.xstAccept 0) s = .next
      (hears (homeWrite { s with xsts := [] } none 0 (bankAt w (!(getCore s w).live) x.off) x.bytes) w x.sender)) ∧
  (∀ (x : Xst) (s : State), s.xsts = [x] → rankCore s x.gid x.rank = none →
    exec (.xstAccept 0) s = .next { s with xsts := [] })

end Sys2Proof.Machine

/-- 07 R160 to R165: gang barriers and the stores into exchange banks. -/
def Obligations.GangSync : Prop := GangBarriersSpec ∧ GangCompletionSpec ∧ ExchangeStoresSpec

/-! Device barriers -/

namespace Sys2Proof.Machine

/-- The object of a `bard` in device memory at level and context of the core: the checks of 19 R343 pass. -/
def BardAt (o : SysOp) (s0 : State) (l : Loc) (s1 : State) : Prop :=
  let p := s0.core.getG o.t.toNat
  plainPointer p ∧ effective p 0 % 8 = 0 ∧ effective p 0 < 0xFFFFFFC00000 ∧
  translate (me s0) (effective p 0) 3 s0 = .ok (l, s1) ∧ l.sync = true ∧ l.place = .hbm

/-- The three fields of a barrier object (19 R342). -/
def object (epoch arrived n : Nat) : Nat := epoch * 2 ^ 32 + arrived * 2 ^ 16 + n

/-- Every other participant that waits on its core gets its own combine of all payloads, with an acquire, and goes on (19 R344). -/
def Participants (s t : State) (mine : List BardRec) (pays : List Word) : Prop :=
  ∀ q ∈ mine, ∀ w d size, q.core = some w → w ≠ s.cur → (getCore s w).wait = .bard d size → (getCore s w).cont = none →
    (getCore s w).wins = [] → (getCore s w).opening = none →
    ∃ r, combined q.sub pays r ∧ (getCore t w).wait = .none ∧ (getCore t w).g = ((getCore s w).setG d r).g ∧
      (getCore t w).pc = (getCore s w).pc + BitVec.ofNat 48 size ∧ (getCore t w).l1 = []

/-- An episode at `pa` can end at once: its records name each core once, and none the active one; nothing holds its trace record
back, and no record of waiters in error. -/
def Ending (s : State) (pa : Nat) : Prop :=
  let mine := s.bards.filter (fun r => r.pa == pa)
  (mine.filterMap (fun r => r.core)).Nodup ∧ (∀ q ∈ mine, q.core ≠ some s.cur) ∧ Untraced s ∧ stalledSrc s (syeSrc pa) = false ∧
    overflowLine pa ∉ s.ecc

/-- `bard` of one combine (19 R344): the last arrival of an episode completes it for all that are recorded; one before the last
joins the records and waits; one waits at issue for the acknowledgements of the core's remote stores and for an engine that
stalls. -/
def DeviceBarrier (ins : SysOp → Instr) (sub : Nat) : Prop :=
  ∀ (o : SysOp) (s : State) (k : Cont) (l : Loc) (s1 s2 : State) (e a n : Nat), let x := bardIns sub o
    let s0 := started x k s
    let pay := s.core.getG o.s.toNat
    Issues x s k → BardAt o s0 l s1 →
    ((storesOut s1 s1.cur none || syeStalled s1 l) = true → exec (ins o) s = .next { s1 with core := { s1.core with wait := .issue } }) ∧
    ((storesOut s1 s1.cur none || syeStalled s1 l) = false → dirtyLog s1 s.core.ctx.toNat (s.cur / 8) l = some s2 →
    ∀ s3, meetEcc l.kv l.at_ 8 (drainCore (flushXsts s2 s2.cur) s2.cur) = .ok ((), s3) →
    ofLe (homeRead s3 l.kv l.at_ 8) = object e a n → e < 2 ^ 32 → a + 1 < 2 ^ 16 → n < 2 ^ 16 →
    let w : State := { s3 with core := { s3.core with wait := .bard o.d.toNat x.size } }
    (n ≠ 0 → a + 1 < n →
      exec (ins o) s = .next (homeWrite { w with bards := s3.bards ++ [⟨l.at_, sub, pay, l.kv, l.logAt (me s0), some s.cur, none,
        heardAt w s.cur (syeSrc l.at_), false, false⟩] } none l.kv l.at_ (leBytes 8 (object e (a + 1) n)))) ∧
    (n = 0 ∨ n ≤ a + 1 → s.core.cont = none → s.Inv → isHbm l.at_ = true → l.at_ % 8 = 0 → Ending s3 l.at_ →
      let mine := s3.bards.filter (fun r => r.pa == l.at_)
      let pays := mine.map (fun r => r.payload) ++ [pay]
      ∃ r t, combined sub pays r ∧ exec (ins o) s = .next t ∧ t.bards = s3.bards.filter (fun r => r.pa != l.at_) ∧
        t.core.wait = .none ∧ t.core.pc = s.core.pc + BitVec.ofNat 48 x.size ∧ t.core.g = (s.core.setG o.d.toNat r).g ∧
        t.core.l1 = [] ∧ t.core.wbuf = s3.core.wbuf ∧ Participants s3 t mine pays ∧
        ofLe (homeRead t l.kv l.at_ 8) = object ((e + 1) % 2 ^ 32) 0 n))

/-- 19 R342 to R344: the device barrier's arrivals. -/
def DeviceBarriersSpec : Prop :=
  DeviceBarrier .bardAnd 0 ∧ DeviceBarrier .bardOr 1 ∧ DeviceBarrier .bardAdd 2 ∧ DeviceBarrier .bardPopc 3 ∧ DeviceBarrier .bardMin 4 ∧
  DeviceBarrier .bardMax 5 ∧ DeviceBarrier .bardNone 6

/-- 19 R343 to R345: `bard.drop` takes a participant off an object and completes the episode where the arrivals that are recorded
are now all, `bard.init` sets the count of an object that none has arrived at and returns the old one, and a withdrawal, whose write
is logged as any (05 R111), takes an arrival back while the core stays at its `bard`. -/
def BarrierObjectsSpec : Prop :=
  (∀ (o : SysOp) (s : State) (k : Cont) (l : Loc) (s1 s2 s3 : State) (e a n : Nat), let x := bardIns 7 o
    Issues x s k → BardAt o (started x k s) l s1 → syeStalled s1 l = false → dirtyLog s1 s.core.ctx.toNat (s.cur / 8) l = some s2 →
    meetEcc l.kv l.at_ 8 (drainAt s2 s.cur l.at_ 8) = .ok ((), s3) →
    ofLe (homeRead s3 l.kv l.at_ 8) = object e a n → e < 2 ^ 32 → a < 2 ^ 16 → n < 2 ^ 16 →
    (a = 0 ∨ a < n - 1 →
      exec (.bardDrop o) s = .next (onward x k (if n = 0 then s3 else homeWrite s3 none l.kv l.at_ (leBytes 8 (object e a (n - 1)))))) ∧
    (0 < a → n - 1 ≤ a → s.core.cont = none → s.Inv → isHbm l.at_ = true → l.at_ % 8 = 0 → Ending s3 l.at_ →
      let mine := s3.bards.filter (fun r => r.pa == l.at_)
      ∃ t, exec (.bardDrop o) s = .next t ∧ t.bards = s3.bards.filter (fun r => r.pa != l.at_) ∧
        t.core.pc = s.core.pc + BitVec.ofNat 48 x.size ∧ t.core.g = s.core.g ∧
        Participants s3 t mine (mine.map (fun r => r.payload)) ∧
        ofLe (homeRead t l.kv l.at_ 8) = object ((e + 1) % 2 ^ 32) 0 (n - 1))) ∧
  (∀ (o : SysOp) (s : State) (k : Cont) (l : Loc) (s1 s2 s3 : State) (e a n : Nat), let x := bardIns 8 o
    Issues x s k → BardAt o (started x k s) l s1 → syeStalled s1 l = false → dirtyLog s1 s.core.ctx.toNat (s.cur / 8) l = some s2 →
    meetEcc l.kv l.at_ 8 (drainAt s2 s.cur l.at_ 8) = .ok ((), s3) →
    ofLe (homeRead s3 l.kv l.at_ 8) = object e a n → e < 2 ^ 32 → a < 2 ^ 16 → n < 2 ^ 16 →
    let s4 := if a = 0 then homeWrite s3 none l.kv l.at_ (leBytes 8 (object e 0 ((s.core.getG o.s.toNat).toNat % 2 ^ 16))) else s3
    exec (.bardInit o) s = .next (onward x k { s4 with core := s4.core.setG o.d.toNat (BitVec.ofNat 64 (object e a n)) })) ∧
  (∀ (s s1 : State) (r : BardRec) (d size e a n : Nat), s.core.wait = .bard d size → s.bards = [r] → r.core = some s.cur →
    stalledSrc s s.cur = false → syeBusy s (syeSrc r.pa) = false → s.dirtyHeld = [] → overflowLine r.pa ∉ s.ecc → logLater s r.log = some s1 →
    ofLe (homeRead s1 r.key r.pa 8) = object e (a + 1) n → e < 2 ^ 32 → a + 1 < 2 ^ 16 → n < 2 ^ 16 →
    let s2 := homeWrite { s1 with bards := [] } none r.key r.pa (leBytes 8 (object e a n))
    exec (.bardWithdraw s.cur) s = .next { s2 with core := { s2.core with wait := .none } })

end Sys2Proof.Machine

/-- 19 R339 to R345: arrivals at device barriers and their objects. -/
def Obligations.DeviceSync : Prop := DeviceBarriersSpec ∧ BarrierObjectsSpec

/-! Maintenance (07 R169, R170) -/

namespace Sys2Proof.Machine

/-- 07 R169: `cflush.l1` empties L1, `cflush.line` drops the line of an address and ignores a window, `cflush.wb` performs the
core's stores. -/
def CacheFlushesSpec : Prop :=
  ∀ (o : SysOp) (s : State) (k : Cont),
    (Issues (sysIns 10 0 o [] []) s k →
      exec (.cflushL1 o) s = .next (passesWith (sysIns 10 0 o [] []) k (fun c => { c with l1 := [] }) s)) ∧
    (let x := sysIns 10 1 o (regsOf .g o.s.toNat) []
     let p := s.core.getG o.s.toNat
     Issues x s k →
      (¬ plainPointer p → exec (.cflushLine o) s = .next (takeTrap (started x k s) x.size { code := 7, tval := p })) ∧
      (plainPointer p → 0xFFFFFFC00000 ≤ effective p 0 → exec (.cflushLine o) s = .next (passes x k s)) ∧
      (∀ l s1, plainPointer p → effective p 0 < 0xFFFFFFC00000 →
        translate (me (started x k s)) (effective p 0) 1 (started x k s) = .ok (l, s1) → l.place = .hbm →
        exec (.cflushLine o) s = .next (onward x k { s1 with core := { s1.core with
          l1 := s1.core.l1.filter (fun t => t.line != l.at_ / 128) } }))) ∧
    (let x := sysIns 10 2 o [] []
     Issues x s k → storesOut s s.cur none = false →
      exec (.cflushWb o) s = .next (onward x k (drainCore (started x k s) s.cur)))

/-- The records of contexts that `p` names are forgotten (05 R104). -/
def Forgotten (p : Nat → CtxRec → Bool) (s : State) : State :=
  { s with ctxs := s.ctxs.map (fun e => (e.1, match e.2.rec? with
      | some r => if p e.1 r then { e.2 with rec? := none } else e.2
      | none => e.2)) }

/-- The table entries of walks that `p` names are held no more (05 R109). -/
def Unwalked (p : WalkEnt → Bool) (s : State) : State := { s with walks := s.walks.filter (fun w => !p w) }

/-- `i` at iteration `k` performs the stores that wait and removes the translations that `keep` does not keep, with what `f`
does besides; while an access that used one of them has not been performed it waits (07 R170). -/
def Removes (i : Instr) (x : Ins) (k : Cont) (s : State) (keep : TlbEnt → Bool) (f : State → State) : Prop :=
  let u := drainAll (started x k s)
  let used := usesXl u (u.tlb.filter (fun e => !keep e))
  (used = false → exec i s = .next (onward x k (f { u with tlb := u.tlb.filter keep }))) ∧
  (used = true → exec i s = .next { u with core := { u.core with wait := .issue } })

/-- 07 R170: each `tlbi` removes the translations and the table entries of walks it names, after the accesses that used one have been performed; below its
level it raises cause 2, and at K one of a context of another VM does. -/
def TranslationFlushesSpec : Prop :=
  ∀ (o : SysOp) (s : State) (k : Cont),
    let a := (s.core.getG o.s.toNat).toNat % 2 ^ 48
    let b := (s.core.getG o.t.toNat).toNat % 64
    let lower := s.core.priv = .u ∨ (s.core.priv = .k ∧ ownsCtx s b = false)
    let refused := fun (x : Ins) => Host.Outcome.next (takeTrap s x.size { code := 2, tval := BitVec.ofNat 64 x.body1 })
    (let x := sysIns 9 0 o (regsOf .g o.s.toNat ++ regsOf .g o.t.toNat) []
     Issues x s k → (lower → exec (.tlbiVa o) s = refused x) ∧
      (¬ lower → Removes (.tlbiVa o) x k s (fun e => !(e.ctx == b && e.vpage * 65536 / 2 ^ e.xl.vbits == a / 2 ^ e.xl.vbits))
        (Unwalked (fun w => w.covers false b w.lvl a)))) ∧
    (let x := sysIns 9 1 o (regsOf .g o.t.toNat) []
     Issues x s k → (lower → exec (.tlbiCtx o) s = refused x) ∧
      (¬ lower → Removes (.tlbiCtx o) x k s (fun e => e.ctx != b)
        (fun u => Unwalked (fun w => !w.s2 && w.ctx == b) (Forgotten (fun n _ => n == b) u)))) ∧
    (let x := sysIns 9 2 o (regsOf .g o.s.toNat ++ regsOf .g o.t.toNat) []
     Issues x s k → (s.core.priv ≠ .h → exec (.tlbiGpa o) s = refused x) ∧
      (s.core.priv = .h → Removes (.tlbiGpa o) x k s (fun e =>
        !(e.vm == b && e.xl.s2leaf != 0 && e.xl.gpa / 2 ^ pageBits (3 - e.xl.s2size) == a / 2 ^ pageBits (3 - e.xl.s2size)))
        (Unwalked (fun w => w.covers true b w.lvl a)))) ∧
    (let x := sysIns 9 3 o (regsOf .g o.t.toNat) []
     Issues x s k → (s.core.priv ≠ .h → exec (.tlbiVm o) s = refused x) ∧
      (s.core.priv = .h → Removes (.tlbiVm o) x k s (fun e => e.vm != b)
        (fun u => Unwalked (fun w => w.vm == b) (Forgotten (fun _ r => r.vm == b) u)))) ∧
    (let x := sysIns 9 4 o [] []
     Issues x s k → (s.core.priv ≠ .h → exec (.tlbiAll o) s = refused x) ∧
      (s.core.priv = .h → Removes (.tlbiAll o) x k s (fun _ => false)
        (fun u => Unwalked (fun _ => true) (Forgotten (fun _ _ => true) u))))

end Sys2Proof.Machine

/-- 07 R168 to R170: `cflush` and `tlbi`. -/
def Obligations.Flushes : Prop := CacheFlushesSpec ∧ TranslationFlushesSpec

/-! The squarer array (13; 14 R274 to R286) -/

namespace Sys2Proof.Machine

/-- The array is free, and the task declares it. -/
def ArrayReady (s : State) : Prop := Free s ∧ declArr s = true

/-- An array instruction that only changes the array state by `f`. -/
def arrayDone (x : Ins) (k : Cont) (f : ArrState → ArrState) (s : State) : State :=
  passesWith x k (fun c => { c with arr := f c.arr }) s

/-- 14 R274, R278, R283 to R285: clearing and anchoring a set, the predicates, and the reads of exponent and status. A task
that does not declare the array, and an anchor outside -1024 to 1023, raise cause 1. -/
def ArrayStateSpec : Prop :=
  ∀ (o : MSet) (p : MPred) (s : State) (k : Cont),
    let acc := s.core.arr.acc o.set
    (let x := msetIns 0 0 o false
     let e := (s.core.getG o.a.toNat).toInt
     Issues x s k → Free s →
      (declArr s = true → -1024 ≤ e → e ≤ 1023 →
        exec (.mzero o) s = .next (arrayDone x k (fun a => a.setAcc o.set ⟨[], e, true, false, []⟩) s)) ∧
      (declArr s = false ∨ e < -1024 ∨ 1023 < e →
        exec (.mzero o) s = .next (takeTrap s x.size { code := 1, tval := BitVec.ofNat 64 x.body1 }))) ∧
    (let x := arrIns (encMSet 0 16384 o) o.la [] []
     Issues x s k → ArrayReady s → exec (.mzeroA o) s = .next (arrayDone x k (fun a => a.setAcc o.set ⟨[], 0, false, false, []⟩) s)) ∧
    (let x := fun sel => arrIns (encMPred sel p) p.la (regsOf .g p.a.toNat) []
     let w := (s.core.getG p.a.toNat).setWidth 32
     ArrayReady s →
      (Issues (x 0) s k → exec (.mpredMr p) s = .next (arrayDone (x 0) k (fun a => { a with rowP := w }) s)) ∧
      (Issues (x 1) s k → exec (.mpredMc p) s = .next (arrayDone (x 1) k (fun a => { a with colP := w }) s)) ∧
      (Issues (x 2) s k → exec (.mpredMk p) s = .next (arrayDone (x 2) k (fun a => { a with kP := w }) s))) ∧
    (let x := msetIns 6 0 o true
     Issues x s k → ArrayReady s →
      exec (.mrdexp o) s = .next (passesWith x k (fun c =>
        c.setG o.a.toNat (if acc.anch then BitVec.ofInt 64 acc.eacc else 0x8000000000000000)) s)) ∧
    (let x := msetIns 7 0 o true
     Issues x s k → ArrayReady s →
      ∃ r : Word, r.getLsbD 0 = acc.ovf ∧ r.getLsbD 1 = acc.anch ∧
        (r.getLsbD 2 = true ↔ ∃ c ∈ acc.cells, c.2.spec = 3) ∧ (r.getLsbD 3 = true ↔ ∃ c ∈ acc.cells, c.2.spec = 1 ∨ c.2.spec = 2) ∧
        r.getLsbD 4 = s.core.arr.wb0.valid ∧ r.getLsbD 5 = s.core.arr.wb1.valid ∧ r.getLsbD 6 = s.core.arr.wb2.valid ∧
        r.getLsbD 7 = s.core.arr.wb3.valid ∧ r.toNat < 256 ∧
        exec (.mstat o) s = .next (passesWith x k (fun c => c.setG o.a.toNat r) s))

/-- 13 R258, R259: squares only, the array computes the sum of products: half of the sum of squared sums less both corrections
is the dot product of two blocks, exactly. -/
def SquarerIdentitySpec : Prop :=
  ∀ (a b : List Int), a.length = b.length → blockProduct a b = ((a.zip b).map (fun p => p.1 * p.2)).sum

/-- 13 R257: alignment keeps a finite element within half a unit of its block's exponent, and is exact where the element is a
multiple of that unit. -/
def AlignmentErrorSpec : Prop :=
  ∀ (f ex : Int) (x : FVal), x.Finite →
    let u : Rat := 2 ^ (ex - f)
    let d := ((alignTo f ex x : Int) : Rat) * u - x.rat
    2 * d ≤ u ∧ 2 * (-d) ≤ u ∧
    (∀ m : Int, x.rat = m * 2 ^ (ex - f) → alignTo f ex x = m)

end Sys2Proof.Machine

/-- 13 R257 to R259: alignment to integers and the product computed from squares. -/
def Obligations.SquarerArithmetic : Prop := SquarerIdentitySpec ∧ AlignmentErrorSpec

namespace Sys2Proof.Machine

/-- The A elements of an `mmul`: their checks, the bytes read, and those in error. -/
def MulReads (o : MMul) (s : State) (k : Cont) (l : List (Nat × List Byte)) (bad : List Nat) (t : State) : Prop :=
  let x := arrIns (encMMul o) o.la (regsOf .g o.a.toNat ++ regsOf .g o.t.toNat) []
  let a := s.core.arr
  let w := a.slot o.slot.toNat
  let p := s.core.getG o.a.toNat
  let g := s.core.getG o.t.toNat
  ptrOk true p = true ∧ ptrFmt p ≠ 13 ∧ (∃ c, classOf (ptrFmt p) = some c ∧ c ≤ w.cls) ∧ lblLen (ptrLbl p) = w.len ∧
  effective p 0 % fmtSize (ptrFmt p) = 0 ∧ g.toNat % fmtSize (ptrFmt p) = 0 ∧
  ∃ es s1, checkElems 1 1 (aElems a.rowP.toNat a.kP.toNat w.len (o.nb.toNat + 1) (effective p 0) (fmtSize (ptrFmt p)) g.toInt)
      (started x k s) = .ok (es, s1) ∧
    readArr es (fmtSize (ptrFmt p)) x.size s1 = .ok (some (l, bad), t)

end Sys2Proof.Machine

/-- 14 R281: `mmul` multiplies the active elements of A with a panel into a set; the sets, slots, codebooks and predicates it
does not name stay, and so do the cells of inactive rows and columns; the active cells of a row that was read in error become
NaN (14 R277). A slot without a panel, or blocks past its end, raise cause 1. -/
def Obligations.ArrayMultiply : Prop :=
  ∀ (o : MMul) (s : State) (k : Cont),
    let x := arrIns (encMMul o) o.la (regsOf .g o.a.toNat ++ regsOf .g o.t.toNat) []
    let w := s.core.arr.slot o.slot.toNat
    Issues x s k → ArrayReady s →
    (∀ l bad t, w.valid = true → o.first.toNat + (o.nb.toNat + 1) ≤ w.nblk + 1 → MulReads o s k l bad t →
      ∃ a : ArrState,
        exec (.mmul o) s = .next (onward x k { t with core := { t.core with arr := a } }) ∧
        (bad = [] → a = mulArr t.core.arr o.set w (ptrFmt (s.core.getG o.a.toNat)) o.first.toNat (o.nb.toNat + 1) l) ∧
        (∀ e ∈ bad, ∀ j, j < 32 → s.core.arr.rowP.getLsbD (e / 1024) = true → s.core.arr.colP.getLsbD j = true →
          ((a.acc o.set).cell (e / 1024) j).spec = 3) ∧
        a.acc (!o.set) = s.core.arr.acc (!o.set) ∧ (∀ n, a.slot n = s.core.arr.slot n) ∧ (∀ n, cbOf a n = cbOf s.core.arr n) ∧
        a.rowP = s.core.arr.rowP ∧ a.colP = s.core.arr.colP ∧ a.kP = s.core.arr.kP ∧
        (∀ i j, i < 32 → j < 32 → s.core.arr.rowP.getLsbD i = false ∨ s.core.arr.colP.getLsbD j = false →
          (a.acc o.set).cell i j = (s.core.arr.acc o.set).cell i j) ∧
        ((s.core.arr.acc o.set).anch = true → (a.acc o.set).eacc = (s.core.arr.acc o.set).eacc)) ∧
    (w.valid = false ∨ w.nblk + 1 < o.first.toNat + (o.nb.toNat + 1) →
      exec (.mmul o) s = .next (takeTrap s x.size { code := 1, tval := BitVec.ofNat 64 x.body1 }))

namespace Sys2Proof.Machine

/-- 14 R279, R280: `mldb` fills a slot from a panel in memory and snapshots a codebook for CB4; `mldcb` loads a codebook. A
column of a panel that was read in error counts as NaN, and such an entry of a codebook is the canonical NaN (14 R277). -/
def ArrayLoadsSpec : Prop :=
  (∀ (o : MLdb) (s : State) (k : Cont) (es : List ElemAt) (s1 t : State) (l : List (Nat × List Byte)) (bad : List Nat),
    let x := arrIns (encMLdb o) o.la (regsOf .g o.a.toNat) []
    let p := s.core.getG o.a.toNat
    let n := o.nb.toNat + 1
    let sz := if ptrFmt p = 13 then 1 else fmtSize (ptrFmt p)
    let bytes := panelBytes (ptrFmt p) (ptrLbl p) n
    Issues x s k → ArrayReady s → (o.cbr = 0 ∨ ptrFmt p = 13) →
    ptrOk true p = true → (classOf (ptrFmt p)).isSome → bytes ≤ 32768 → effective p 0 % 64 = 0 → winFits (effective p 0) bytes = true →
    checkElems 1 1 (panelElems (ptrFmt p) bytes (effective p 0)) (started x k s) = .ok (es, s1) →
    readArr es sz x.size s1 = .ok (some (l, bad), t) →
    ∃ w : WbSlot, w.valid = true ∧ w.fmt = ptrFmt p ∧ w.lbl = ptrLbl p ∧ w.nblk = o.nb.toNat ∧
      w.bytes = (List.range es.length).flatMap (bytesAt l) ∧ w.cb = (if ptrFmt p = 13 then cbOf s.core.arr o.cbr.toNat else 0) ∧
      (∀ j, j < 32 → (w.nan.getLsbD j = true ↔
        ∃ i ∈ bad, if ptrFmt p = 13 then 2 * i % 32 = j ∨ 2 * i % 32 + 1 = j else i % 32 = j)) ∧
      exec (.mldb o) s = .next (onward x k { t with core := { t.core with arr := t.core.arr.setSlot o.slot.toNat w } })) ∧
  (∀ (o : MLdcb) (s : State) (k : Cont) (es : List ElemAt) (s1 t : State) (l : List (Nat × List Byte)) (bad : List Nat),
    let x := arrIns (encMLdcb o) o.la (regsOf .g o.a.toNat) []
    let p := s.core.getG o.a.toNat
    Issues x s k → ArrayReady s → plainPointer p → effective p 0 % 32 = 0 →
    checkElems 1 2 ((List.range 16).map (fun i => (i, effective p (2 * i : Nat)))) (started x k s) = .ok (es, s1) →
    readArr es 2 x.size s1 = .ok (some (l, bad), t) →
    exec (.mldcb o) s = .next (onward x k { t with core := { t.core with
      arr := (t.core.arr.setCb o.cb.toNat (BitVec.ofNat 256 (ofLe ((List.range 16).flatMap (fun i =>
        if i ∈ bad then leBytes 2 0x7FC0 else bytesAt l i))))) } }))

/-- 14 R282; 03 R72: `mdrain` rounds the active cells to the pointer's format, with one draw for each under SR, stores them with
stride g(t), and clears them unless told to keep them. One whose flags are enabled raises cause 14, and one that waits for a bank
leaves the flags and the generator as they were. -/
def ArrayDrainSpec : Prop :=
  ∀ (o : MDrain) (s : State) (k : Cont) (es : List ElemAt) (s1 v s2 u : State),
    let x := arrIns (encMDrain o) o.la (regsOf .g o.a.toNat ++ regsOf .g o.t.toNat) []
    let p := s.core.getG o.a.toNat
    let g := s.core.getG o.t.toNat
    let sz := fmtSize (ptrFmt p)
    let a := s.core.arr
    let live := fun (n : Nat) => a.rowP.getLsbD (n / 32) && a.colP.getLsbD (n % 32)
    let act := (List.range 1024).filter live
    let dr := draws s.cur (cellMask a.rowP.toNat a.colP.toNat) 1024 0 s.core.sgen
    let res := fun (n : Nat) => if live n then
      (elemFmt (ptrFmt p)).round (drainMode o) false (if drainMode o = .sr then dr.1.getD n 0 else 0) (cellValue (drainMode o) (a.acc o.set).eacc ((a.acc o.set).cell (n / 32) (n % 32)))
      else (0, 0)
    let fl := act.foldl (fun f n => f ||| (res n).2) 0
    Issues x s k → ArrayReady s → underWay s.core = none → ptrOk true p = true → (fmtOf (ptrFmt p)).isSome → effective p 0 % sz = 0 → g.toNat % sz = 0 →
    checkElems 2 1 (act.map (fun n => (n, effective p ((n / 32 : Nat) * g.toInt + (n % 32 * sz : Nat))))) (started x k s) = .ok (es, s1) →
    (∀ e ∈ es, e.loc.place ≠ .remote) →
    let s1' : State := { s1 with core := { withFlags fl s1.core with sgen := if drainMode o = .sr then dr.2 else s1.core.sgen } }
    (fl &&& s.core.fenable.toNat ≠ 0 →
      exec (.mdrain o) s = .next (takeTrap (started x k s) x.size { code := 14, tval := BitVec.ofNat 64 fl })) ∧
    (fl &&& s.core.fenable.toNat = 0 → elemTurns es s1' = .ok (false, v) →
      exec (.mdrain o) s = .next { v with core := { v.core with sgen := s.core.sgen, fflags := s.core.fflags } }) ∧
    (fl &&& s.core.fenable.toNat = 0 → elemTurns es s1' = .ok (true, v) → logElems es v = .ok ((), s2) →
      writeElems 0 0 (fun n => leBytes sz (res n).1) es s2 = .ok ((), u) →
      let t : State := { u with core := { u.core with wait := .none } }
      exec (.mdrain o) s = .next (onward x k (if o.keep then t else { t with core := { t.core with
        arr := (t.core.arr.setAcc o.set ((t.core.arr.acc o.set).mapCells (fun i j c => if live (32 * i + j) then ⟨0, 0⟩ else c))) } })))

end Sys2Proof.Machine

/-- 14 R279, R280, R282: `mldb`, `mldcb` and `mdrain`. -/
def Obligations.ArrayPanels : Prop := ArrayLoadsSpec ∧ ArrayDrainSpec

namespace Sys2Proof.Machine

/-- The stores of a correction instruction: doublewords from an INT64 pointer on. -/
def CorrectionStore (i : Instr) (x : Ins) (areg : Nat) (words : ArrState → List Nat) : Prop :=
  ∀ (s : State) (k : Cont) (es : List ElemAt) (s1 v s2 t : State),
    let p := s.core.getG areg
    let ws := words s.core.arr
    Issues x s k → ArrayReady s → underWay s.core = none → ptrOk true p = true → ptrFmt p = 5 → effective p 0 % 8 = 0 →
    winFits (effective p 0) (8 * ws.length) = true →
    checkElems 2 8 ((List.range ws.length).map (fun i => (i, effective p (8 * i : Nat)))) (started x k s) = .ok (es, s1) →
    (∀ e ∈ es, e.loc.place ≠ .remote) → elemTurns es s1 = .ok (true, v) → logElems es v = .ok ((), s2) →
    writeElems 0 0 (fun i => leBytes 8 (ws.getD i 0)) es s2 = .ok ((), t) →
    exec i s = .next (onward x k { t with core := { t.core with wait := .none } })

/-- 14 R286: `mcorr.row` stores the 32 row corrections of a set, `mcorr.col` those of every block of a slot's panel with the
block exponents; for a slot without a panel it raises cause 1. -/
def ArrayCorrectionsSpec : Prop :=
  (∀ o : MSet, CorrectionStore (.mcorrRow o) (msetIns 8 0 o false) o.a.toNat (fun a =>
    (List.range 32).flatMap (fun i => [((a.acc o.set).row i).toNat % 2 ^ 64, ((a.acc o.set).row i).toNat / 2 ^ 64]))) ∧
  (∀ (o : MCol) (s0 : State), let x := arrIns (encMCol o) o.la (regsOf .g o.a.toNat) []
    (∀ (s : State) (k : Cont) (es : List ElemAt) (s1 v s2 t : State),
      let p := s.core.getG o.a.toNat
      let w := s.core.arr.slot o.slot.toNat
      let ws := (List.range (w.nblk + 1)).flatMap (corrBlock w)
      Issues x s k → ArrayReady s → underWay s.core = none → w.valid = true → ptrOk true p = true → ptrFmt p = 5 → effective p 0 % 8 = 0 →
      winFits (effective p 0) (8 * ws.length) = true →
      checkElems 2 8 ((List.range ws.length).map (fun i => (i, effective p (8 * i : Nat)))) (started x k s) = .ok (es, s1) →
      (∀ e ∈ es, e.loc.place ≠ .remote) → elemTurns es s1 = .ok (true, v) → logElems es v = .ok ((), s2) →
      writeElems 0 0 (fun i => leBytes 8 (ws.getD i 0)) es s2 = .ok ((), t) →
      exec (.mcorrCol o) s = .next (onward x k { t with core := { t.core with wait := .none } })) ∧
    (∀ k, Issues x s0 k → ArrayReady s0 → (s0.core.arr.slot o.slot.toNat).valid = false →
      exec (.mcorrCol o) s0 = .next (takeTrap s0 x.size { code := 1, tval := BitVec.ofNat 64 x.body1 })))

end Sys2Proof.Machine

/-- 14 R274, R278, R282 to R286; 13 R260: the array's registers, predicates, status and row corrections. -/
def Obligations.ArrayRegisters : Prop := ArrayStateSpec ∧ ArrayCorrectionsSpec

/-! Steps, decoding, reset, repeats, lookahead, events (02 R21 to R57; 06 R129, R134; 25 R393) -/

namespace Sys2Proof.Machine

/-- The parcels that the active core fetches from parcel `n` of its instruction on, one by one; `t` is the state after the
last (02 R57). -/
def FetchesFrom (s : State) (t : State) : Nat → List Nat → Prop
  | _, [] => s = t
  | n, p :: r => ∃ s1, fetchParcel ((s.core.pc.toNat + 2 * n) % 2 ^ 48) s = .ok (p, s1) ∧ FetchesFrom s1 t (n + 1) r

/-- These parcels, and no fewer of them, decode to `i`. -/
def Decodes (ps : List Nat) (i : Instr) : Prop :=
  decodeParcels ps = .ok i ps.length ∧ ∀ n, n < ps.length → decodeParcels (ps.take n) = .more

/-- A core that issues at its next turn: nothing is pending, no breakpoint matches, nothing keeps it, a trace buffer least. -/
def Runs (s : State) : Prop :=
  tripped s = false ∧ stalledSrc s s.cur = false ∧ (s.core.mode = .run ∨ s.core.mode = .irq) ∧ s.core.halted = false ∧ s.core.wait = .none ∧
  dueEvent s = none ∧ bkptHit s = none

end Sys2Proof.Machine

/-- 02 R21, R57; 07 R144; 25 R393, R400: a step in which the active core issues runs the instruction that the parcels at its pc decode to, with the
pages of its run-ahead at hand (05 R110), once a tile that its task has given away is handed over (log 96); from the core store it
reads those parcels as they stand in memory. A turn of the device runs its step, but where a trip (R400) or a failed bring-up (R393) admits
only the management's, or a turn of one of its 512 cores; which turn comes next, the agenda says (the model's choice, log 5); nothing of the run-ahead remains after a step. -/
def Obligations.StepRunsDecoded : Prop :=
  (∀ (s t : State) (ps : List Nat) (i : Instr), s.agenda = [] → Runs (tick s 1) → let g := landGive (tick s 1)
    FetchesFrom { g with core := { g.core with asked := none } } t 0 ps → Decodes ps i →
    step s = execAhead i (behind i t) t) ∧
  (∀ (s : State) (ps : List Nat) (i : Instr), s.agenda = [] → Runs (tick s 1) → Decodes ps i → (∀ p ∈ ps, p < 65536) →
    0xFFFFFFFC0000 ≤ s.core.pc.toNat → s.core.pc.toNat + 2 * ps.length ≤ 0xFFFFFFFF8000 → s.core.wbuf = [] → s.core.fbuf.old = [] →
    s.core.fbuf.own = [] → s.core.gave = none →
    Clean s (2 ^ 40 + s.cur * 2 ^ 18 + (s.core.pc.toNat - 0xFFFFFFFC0000)) (2 * ps.length) →
    memRead s.mem (2 ^ 40 + s.cur * 2 ^ 18 + (s.core.pc.toNat - 0xFFFFFFFC0000)) (2 * ps.length) = ps.flatMap (leBytes 2) →
    ∃ f : FetchBuf, let t := { tick s 1 with core := { (tick s 1).core with fbuf := f, asked := none } }; step s = execAhead i (behind i t) t) ∧
  (∀ (s : State) (dt : Nat) (r : List Turn) (i : Instr), s.agenda = ⟨dt, .event i⟩ :: r → i.raw = none →
    let t := tick { s with agenda := r } dt
    ((tripped t = false ∧ 4 < t.mgmt.phase.toNat) ∨ afterTrip i = true → step s = execAhead i (behindAnswer i t) t) ∧
    ((tripped t = true ∨ t.mgmt.phase.toNat ≤ 4) → afterTrip i = false → step s = .next t)) ∧
  (∀ (s : State) (dt v : Nat) (r : List Turn), s.agenda = ⟨dt, .core v⟩ :: r →
    (v < 512 → step s = stepCore (switchTo (tick { s with agenda := r } dt) v)) ∧
    (512 ≤ v → step s = .next (tick { s with agenda := r } dt))) ∧
  (∀ (s u : State) (i : Instr) (l : List PageFault), exec i { s with ahead := l } = .next u → execAhead i l s = .next { u with ahead := [] })

/-- 02 R21 to R55: words written out from the spec's encodings decode to their instructions: the worked examples of R34 (`ld.d g10,
0(g4)` under `rep`), R39 (`ld.d g9, 16(g4) la=2`, `add g10, g11`), R44, R53, and one word of each major. -/
def Obligations.DecodeWords : Prop :=
  decodeParcels [0x0000] = .ok .nop 1 ∧ decodeParcels [0x0203] = .ok (.trap 3) 1 ∧ decodeParcels [0x0500] = .ok .rett 1 ∧
  decodeParcels [0x1AB0] = .ok (.add ⟨none, 10, 11, none⟩) 1 ∧
  decodeParcels [0xF205, 0x1AB1] = .ok (.sub ⟨none, 10, 11, some 5⟩) 2 ∧
  decodeParcels [0xF605, 0x1AB0] = .ok (.div ⟨none, 10, 11, none⟩) 2 ∧
  decodeParcels [0x29FF] = .ok (.addi ⟨none, false, 9, ⟨0, 255⟩⟩) 1 ∧
  decodeParcels [0x47FF] = .ok (.j ⟨0, 0x7FF⟩) 1 ∧ decodeParcels [0x5343] = .ok (.bnez ⟨3, ⟨0, 3⟩⟩) 1 ∧
  decodeParcels [0xF601, 0x6120] = .ok (.vfaddH ⟨none, none, 1, 2, none⟩) 2 ∧
  decodeParcels [0xF440, 0x7120] = .ok (.vadd ⟨none, some ⟨1, false, 0⟩, 1, 2, none⟩) 2 ∧
  decodeParcels [0x8294, 0xC002] = .ok (.ld ⟨none, false, 2, 9, 4, 3, 0, 0, ⟨0, 2⟩⟩) 2 ∧
  decodeParcels [0xF83D, 0x80A4, 0xC000] = .ok (.ld ⟨some ⟨7, 5⟩, false, 0, 10, 4, 3, 0, 0, ⟨0, 0⟩⟩) 3 ∧
  decodeParcels [0xE085, 0x5151] = .ok (.traceX ⟨0, false, 5, 20, 21⟩) 2 ∧
  decodeParcels [0xB001, 0x8000] = .ok (.mzero ⟨0, false, 1, true⟩) 2 ∧
  decodeParcels [0xF220, 0x32E8] = .ok (.mov ⟨none, true, 2, 40⟩) 2 ∧
  decodeParcels [0x9034, 0xC000] = .ok (.vldf ⟨none, none, 0, 3, 4, none, 0, 0, ⟨0, 0⟩⟩) 2 ∧
  decodeParcels [0xF208, 0xA056, 0x4F47] = .ok (.acas ⟨0, 5, 6, true, 3, 1, 7, some 8⟩) 3 ∧
  decodeParcels [0xC065, 0x1800, 1, 0, 2, 0, 3, 0, 4, 0] = .ok (.sscan ⟨0, false, 5, 6, 0, 0, 1, 2, 3, 4⟩) 10 ∧
  decodeParcels [0xD005, 0x2831] = .ok (.spawn ⟨0, false, 5, 10, 3, 1⟩) 2 ∧
  decodeParcels [0xFA00, 0x0000] = .bad 0xFA00 ∧ decodeParcels [0x0F00] = .bad 0x0F00

/-- 02 R21 to R56: decoding the encoding of a well-formed instruction gives that instruction, whole. -/
def Obligations.DecodeEncode : Prop := ∀ i : Instr, i.wf = true → decodeParcels (encode i) = .ok i (encode i).length

/-- Every step keeps memory in its one canonical form, so that equal memories are equal data (the model's own form, log 3). -/
def Obligations.StepKeepsMemory : Prop := ∀ s t : State, s.Inv → step s = .next t → t.Inv

/-- 25 R393, R394; 06 R122 to R129, 10 R216, 16 R292, R293, 07 R156, 04 R88: what a reset leaves: core 0 of every cluster runs at H
from `tvec.h` and every other core is held; registers, CSRs, return stack, full/empty bits and tiles are as the spec says; memory is
in its canonical form. -/
def Obligations.ResetState : Prop :=
  State.reset.Inv ∧
  (∀ v, v < 512 → let c := getCore State.reset v
    c.mode = (if v % 8 = 0 then .run else .held) ∧ c.priv = .h ∧ c.pc = c.tvech ∧ (∀ n, n < 64 → c.getG n = 0) ∧
    (∀ n, n < 32 → c.getV n = 0) ∧ (∀ n, 0 < n → n < 8 → c.getK n = 0) ∧ c.getK 0 = BitVec.allOnes 64 ∧ c.rstack = [] ∧ c.task = none ∧
    c.status.hpp = .h ∧ c.status.hpie = false ∧ c.status.hie = false ∧ c.status.kpie = false ∧ c.status.kie = false ∧ c.status.kpp = false) ∧
  (∀ n ∈ [0x000, 0x001, 0x002, 0x005, 0x00A, 0x00D, 0x102, 0x103, 0x105, 0x107, 0x202, 0x203, 0x205, 0x208, 0x209],
    csrGet State.reset n = 0) ∧
  csrGet State.reset 0x004 = 16 ∧ csrGet State.reset 0x100 = 0x20 ∧ (∀ a, feFull State.reset a = true) ∧
  (∀ cl t, ownerOf State.reset cl t = 0xFF) ∧ (∀ ctx cl, (getX State.reset ctx cl).fquota = 8 ∧ (getX State.reset ctx cl).fwater = 8)

namespace Sys2Proof.Machine

/-- The registers of the instruction that a window compares (02 R37). -/
def Meets (x : Ins) (w : Win) : Prop :=
  (∃ r, (r ∈ x.reads x.d x.s ∨ r ∈ x.writes x.d x.s) ∧ r ∈ w.w) ∨ ∃ r, r ∈ x.writes x.d x.s ∧ r ∈ w.l

end Sys2Proof.Machine

/-- 02 R36, R37, R39: an instruction that meets a window raises cause 3 with the address of the window's long instruction; a load
with lookahead that reads at once keeps its register as it was and opens its window over it; a window counts the instructions
after it and gives its results when the last position is used up, when the long instruction completes, and when a trap
closes it. -/
def Obligations.Lookahead : Prop :=
  (∀ (x : Ins) (body : Nat → Nat → Nat → M Flow) (s : State) (ws : List Win) (w : Win) (r : List Win),
    s.core.cont = none → x.rep = none → (x.units && s.core.ssb.isSome) = false → s.core.repeatDue = false → s.core.wins = ws ++ w :: r → (∀ u ∈ ws, ¬ Meets x u) → Meets x w →
    issue x noPre body s = .next (takeTrap (settleXsts s) x.size { code := 3, tval := BitVec.ofNat 64 w.xaddr })) ∧
  (∀ (o : MemOp) (s : State) (k : Cont) (l : Loc) (s1 t1 s2 : State) (b : List Byte), let x := memIns 0 0 o
    let s0 := started x k s
    let n := 2 ^ o.size.toNat
    let ea := eaOf x k n (o.imm.sval 5) s
    let d := o.d.toNat
    o.la ≠ 0 → o.rep = none → d ≠ 0 → s.core.wins = [] → Sent s → s.core.cont = none → k = ⟨0, 0, 0, false⟩ →
    plainPointer (s.core.getG (sOf x k)) → ea % n = 0 → access s0 ea 1 = .ok (l, s1) → l.place ≠ .remote →
    (o.order = 2 → storesOut s s.cur none = false) → bankTurn ea l s1 = .ok (true, t1) → loadLoc l n o.order.toNat (memScope o.scope) t1 = .ok (b, s2) →
    ∃ t, exec (.ld o) s = .next t ∧ t.core.g = s.core.g ∧ t.core.v = s.core.v ∧ t.core.pc = s.core.pc + BitVec.ofNat 48 x.size ∧
      t.mem = s2.mem ∧ t.core.wins = [⟨s.core.pc.toNat, o.la.toNat, [.g d], [], [(d, BitVec.ofNat 64 (ofLe b))], []⟩]) ∧
  (∀ (s : State) (w : Win), s.core.wins = [w] → s.core.cont = none → s.core.repeatDue = false →
    (1 < w.left → ∃ t, exec .nop s = .next t ∧ t.core.g = s.core.g ∧ t.core.v = s.core.v ∧ t.core.wins = [{ w with left := w.left - 1 }]) ∧
    (w.left = 1 → ∃ t, exec .nop s = .next t ∧ t.core.g = (s.core.applyWin w).g ∧ t.core.v = (s.core.applyWin w).v ∧ t.core.wins = [])) ∧
  (∀ (s : State) (w : Win), s.core.wins = [w] →
    exec (.longInstructionComplete s.cur 0) s =
      .next { s with core := { s.core.applyWin w with wins := [{ w with gw := [], vw := [] }] } } ∧
    ∀ (size : Nat) (t : Trap), t.code ≠ 5 → t.carry = none →
      (takeTrap s size t).core.g = (s.core.applyWin w).g ∧ (takeTrap s size t).core.v = (s.core.applyWin w).v ∧
      (takeTrap s size t).core.wins = [])

namespace Sys2Proof.Machine

/-- 02 R34; 06 R129: a trap in iteration i of a repeat records index i, the iterations still to run and the step mask, with the
address of the first prefix, and leaves the registers; on return an instruction whose fields would leave their range under
that record raises cause 1 and keeps it, and one without a repeat drops it and runs once. -/
def RepeatsSpec : Prop :=
  (∀ (s : State) (size : Nat) (t : Trap) (k : Cont), s.core.cont = some k → s.core.wins = [] → t.code ≠ 5 → t.carry = none → t.after = false →
    k.i ≤ k.last → k.last < 64 → k.step < 8 → let c := (takeTrap s size t).core
    c.rep.index.toNat = k.i ∧ c.rep.remain.toNat = k.last + 1 - k.i ∧ c.rep.step.toNat = k.step ∧ c.cont = none ∧
    (c.priv = .k → c.epc = s.core.pc) ∧ (c.priv = .h → c.epch = s.core.pc) ∧ c.g = s.core.g ∧ c.v = s.core.v ∧ c.k = s.core.k) ∧
  (∀ (o : RR) (s : State), let x := rrIns (encRR none 0 o) false o
    s.core.cont = none → s.core.repeatDue = true →
    (o.rep.isSome → (64 < s.core.rep.index.toNat + s.core.rep.remain.toNat ∨ s.core.rep.step.getLsbD 2 = true ∨
        (s.core.rep.step.getLsbD 0 = true ∧ 64 < o.d.toNat + s.core.rep.index.toNat + s.core.rep.remain.toNat)) →
      exec (.add o) s = .next (takeTrap (settleXsts s) x.size { code := 1, tval := BitVec.ofNat 64 x.body1 })) ∧
    (o.rep = none → s.core.wins = [] → ∃ t, exec (.add o) s = .next t ∧ t.core.rep = ⟨0, 0, 0⟩ ∧ t.core.cont = none ∧
      t.core.pc = s.core.pc + BitVec.ofNat 48 x.size)) ∧
  (∀ (o : RR) (s : State) (k : Cont), let x := rrIns (encRR none 0 o) false o
    Issues x s k → o.rep.isSome → k.i ≤ k.last →
    ∃ t, exec (.add o) s = .next t ∧
      (k.i < k.last → t.core.cont = some { k with i := k.i + 1 } ∧ t.core.pc = s.core.pc) ∧
      (k.i = k.last → t.core.cont = none ∧ t.core.pc = s.core.pc + BitVec.ofNat 48 x.size ∧
        (k.resumed = true → t.core.rep = ⟨0, 0, 0⟩)))

/-- The state behind a scalar load that has not been performed. -/
def behindLoad (o : MemOp) (s : State) : State := { s with core := { s.core with pc := s.core.pc + BitVec.ofNat 48 (rawSize (encMem 0 0 o)) } }

/-- 05 R110; 06 R132, R135, R137: a batch holds at most 16 pages, each once, the faulting one first. A fault taken at H, and one whose
batch holds a stage-2 page, writes it at `fbatch.h` and enters H. A load that meets a fault adds the pages of its run-ahead; a load
behind it whose address is no discarded result adds its own, and one that reads the discarded result, or a page that is mapped, none. -/
def RunAheadSpec : Prop :=
  (∀ (p : PageFault) (r : List PageFault), (collect (p :: r)).length ≤ 16 ∧
    ((collect (p :: r)).map (fun q => (q.page, q.stage))).Nodup ∧
    ∃ q l, collect (p :: r) = q :: l ∧ q.page = p.page ∧ q.stage = p.stage ∧ q.lvl = p.lvl ∧ q.bad = p.bad) ∧
  (∀ (s : State) (size kv : Nat) (t : Trap), t.code = 5 → t.carry = none → t.after = false → s.core.wins = [] → Untraced s →
    (∀ p ∈ t.pages, p.page < 2 ^ 32 ∧ p.lvl < 4 ∧ p.stage < 2 ∧ p.acc < 8) →
    let l := collect t.pages
    (s.core.priv = .h ∨ ∃ p ∈ l, p.stage = 1) → keyVal s 0 = some kv → s.fbatchh.toNat % 256 = 0 → s.fbatchh.toNat + 136 ≤ 2 ^ 39 →
    let u := takeTrap s size t
    let dw := fun n => ofLe (homeRead u kv (s.fbatchh.toNat + 8 * n) 8)
    u.core.priv = .h ∧ u.core.causeh = 5 ∧ u.core.tvalh = t.tval ∧ u.core.epch = s.core.pc ∧ u.core.pc = s.core.tvech ∧
    dw 0 = (if ∃ p ∈ l, p.stage = 1 then 256 else 0) + l.length ∧
    (∀ n p, l[n]? = some p → dw (n + 1) = p.page * 2 ^ 16 + p.lvl * 2 ^ 8 + p.stage * 2 ^ 7 + p.acc * 2 ^ 4 + (if p.bad then 8 else 0)) ∧
    (∀ n, l.length ≤ n → n < 16 → dw (n + 1) = 0)) ∧
  (∀ (o : MemOp) (s : State) (va : Nat) (tr : Trap), let x := memIns 0 0 o
    o.rep = none → Issues x s ⟨0, 0, 0, false⟩ → s.core.cont = none →
    scalarEa o.b.toNat (o.imm.sval 5) (2 ^ o.size.toNat) 0 (started x ⟨0, 0, 0, false⟩ s) = .ok (va, started x ⟨0, 0, 0, false⟩ s) →
    access (started x ⟨0, 0, 0, false⟩ s) va 1 = .error tr → tr.code = 5 →
    exec (.ld o) s = .next (takeTrap (started x ⟨0, 0, 0, false⟩ s) x.size { tr with pages := tr.pages ++ s.ahead })) ∧
  (∀ (o q : MemOp) (s t : State) (va : Nat) (ps : List Nat), (Instr.ld o).wf = true → (Instr.ld q).wf = true → o.rep = none → q.rep = none →
    o.la = 0 → q.la = 0 → s.core.cont = none → s.core.wins = [] → s.core.wait = .none → s.core.afterRett = false → s.core.skipBkpt = false →
    bkptHit (behindLoad o s) = none → FetchesFrom (behindLoad o s) t 0 ps → Decodes ps (.ld q) →
    scalarEa q.b.toNat (q.imm.sval 5) (2 ^ q.size.toNat) 0 t = .ok (va, t) →
    (∀ tr, (q.b = 0 ∨ q.b ≠ o.d) → access t va 1 = .error tr → tr.code = 5 → ∃ l, behind (.ld o) s = tr.pages ++ l) ∧
    (∀ tr, (q.b = 0 ∨ q.b ≠ o.d) → access t va 1 = .error tr → tr.code ≠ 5 → behind (.ld o) s = []) ∧
    ((q.b ≠ 0 ∧ q.b = o.d) → t.core.wins = [] → ∀ u, fetch (behindLoad q t) = .trap { code := 6 } u → behind (.ld o) s = []))

end Sys2Proof.Machine

/-- 02 R34; 06 R129, R132, R135, R137; 05 R110: what a repeat records when it traps and how it goes on, and what the batch of a translation
fault holds, the pages of the run-ahead among them. -/
def Obligations.RepeatsAndRunAhead : Prop := RepeatsSpec ∧ RunAheadSpec

namespace Sys2Proof.Machine

/-- The active core stands at a boundary with nothing under way, nothing on its way, and nothing that keeps it. -/
def AtRest (s : State) : Prop :=
  s.core.mode = .run ∧ s.core.halted = false ∧ s.core.wait = .none ∧ s.core.cont = none ∧ s.core.wins = [] ∧ s.core.priv = .u ∧
  Sent s ∧ s.core.gave = none ∧ stalledSrc s s.cur = false

end Sys2Proof.Machine

/-- 06 R134, R135; 24 R390: at a boundary a task at U takes the oldest deferred error first, then a debug halt, then its interrupt, then
pre-emption, and each event is taken once; before an instruction whose address a breakpoint names, the breakpoint is. -/
def Obligations.Events : Prop :=
  (∀ (s : State) (i : Intr) (r : List Intr), AtRest s → Untraced s → i.lvl = .k → i.ctx = s.core.ctx.toNat → i.code < 256 → i.sub < 256 →
    s.core.pend.deferred = i :: r →
    ∃ tr, exec .takeEvent s = .next { s with trc := tr, core := (
      atK { left s.core with pend := { s.core.pend with deferred := r } } i.code i.sub i.tval false s.core.pc) }) ∧
  (∀ s : State, AtRest s → s.core.pend.deferred = [] → s.core.pend.halt = true →
    exec .takeEvent s = .next { s with core := { s.core with
      halted := true, opening := none, ssb := s.core.ssb.map Scan.ask, pend := { s.core.pend with halt := false } } }) ∧
  (∀ (s : State) (i : Intr), AtRest s → Untraced s → i.lvl = .k → i.ctx = s.core.ctx.toNat → i.code < 256 → i.sub < 256 →
    s.core.pend.deferred = [] → s.core.pend.halt = false → s.core.pend.intrs = [i] →
    ∃ tr, exec .takeEvent s = .next { s with trc := tr, core := (
      atK { left s.core with pend := { s.core.pend with intrs := [] } } i.code i.sub i.tval true s.core.pc) }) ∧
  (∀ s : State, AtRest s → s.core.pend.deferred = [] → s.core.pend.halt = false → s.core.pend.intrs = [] → s.core.task.isSome →
    s.core.pend.preempt = true →
    exec .takeEvent s = .next { s with core := { s.core with
      wait := .stopped, opening := none, pend := { s.core.pend with preempt := false } } }) ∧
  (∀ (s : State) (n : Nat), s.core.halted = false → s.core.wait = .none → bkptHit s = some n → n < 16 → Untraced s → s.core.wins = [] → Sent s →
    stalledSrc s s.cur = false →
    (bitOf (s.mgmt.bkpts.getD n 0).toNat 62 = false → s.core.priv = .u →
      ∃ tr, issueNext s = .next { s with trc := tr, core := atK (left s.core) 16 0 (BitVec.ofNat 64 n) false s.core.pc }) ∧
    (bitOf (s.mgmt.bkpts.getD n 0).toNat 62 = true →
      ∃ tr, issueNext s = .next { s with trc := tr, core := { s.core with
        halted := true, skipBkpt := true, opening := none, ssb := s.core.ssb.map Scan.ask } }))

/-! Engines: state-space scan and copies (16; 18) -/

namespace Sys2Proof.Machine

/-- The table of cluster `cl` has room for an entry of the core's context in `slot` (10 R217). -/
def Room (s : State) (cl slot : Nat) : Prop :=
  useOf s s.core.ctx.toNat cl < (getX s s.core.ctx.toNat cl).fquota.toNat ∧ freeSlot s cl = some slot

/-- The handle that the table gives with `slot` (11 R229, 10 R211). -/
def newHandle (s : State) (cl slot kind : Nat) : Word :=
  mkHandle s.fab.own.toNat cl slot (((getCl s cl).genr.getD slot 0 + 1) % 2 ^ 24) s.core.ctx.toNat kind

/-- Cluster `cl` of `t` holds an entry in this state under `slot`, for the handle `h`, with so many references. -/
def Holds (t : State) (cl slot : Nat) (h : Word) (st : FtState) (refs : Nat) : Prop :=
  ∃ e, (getCl t cl).ft.find? slot = some e ∧ e.handle = h ∧ e.st = st ∧ e.refs = refs

/-- An engine request of `x` has been accepted between `s` and `t` with promise `p`: f and p are written, f with the handle of a
new entry of this kind, and nothing else of the registers and of memory changes. -/
def Accepted (o : Eng) (x : Ins) (slot kind refs : Nat) (p : Nat) (s t : State) : Prop :=
  let cl := s.cur / 8
  let h := newHandle s cl slot kind
  t.core.g = ((s.core.setG o.f.toNat h).setG o.p.toNat (BitVec.ofNat 64 p)).g ∧ t.core.v = s.core.v ∧ t.core.k = s.core.k ∧
  t.core.pc = s.core.pc + BitVec.ofNat 48 x.size ∧ t.core.wait = .none ∧ t.mem = s.mem ∧ Holds t cl slot h .pending refs

/-- A copy request joins the engine's queue: it holds its tiles (owner 8) and its promise follows the queue's (18 R312, R316, R326). -/
def Queued (op : Nat) (o : Eng) (x : Ins) (slot bytes : Nat) (tiles : List Nat) (s t : State) : Prop :=
  let cl := s.cur / 8
  ∃ lat, let p := max s.cycle.toNat (getCl s cl).promise + 24 + (bytes + 127) / 128 + lat
    Accepted o x slot (if op = 3 then 0 else 2) (if op = 3 then 2 else 1) p s t ∧ (getCl t cl).promise = p ∧
    (∀ n, ownerOf t cl n = if n ∈ tiles then 8 else ownerOf s cl n) ∧
    ∃ q, (getCl t cl).copies = (getCl s cl).copies ++ [q] ∧ q.op = op ∧ q.core = s.cur ∧ q.done = false ∧ q.tiles = tiles ∧
      q.handle = newHandle s cl slot (if op = 3 then 0 else 2) ∧ q.pos = 0 ∧ q.fail = none ∧
      (op = 3 → ∃ g, t.gangs = s.gangs ++ [g] ∧ q.next = some g.gid ∧ g.contTile = some (ptrVa q.dst) ∧ g.arg1 = ownHandle s s.cur)

/-- The operands of `tread`, `twrite` and `treads` pass the checks of 18 R316 and R321: an own tile, and rows outside every window. -/
def TileOperands (op : Nat) (o : Eng) (s : State) : Prop :=
  let c := s.core
  let p0 := paramWord o c 0
  let p1 := paramWord o c 1
  let tp := c.getG (p0 % 64)
  let mp := c.getG (p0 / 64 % 64)
  let stride := (c.getG (p0 / 4096 % 64)).toNat
  copyBad op o s = false ∧ plainPointer tp ∧ ptrOk true mp = true ∧
  0xFFFFFFC00000 ≤ effective tp 0 ∧ effective tp 0 % 4096 = 0 ∧ effective tp 0 < 0xFFFFFFFC0000 ∧ effective mp 0 % 8 = 0 ∧ stride % 8 = 0 ∧
  effective mp 0 + (p1 / 256 % 32 + 1) * stride + p1 % 256 ≤ 0xFFFFFFC00000 ∧
  ownerOf s (s.cur / 8) ((effective tp 0 - 0xFFFFFFC00000) / 4096) = s.cur % 8 ∧ bitOf o.flags.toNat 3 = false

/-- The copy engine takes a request of the active core now: the core has fewer than 32 outstanding (18 R311), no store of it is
without its acknowledgement (18 R312), and no record of the engine waits for its buffer (24 R385). -/
def Accepts (s : State) : Prop :=
  outstanding s s.cur < 32 ∧ storesOut s s.cur none = false ∧ stalledSrc s (512 + s.cur / 8) = false

/-- A tile operation is accepted where the engine takes requests of the core, and otherwise waits for it with what its checks
made of its operands. -/
def TileRequests (ins : Eng → Instr) (op : Nat) : Prop :=
  ∀ (o : Eng) (s : State) (k : Cont) (slot : Nat), let x := engIns op o (copyRegs op o s.core)
    let p1 := paramWord o s.core 1
    let tile := (effective (s.core.getG (paramWord o s.core 0 % 64)) 0 - 0xFFFFFFC00000) / 4096
    Issues x s k → s.core.cont = none → s.core.wait = .none → s.core.wbuf = [] → Untraced s → TileOperands op o s → Room s (s.cur / 8) slot →
    (Accepts s → ∃ t, exec (ins o) s = .next t ∧ Queued op o x slot ((p1 / 256 % 32 + 1) * (p1 % 256)) [tile] s t) ∧
    (¬ Accepts s → ∃ q, prepTile op o (started x k s) = .ok (some q, started x k s) ∧ q.tiles = [tile] ∧
      exec (ins o) s = .next { started x k s with core := { (started x k s).core with wait := .engine q o } })

/-- 18 R311, R312, R316, R321, R322: `tread`, `twrite` and `treads`, and the engine's turn to a request that waited. -/
def TileEngineSpec : Prop :=
  TileRequests .tread 1 ∧ TileRequests .twrite 2 ∧ TileRequests .treads 3 ∧
  (∀ (o : Eng) (s s1 : State) (k : Cont) (slot : Nat) (q : Copy), let x := engIns 1 o (copyRegs 1 o s.core)
    let p1 := paramWord o s.core 1
    let tile := (effective (s.core.getG (paramWord o s.core 0 % 64)) 0 - 0xFFFFFFC00000) / 4096
    Issues x s k → s.core.cont = none → s.core.opening = none → s.core.wbuf = [] → Untraced s → TileOperands 1 o s →
    prepTile 1 o s = .ok (some q, s1) → s.core.wait = .engine q o → Room s (s.cur / 8) slot → Accepts s →
    ∃ t, exec (.copyAccept s.cur) s = .next t ∧ Queued 1 o x slot ((p1 / 256 % 32 + 1) * (p1 % 256)) [tile] s t)

/-- A tensor copy or a list operation whose checks give the request `q`. -/
def CopyRequests (ins : Eng → Instr) (op : Nat) (prep : Eng → Ins → M (Option Copy)) (bytes : Copy → Nat) : Prop :=
  ∀ (o : Eng) (s s1 : State) (k : Cont) (slot : Nat) (q : Copy), let x := engIns op o (copyRegs op o s.core)
    Issues x s k → s.core.cont = none → s.core.wait = .none → s.core.wbuf = [] → copyBad op o s = false → prep o x (started x k s) = .ok (some q, s1) →
    Accepts s1 → s1.core.wbuf = [] → Sent s1 → Untraced s1 → Room s1 (s.cur / 8) slot →
    q.op = op ∧ q.core = s.cur ∧ q.done = false ∧ s1.mem = s.mem ∧ s1.core.g = s.core.g ∧
    ∃ t, exec (ins o) s = .next t ∧ Queued op o x slot (bytes q) q.tiles s1 t

/-- Bytes of a tensor copy in its promise: those of its wider side (18 R326). -/
def tensorBytes (q : Copy) : Nat :=
  let half := fun (f : Nat) => if f = 13 then 1 else 2 * fmtSize f
  (q.count * max (half q.sfmt) (half q.dfmt) + 1) / 2

/-- 18 R317 to R320, R323, R324: `tcopy`, `tscat` and `tgath` are accepted once their checks pass; reserved parameter words raise
cause 1. -/
def CopyEngineSpec : Prop :=
  CopyRequests .tcopy 0 prepTcopy tensorBytes ∧
  CopyRequests .tscat 4 (prepList 4) (fun q => q.list.length * q.rowb) ∧
  CopyRequests .tgath 5 (prepList 5) (fun q => q.list.length * q.rowb) ∧
  (∀ (o : Eng) (s : State),
    let s0 := settleXsts s
    (copyBad 0 o s0 = true → let x := engIns 0 o (copyRegs 0 o s.core)
      exec (.tcopy o) s = .next (takeTrap s0 x.size { code := 1, tval := BitVec.ofNat 64 x.body1 })) ∧
    (copyBad 4 o s0 = true → let x := engIns 4 o (copyRegs 4 o s.core)
      exec (.tscat o) s = .next (takeTrap s0 x.size { code := 1, tval := BitVec.ofNat 64 x.body1 })))

end Sys2Proof.Machine

/-- 18 R311 to R324, R326: the requests that the copy engine accepts. -/
def Obligations.EngineRequests : Prop := TileEngineSpec ∧ CopyEngineSpec

namespace Sys2Proof.Machine

/-- The bytes of row `m` of a tile, from offset `off` on. -/
def tileBytes (s : State) (cl tile off n : Nat) : List Byte := memRead s.mem (2 ^ 42 + cl * 2 ^ 22 + 4096 * tile + off) n

end Sys2Proof.Machine

/-- 18 R313, R315, R321, R325: the request at the head of its engine performs its accesses and finishes: it leaves the queue, its
tiles go back to the core, and its entry is RESOLVED with its value, or POISONED with the cause that an access met. A row of
`tread` lands at 128 bytes a row, filled up with zeros; a `twrite` writes its rows, doubleword by doubleword, at their addresses. -/
def Obligations.CopyCompletion : Prop :=
  (∀ (s : State) (cl slot : Nat) (q q1 : Copy) (rest : List Copy) (e : Entry) (s1 : State),
    (getCl s cl).copies = q :: rest → q.done = false → s.dirtyHeld.contains (cl, q.id) = false → stalledSrc s (512 + cl) = false →
    q.op < 6 → q.next = none → q.task = none → q.recv = none → rest.all (fun x => x.id != q.id) = true →
    copyRun cl q s = (none, q1, s1) → q1.done = true → q1.out = [] → stalledSrc s1 (512 + cl) = false → Untraced s1 →
    List.find? (fun p => p.2.handle == q.handle) (getCl s (hHome q.handle)).ft = some (slot, e) → e.handle = q.handle → e.st = .pending →
    0 < e.refs → s.drops.contains q.handle = false →
    ∃ t, exec (.copyComplete cl 0) s = .next t ∧ (getCl t cl).copies = rest ∧ t.mem = s1.mem ∧ t.core.g = s.core.g ∧
      (∀ n, n ∈ q.tiles ∨ (q.op ≠ 0 ∧ n = q.tile) → ownerOf t cl n = q.core % 8) ∧
      (q1.fail = none → ∃ e1, (getCl t (hHome q.handle)).ft.find? slot = some e1 ∧ e1.st = .resolved ∧ e1.value = BitVec.ofNat 64 q1.value) ∧
      (∀ m c, q1.fail = some (m, c) → ∃ e1, (getCl t (hHome q.handle)).ft.find? slot = some e1 ∧ e1.st = .poisoned ∧ e1.code = c % 256)) ∧
  (∀ (s s1 : State) (q : Copy) (cl m : Nat) (b : List Byte), engRead q.tiles q.agent ((ptrVa q.src + m * q.stride) % 2 ^ 48) q.rowb s = .ok (b, s1) →
    b.length = q.rowb → q.rowb ≤ 128 → m < 32 →
    ∃ s2, fillRows q cl 1 m s = (none, s2) ∧ tileBytes s2 cl q.tile (128 * m) 128 = b ++ List.replicate (128 - q.rowb) 0 ∧
      (∀ a, ¬ (2 ^ 42 + cl * 2 ^ 22 + 4096 * q.tile + 128 * m ≤ a ∧ a < 2 ^ 42 + cl * 2 ^ 22 + 4096 * q.tile + 128 * m + 128) →
        memGet s2.mem a = memGet s1.mem a)) ∧
  (∀ (s s1 : State) (q : Copy) (cl : Nat), q.op = 2 → q.rows = 1 → q.rowb = 8 → q.pos = 0 →
    engWrite q.tiles q.agent (ptrVa q.src) (tileBytes s cl q.tile 0 8) s = .ok ((), s1) →
    copyRun cl q s = (none, { q with done := true }, s1)) ∧
  (∀ (s : State) (cl tile base stride rowb rows m j : Nat), rowb % 8 = 0 → m < rows → 8 * j < rowb →
    (rowDwords s cl tile base stride rowb rows)[m * (rowb / 8) + j]? =
      some ((base + m * stride + 8 * j) % 2 ^ 48, tileBytes s cl tile (128 * m + 8 * j) 8))

namespace Sys2Proof.Machine

/-- A `sscan` record that has been read, with its pointers and strides checked (16 R301). -/
def ScanRecord (o : Eng) (x : Ins) (s0 : State) (dw : Nat → Nat) (t : State) : Prop :=
  let c := s0.core
  let va := paramWord o c 1 % 65536 * 2 ^ 32 + paramWord o c 0
  let z := bitOf (paramWord o c 2) 4
  let ptrs := (List.range 7).zip ((List.range 7).map (fun i => BitVec.ofNat 64 (dw i)))
  va % 64 = 0 ∧ winFits va 128 = true ∧
  (∃ es s1 l bad, checkElems 1 8 ((List.range 16).map (fun i => (i, vaAdd va ((8 * i : Nat) : Int)))) s0 = .ok (es, s1) ∧
    storesOut s1 s1.cur none = false ∧ spillWaits s1 s1.core.ctx.toNat (clusterOf s1.cur) = false ∧ readArr es 8 x.size s1 = .ok (some (l, bad), t) ∧ ∀ i, i < 16 → dw i = ofLe (bytesAt l i)) ∧
  checkPtrs z ptrs t = .ok ((), t) ∧ checkVas z ptrs t = .ok ((), t) ∧
  dw 7 % 2 ^ 32 % fmtSize (ptrFmt (BitVec.ofNat 64 (dw 1))) = 0 ∧ dw 7 / 2 ^ 32 % 4 = 0 ∧
  dw 8 % 2 ^ 32 % fmtSize (ptrFmt (BitVec.ofNat 64 (dw 2))) = 0 ∧ dw 8 / 2 ^ 32 % fmtSize (ptrFmt (BitVec.ofNat 64 (dw 3))) = 0

end Sys2Proof.Machine

/-- 16 R288, R299 to R305: `sscan` of a task that declares the block takes the units with the operands it read; without that, or
with a reserved parameter, it raises cause 1; while another request holds the units it waits. -/
def Obligations.ScanRequests : Prop :=
  ∀ (o : Eng) (s : State) (k : Cont), let x := { engIns 6 o [] with units := true }
    let c := s.core
    let s0 := settleXsts s
    (∀ (dw : Nat → Nat) (s2 : State) (slot : Nat), Issues x s k → s.core.cont = none → s.core.wait = .none → Free s → scanBad o c = false → declSsb s = true →
      ScanRecord o x (started x k s) dw s2 → s2.core.wbuf = [] → Sent s2 → Room s2 (s.cur / 8) slot →
      ∃ t q, exec (.sscan o) s = .next t ∧ Accepted o x slot 2 1 (q.promise s2.cycle.toNat) s2 t ∧
        t.core.ssb = some q ∧ q.handle = newHandle s2 (s.cur / 8) slot 2 ∧ q.lvl = c.priv ∧ q.len = paramWord o c 1 / 65536 ∧
        q.q = (if bitOf (paramWord o c 2) 0 then 32 else 16) ∧ q.n = (if bitOf (paramWord o c 2) 5 then 32 else 16) ∧
        q.p = 16 * (paramWord o c 2 / 64 % 8 + 1) ∧ q.heads = paramWord o c 3 + 1 ∧ q.thr = c.ssbthr.toNat ∧
        (∀ i, i < 7 → q.ptr i = BitVec.ofNat 64 (dw i)) ∧ q.head = 0 ∧ q.chunk = 0 ∧ q.h = none) ∧
    (Free s → scanBad o s0.core = true ∨ declSsb s0 = false →
      exec (.sscan o) s = .next (takeTrap s0 x.size { code := 1, tval := BitVec.ofNat 64 x.body1 })) ∧
    (s.core.ssb.isSome → exec (.sscan o) s = .next { s with core := { s.core with wait := .issue } })

/-- 16 R290 to R294, R303: a chunk reads its operands from the state it starts at, computes by the form that R291 chooses, and writes
its rows of Y: every operand of a chunk is read before (one of the two outcomes that R306 allows, log 66); the next chunk starts from its state. The last chunk of a head writes H_end, that of the last head resolves the
entry with the counts of chunks by form. A scan that was asked to stop writes its state to H_end after the chunk (R308); one that the task has taken up again while that
write waited reads the state back after it (R310). A decay is exp2 of λ clamped to [-150, 0]. -/
def Obligations.ScanChunks : Prop :=
  (∀ (s s1 s2 s3 : State) (v : Nat) (q : Scan) (i : ChunkIn) (h : List (List Nat)), let a : Agent := ⟨v, (getCore s v).ctx.toNat, q.lvl⟩
    let n := min q.q (q.len - q.chunk * q.q)
    let mat := if q.pol = 0 then decide (q.thr ≤ n) else q.pol == 1
    let out := if mat then matrixForm q.fp32 q.n q.p i h else stepForm (if q.n = 16 then 4 else 5) q.p i h
    let row := q.strides.getD 3 0
    let q1 := { q with
      chunk := q.chunk + 1, h := some (packRows out.1), mcount := q.mcount + b2n mat, scount := q.scount + b2n (!mat), mat := mat, todo := [] }
    let ends := fun (s4 : State) => ssbWrites a (rowsAt (q.base 5) (4 * q.p) 4 q.p (stateRows q (packRows out.1)))
      (emit s3 v (getCore s v).ctx.toNat 0x8C 4 0 (b2n mat + 2 * (q.chunk % 65536)) (some (q.handle.toNat, q.head))) = (none, s4)
    (getCore s v).ssb = some q → q.phase = 0 → scanStill s v q = false → 0 < q.q → q.chunk * q.q < q.len →
    startState a q s = .ok (h, s1) → chunkIn a q (q.chunk * q.q) n s1 = .ok (i, s2) →
    ssbWrites a (rowsAt (q.base 6 + ((q.chunk * q.q * row : Nat) : Int)) row 4 q.p out.2) s2 = (none, s3) → scanStill s3 v q = false → Untraced s3 →
    ((q.chunk + 1) * q.q < q.len → q.stop = 0 →
      ∃ t, exec (.sscanChunk v) s = .next t ∧ t.mem = s3.mem ∧ (getCore t v).g = (getCore s v).g ∧ (getCore t v).ssb = some q1) ∧
    (∀ s4, (q.chunk + 1) * q.q < q.len → q.stop = 1 → ends s4 →
      ∃ t, exec (.sscanChunk v) s = .next t ∧ t.mem = s4.mem ∧ (getCore t v).ssb = some { q1 with h := none, stop := 2 }) ∧
    (∀ s4, q.len ≤ (q.chunk + 1) * q.q → q.head + 1 < q.heads → ends s4 →
      ∃ t, exec (.sscanChunk v) s = .next t ∧ t.mem = s4.mem ∧
        (getCore t v).ssb = some { q1 with head := q.head + 1, chunk := 0, h := none, stop := 2 * q.stop }) ∧
    (∀ (s4 : State) (slot : Nat) (e : Entry), q.len ≤ (q.chunk + 1) * q.q → q.heads = q.head + 1 → ends s4 →
      List.find? (fun p => p.2.handle == q.handle) (getCl s (hHome q.handle)).ft = some (slot, e) → e.handle = q.handle → e.st = .pending →
      0 < e.refs → s.drops.contains q.handle = false →
      ∃ t, exec (.sscanChunk v) s = .next t ∧ t.mem = s4.mem ∧ (getCore t v).ssb = none ∧
        ∃ e1, (getCl t (hHome q.handle)).ft.find? slot = some e1 ∧ e1.st = .resolved ∧
          e1.value = BitVec.ofNat 64 ((q.scount + b2n (!mat)) * 2 ^ 32 + (q.mcount + b2n mat)))) ∧
  (∀ (s s1 s2 : State) (v : Nat) (q : Scan) (h : List (List Nat)), let a : Agent := ⟨v, (getCore s v).ctx.toNat, q.lvl⟩
    (getCore s v).ssb = some q → q.phase = 3 → q.stop = 0 → scanStill s v q = false → ssbWrites a q.todo s = (none, s1) →
    readState a q 5 s1 = .ok (h, s2) →
    ∃ t, exec (.sscanChunk v) s = .next t ∧ t.mem = s2.mem ∧
      (getCore t v).ssb = some { q with todo := [], phase := 0, h := some (packRows h) }) ∧
  (∀ x : FVal, x.Finite → (clampLam x).Finite ∧ (clampLam x).rat = max (-150) (min x.rat 0))

/-! Tasks and futures (10; 11) -/

namespace Sys2Proof.Machine

/-- The table entry of cluster `cl` under `slot`. -/
def entryAt (s : State) (cl slot : Nat) : Option Entry := (getCl s cl).ft.find? slot

/-- `h` is a handle of this node and of the core's context that names the on-chip entry `e`, which stands under `slot`. -/
def Names (s : State) (h : Word) (slot : Nat) (e : Entry) : Prop :=
  hNode h = s.fab.own.toNat ∧ hCtx h = s.core.ctx.toNat ∧ hKind h ≤ 3 ∧ e.handle = h ∧ entryAt s (hHome h) slot = some e ∧
  List.find? (fun p => p.2.handle == h) (getCl s (hHome h)).ft = some (slot, e)

/-- A finished entry after one reference has been released, without waiters: FREE with the last one (10 R212). -/
def lessOne (e : Entry) : Option Entry := if e.refs = 1 then none else some { e with refs := e.refs - 1 }

/-- Nothing but registers, `pc`, L1 and the futures' tables differs: memory, v and k registers are the same, and the pc is past `x`. -/
def Past (x : Ins) (s t : State) : Prop :=
  t.mem = s.mem ∧ t.core.v = s.core.v ∧ t.core.k = s.core.k ∧ t.core.pc = s.core.pc + BitVec.ofNat 48 x.size ∧ t.core.wait = .none

/-- `ins` checks the handle in g(s) before it does anything else (11 R230): a node that cannot be reached raises cause 18 with the node, a
handle of another context or of no kind cause 21 with the handle, and so does one that names nothing; a reachable node is asked, with a reply slot where `slot` holds
(21 R358). -/
def ChecksHandle (ins : TaskOp → Instr) (frame : TaskOp → Ins) (slot : Bool) : Prop :=
  ∀ (o : TaskOp) (s : State) (k : Cont), let x := frame o
    let s0 := started x k s
    let h := s.core.getG o.s.toNat
    Issues x s k →
    (hNode h ≠ s.fab.own.toNat → nodeReach s (hNode h) = false →
      exec (ins o) s = .next (takeTrap s0 x.size { code := 18, tval := BitVec.ofNat 64 (hNode h) })) ∧
    ((hNode h = s.fab.own.toNat ∨ nodeReach s (hNode h) = true) → 3 < hKind h ∨ hCtx h ≠ s.core.ctx.toNat →
      exec (ins o) s = .next (takeTrap s0 x.size { code := 21, tval := h })) ∧
    (∀ s1, hNode h = s.fab.own.toNat → hKind h ≤ 3 → hCtx h = s.core.ctx.toNat → findEntry h s0 = .ok (none, s1) →
      exec (ins o) s = .next (takeTrap s0 x.size { code := 21, tval := h })) ∧
    (hNode h ≠ s.fab.own.toNat → nodeReach s (hNode h) = true → hKind h ≤ 3 → hCtx h = s.core.ctx.toNat →
      canSend s (s.cur / 256) (hNode h) 2 slot = true →
      ∃ t p tag, exec (ins o) s = .next t ∧ t.fab.outbox = s.fab.outbox ++ [p] ∧ p.kind = 5 ∧ p.dst = BitVec.ofNat 10 (hNode h) ∧ p.addr = h ∧
        p.tag = BitVec.ofNat 16 tag ∧ t.core.wait = .reply tag ∧ t.core.pc = s.core.pc ∧ t.core.g = s.core.g ∧ t.mem = s.mem)

/-- 11 R230: the checks of a handle by `tpoll`, `cancel` and `fdrop` (which of them hold a reply slot: log 86). -/
def HandleChecksSpec : Prop :=
  ChecksHandle .tpoll (fun o => taskIns 2 0 o (gr o.s) (gr o.d ++ gr o.t)) true ∧
  ChecksHandle .cancel (fun o => taskIns 6 0 o (gr o.s) []) false ∧ ChecksHandle .fdrop (fun o => taskIns 12 0 o (gr o.s) []) false

/-- What a finished entry gives in registers (11 R236, R238): the value with status 0, or 0 with the status word. -/
def outcome (e : Entry) : Word × Word :=
  match e.st with
  | .resolved => (e.value, 0)
  | .poisoned => (0, BitVec.ofNat 64 (e.code * 256 + 11))
  | _ => (0, 12)

end Sys2Proof.Machine

/-- 11 R236 to R238; 10 R222: `touch`, `touch.soft` and `tpoll` of a finished future give its outcome, release one reference and act
as an acquire; the plain `touch` traps where it is poisoned or cancelled. A task whose cancellation was requested raises cause 12
first, where it does not touch again after a park. Of an unfinished future `tpoll` gives status 1, and a core without a task waits at
issue (the model's choice, log 58). -/
def Obligations.Touches : Prop :=
  ∀ (o : TaskOp) (s : State) (k : Cont) (slot : Nat) (e : Entry),
    let h := s.core.getG o.s.toNat
    let d := o.d.toNat
    let t := o.t.toNat
    Names s h slot e → s.core.cont = none → s.core.wait = .none → waitersOf s h = [] → 0 < e.refs →
    (cancelAsked s = true → s.core.retouch = false → ∀ soft x, x = touchIns soft o → Issues x s k →
      exec (if soft then .touchSoft o else .touch o) s =
        .next (takeTrap (started x k s) x.size { code := 12, tval := ownHandle s s.cur })) ∧
    (e.st.done = true →
      (cancelAsked s = false ∨ s.core.retouch = true → ∀ x, x = touchIns true o → Issues x s k →
        ∃ t1, exec (.touchSoft o) s = .next t1 ∧ Past x s t1 ∧ t1.core.g = ((s.core.setG d (outcome e).1).setG t (outcome e).2).g ∧
          entryAt t1 (hHome h) slot = lessOne e ∧ t1.core.l1 = []) ∧
      (∀ x, x = taskIns 2 0 o (gr o.s) (gr o.d ++ gr o.t) → Issues x s k →
        ∃ t1, exec (.tpoll o) s = .next t1 ∧ Past x s t1 ∧ t1.core.g = ((s.core.setG d (outcome e).1).setG t (outcome e).2).g ∧
          entryAt t1 (hHome h) slot = lessOne e ∧ t1.core.l1 = []) ∧
      (cancelAsked s = false ∨ s.core.retouch = true → ∀ x, x = touchIns false o → Issues x s k →
        (e.st = .resolved → ∃ t1, exec (.touch o) s = .next t1 ∧ Past x s t1 ∧ t1.core.g = (s.core.setG d e.value).g ∧
          entryAt t1 (hHome h) slot = lessOne e ∧ t1.core.l1 = []) ∧
        (e.st = .poisoned →
          exec (.touch o) s = .next (takeTrap (started x k s) x.size { code := 11, sub := e.code, tval := h, carry := some e.code })) ∧
        (e.st = .cancelled → exec (.touch o) s = .next (takeTrap (started x k s) x.size { code := 12, tval := h })))) ∧
    (e.st.done = false →
      (∀ x, x = taskIns 2 0 o (gr o.s) (gr o.d ++ gr o.t) → Issues x s k →
        exec (.tpoll o) s = .next (passesWith x k (fun c => (c.setG d 0).setG t 1) s)) ∧
      (∀ x, x = touchIns false o → Issues x s k → s.core.task = none →
        exec (.touch o) s = .next { s with core := { waiting x k s.core with wait := .issue } }))

namespace Sys2Proof.Machine

/-- The gang of the active core's task, with another member on core `w`, and the entry `own` that the task runs under. -/
def InGang (s : State) (g : Gang) (w : Nat) (own : Entry) : Prop :=
  gangOfCore s s.cur = some g ∧ w ≠ s.cur ∧ (∃ m m1, g.onCores = [(m, s.cur), (m1, w)] ∨ g.onCores = [(m1, w), (m, s.cur)]) ∧
  g.stopping = 0 ∧ gangScans s g = false ∧ storeCopies s g = false ∧ ownEntry s s.cur = some own ∧
  stopped (getCore s w).wait = false ∧ g.gid = ((s.core.task.map (fun r => r.gid)).getD 0)

end Sys2Proof.Machine

/-- 10 R209; 11 R237, R243; 04 R98: a member that touches an unfinished future joins its waiters, closes its windows and stops, and
one that yields closes and stops too; the other members will stop at their next boundary that admits it; a task whose cancellation was requested raises cause 12 instead. -/
def Obligations.Parks : Prop :=
  ∀ (o : TaskOp) (s : State) (k : Cont) (g : Gang) (w : Nat) (own : Entry), InGang s g w own → s.core.cont = none → s.core.retouch = false →
    let stops := fun (t : State) => (getCore t w).pend.preempt = true ∧ (getCore t w).pc = (getCore s w).pc ∧ t.mem = s.mem ∧
      t.core.g = s.core.g ∧ t.core.pc = s.core.pc
    (∀ (slot : Nat) (e : Entry), Names s (s.core.getG o.s.toNat) slot e → e.st.done = false →
      (own.creq = false → ∀ soft x, x = touchIns soft o → Issues x s k →
        ∃ t, exec (if soft then .touchSoft o else .touch o) s = .next t ∧ stops t ∧ t.core.wait = .park (s.core.getG o.s.toNat) ∧
          ⟨s.core.getG o.s.toNat, waiterRef s⟩ ∈ t.waits ∧
          ∃ g1, gangOf t g.gid = some g1 ∧ g1.stopping = 1 ∧ g1.touched = s.core.getG o.s.toNat) ∧
      (own.creq = true → ∀ x, x = touchIns false o → Issues x s k →
        exec (.touch o) s = .next (takeTrap (started x k s) x.size { code := 12, tval := ownHandle s s.cur }))) ∧
    (∀ x, x = taskIns 9 0 o [] [] → Issues x s k →
      (own.creq = false → ∃ t, exec (.tyield o) s = .next t ∧ stops t ∧ t.core.wait = .yield x.size) ∧
      (own.creq = true →
        exec (.tyield o) s = .next (takeTrap (started x k s) x.size { code := 12, tval := ownHandle s s.cur })))

namespace Sys2Proof.Machine

/-- 10 R217; 11 R235: `fnew` makes a PENDING promise of the running task with 1 to 4 references and the context's next sequence
number, in the lowest free slot, and writes its handle; what the first number is, and the parent of a gang task's entry, is the
model's choice (log 43). -/
def PromisesSpec : Prop :=
  ∀ (o : TaskOp) (s : State) (k : Cont) (slot : Nat), let x := taskIns 3 0 o [] (gr o.d)
    let cl := s.cur / 8
    let h := newHandle s cl slot 1
    Issues x s k → s.core.cont = none → s.core.wait = .none → Room s cl slot →
    ∃ t e, exec (.fnew o) s = .next t ∧ Past x s t ∧ t.core.g = (s.core.setG o.d.toNat h).g ∧ entryAt t cl slot = some e ∧
      e.handle = h ∧ e.st = .pending ∧ e.kind = 1 ∧ e.refs = 1 + o.fl.toNat % 4 ∧ e.parent = parentOf s ∧
      e.seq = ((getCtx s s.core.ctx.toNat).seq + 1).toNat ∧ (getCtx t s.core.ctx.toNat).seq = (getCtx s s.core.ctx.toNat).seq + 1

/-- 10 R213, R214; 11 R239: `resolve` and `poison` finish a pending promise after what the core has stored, which they wait for
where it is on its way to another node (23 R372), and have no effect on a finished one; a handle of another kind, and a code of 0,
raise cause 21. `poison.self` sets the code that the task carries, and changes nothing for a core that runs none. -/
def SettlingSpec : Prop :=
  (∀ (o : TaskOp) (s : State) (k : Cont) (slot : Nat) (e : Entry),
    let h := s.core.getG o.s.toNat
    let v := s.core.getG o.t.toNat
    Names s h slot e → s.core.cont = none → s.core.wait = .none → waitersOf s h = [] → 0 < e.refs → s.drops.contains h = false →
    (∀ x, x = taskIns 4 0 o (gr o.s ++ gr o.t) [] → Issues x s k →
      (hKind h = 1 → storesOut s s.cur none = true →
        exec (.resolve o) s = .next { s with core := { waiting x k s.core with wait := .issue } }) ∧
      (hKind h = 1 → storesOut s s.cur none = false →
        ∃ t, exec (.resolve o) s = .next t ∧ Past x (released 1 2 (started x k s)) t ∧ t.core.g = s.core.g ∧
        entryAt t (hHome h) slot = some (if e.st.done then e else { e with st := .resolved, value := v, code := 0 })) ∧
      (hKind h ≠ 1 → exec (.resolve o) s = .next (takeTrap (started x k s) x.size { code := 21, tval := h }))) ∧
    (∀ x, x = taskIns 5 0 o (gr o.s ++ gr o.t) [] → Issues x s k →
      (hKind h = 1 → v.toNat % 256 ≠ 0 → storesOut s s.cur none = false →
        ∃ t, exec (.poison o) s = .next t ∧ Past x (released 1 2 (started x k s)) t ∧ t.core.g = s.core.g ∧
        entryAt t (hHome h) slot = some (if e.st.done then e else { e with st := .poisoned, value := 0, code := v.toNat % 256 })) ∧
      (v.toNat % 256 = 0 → exec (.poison o) s = .next (takeTrap (started x k s) x.size { code := 21, tval := h })))) ∧
  (∀ (o : TaskOp) (s : State) (k : Cont), let x := taskIns 5 1 o (gr o.t) []
    let v := s.core.getG o.t.toNat
    Issues x s k → s.core.cont = none → s.core.wait = .none →
    (∀ cl own e, ownSlot s s.cur = some (cl, own) → entryAt s cl own = some e →
      ∃ t, exec (.poisonSelf o) s = .next t ∧ Past x s t ∧ t.core.g = s.core.g ∧
        entryAt t cl own = some { e with carried := v.toNat % 256 }) ∧
    (ownSlot s s.cur = none → exec (.poisonSelf o) s = .next (passes x k s)))

/-- 10 R213, R222, R223; 11 R240, R241: `cancel` of a pending promise cancels it, of a running task asks it to end, and has no effect
otherwise; `cancel.deep` does the same to every entry whose chain of parents reaches it. `tcheck` reads what the task has been
asked and carries; `fdrop` releases one reference. -/
def CancellingSpec : Prop :=
  (∀ (o : TaskOp) (s : State) (k : Cont) (slot : Nat) (e : Entry),
    let h := s.core.getG o.s.toNat
    let after := fun (e : Entry) =>
      if e.st = .pending ∧ e.kind ≤ 1 then { e with st := .cancelled, value := 0, code := 0 }
      else if e.st = .running then { e with creq := true } else e
    Names s h slot e → s.core.cont = none → s.core.wait = .none → waitersOf s h = [] → s.drops.contains h = false →
    (0 < e.refs → s.gangs.all (fun g => g.members.all (fun m => m.fut != h)) = true → ∀ x, x = taskIns 6 0 o (gr o.s) [] → Issues x s k →
      ∃ t, exec (.cancel o) s = .next t ∧ Past x s t ∧ t.core.g = s.core.g ∧ entryAt t (hHome h) slot = some (after e)) ∧
    (∀ (x : Ins) (slot1 : Nat) (e1 : Entry) (s1 : State), x = taskIns 6 1 o (gr o.s) [] → Issues x s k → s.gangs = [] →
      allEntries (hCtx h) (hears (started x k s) (576 + hHome h) s.cur) = .ok ([(.chip (hHome h) slot, e), (.chip (hHome e1.handle) slot1, e1)], s1) →
      Names s1 h slot e → Names s1 e1.handle slot1 e1 → e1.handle ≠ h → slot1 ≠ slot ∨ hHome e1.handle ≠ hHome h →
      e1.parent = h → waitersOf s1 h = [] → waitersOf s1 e1.handle = [] → s1.drops = [] → s1.gangs = [] → 0 < e.refs → 0 < e1.refs →
      ∃ t, exec (.cancelDeep o) s = .next t ∧ t.core.g = s1.core.g ∧ t.core.pc = s1.core.pc + BitVec.ofNat 48 x.size ∧ t.mem = s1.mem ∧
        entryAt t (hHome h) slot = some (after e) ∧ entryAt t (hHome e1.handle) slot1 = some (after e1)) ∧
    (∀ x, x = taskIns 12 0 o (gr o.s) [] → Issues x s k →
      (0 < e.refs → ∃ t, exec (.fdrop o) s = .next t ∧ Past x s t ∧ t.core.g = s.core.g ∧
        entryAt t (hHome h) slot = if e.st.done ∧ e.refs = 1 then none else some { e with refs := e.refs - 1 }) ∧
      (e.refs = 0 → exec (.fdrop o) s = .next (takeTrap (started x k s) x.size { code := 21, tval := h })))) ∧
  (∀ (o : TaskOp) (s : State) (k : Cont), let x := taskIns 7 0 o [] (gr o.d)
    Issues x s k →
    (∀ e, ownEntry s s.cur = some e →
      exec (.tcheck o) s = .next (passesWith x k (fun c => c.setG o.d.toNat (BitVec.ofNat 64 (e.carried * 256 + b2n e.creq))) s)) ∧
    (ownEntry s s.cur = none → exec (.tcheck o) s = .next (passesWith x k (fun c => c.setG o.d.toNat 0) s)))

end Sys2Proof.Machine

/-- 10 R211 to R217, R222, R223; 11 R230, R235, R239 to R241: promises, their finish, cancellation, and the checks of a handle. -/
def Obligations.FutureOperations : Prop := HandleChecksSpec ∧ PromisesSpec ∧ SettlingSpec ∧ CancellingSpec

/-- 10 R200, R201; 11 R232 to R234: `spawn`, and `spawn.far` with this node's own number, place a record and give its handle; a locked
gate raises cause 17, an invalid context 21, a cancelled task 12. Placement on an own cluster gives a PENDING entry of kind 0
with a task's and its creator's reference, which the device gives back itself where g0 is named; one in the global queue stands
at its tail. `spawn.far` to another node sends the record there and waits. A store on its way to another node, and an entry that would
be spilled by a scheduler that stalls (24 R385), hold both back. -/
def Obligations.Spawns : Prop :=
  (∀ (o : TaskOp) (far : Bool) (s : State) (k : Cont) (h : Word) (s2 : State),
    let sn := o.s.toNat
    let x := taskIns 0 (4 * b2n far) o (regsOf .g sn ++ regsOf .g (sn + 1) ++ regsOf .g (sn + 2) ++ gr o.t) (gr o.d)
    let s0 := started x k s
    let tv := (s.core.getG o.t.toNat).toNat
    let ctx := s.core.ctx.toNat
    let ins : Instr := if far then .spawnFar o else .spawn o
    Issues x s k → (far = true → fld tv 25 16 = s.fab.own.toNat) →
    (o.fl.toNat % 4 = 3 → samePart s (s.cur / 64) (tv % 64 / 8) = false →
      exec ins s = .next (takeTrap s0 x.size { code := 17, tval := BitVec.ofNat 64 (tv % 64) })) ∧
    (o.fl.toNat % 4 ≠ 3 ∨ samePart s (s.cur / 64) (tv % 64 / 8) = true →
      (ctxValid s0 ctx = false → exec ins s = .next (takeTrap s0 x.size { code := 21, tval := s.core.getG sn })) ∧
      (ctxValid s0 ctx = true → cancelAsked s0 = true →
        exec ins s = .next (takeTrap s0 x.size { code := 12, tval := ownHandle s0 s.cur })) ∧
      (ctxValid s0 ctx = true → cancelAsked s0 = false →
          storesOut s s.cur none = true ∨ spillWaits s0 ctx (spawnHome s0 ctx (o.fl.toNat % 4) (tv % 64) (s.cur / 8) (s.core.getG sn)) = true →
        exec ins s = .next { s0 with core := { s0.core with wait := .issue } }) ∧
      (ctxValid s0 ctx = true → cancelAsked s0 = false → storesOut s s.cur none = false →
        spillWaits s0 ctx (spawnHome s0 ctx (o.fl.toNat % 4) (tv % 64) (s.cur / 8) (s.core.getG sn)) = false → let sd := released 1 2 s0
        spawnAt ctx (o.fl.toNat % 4) (tv % 64) (s.cur / 8) (s.core.getG sn) (s.core.getG (sn + 1)) (s.core.getG (sn + 2))
          (parentOf sd) (b2n (o.fl.getLsbD 3)) (o.d != 0) sd = .ok (h, s2) →
        let u := hearSpawn s2 h s2.cur
        exec ins s = .next (onward x k { u with core := u.core.setG o.d.toNat h }))))
  ∧ (∀ (s s2 : State) (named slot extra : Nat) (dw0 a0 a1 parent h : Word) (keep : Bool), let cl := s.cur / 8
    Room s cl slot → spawnAt s.core.ctx.toNat 1 named cl dw0 a0 a1 parent extra keep s = .ok (h, s2) → h = newHandle s cl slot 0) ∧
  (∀ (s : State) (named near slot extra : Nat) (dw0 a0 a1 parent : Word) (keep : Bool), let cl := s.cur / 8
    Room s cl slot → chooseCluster s s.core.ctx.toNat 0 named cl dw0.toNat = (near, true) →
    ∃ t g, spawnAt s.core.ctx.toNat 0 named cl dw0 a0 a1 parent extra keep s = .ok (newHandle s cl slot 0, t) ∧
      t.drops = (if keep then s.drops else s.drops ++ [newHandle s cl slot 0]) ∧
      Holds t cl slot (newHandle s cl slot 0) .pending (2 + extra) ∧ t.gangs = s.gangs ++ [g] ∧ g.dw0 = dw0 ∧ g.arg0 = a0 ∧ g.arg1 = a1 ∧
      ((t.bqes.getD (near / 8) Bqe.reset).tasks = (s.bqes.getD (near / 8) Bqe.reset).tasks ++ [g.gid]) ∧ t.mem = s.mem) ∧
  (∀ (o : TaskOp) (s : State) (k : Cont),
    let sn := o.s.toNat
    let x := taskIns 0 4 o (regsOf .g sn ++ regsOf .g (sn + 1) ++ regsOf .g (sn + 2) ++ gr o.t) (gr o.d)
    let node := fld (s.core.getG o.t.toNat).toNat 25 16
    Issues x s k → node ≠ s.fab.own.toNat → nodeReach s node = true → cancelAsked (started x k s) = false → storesOut s s.cur none = false →
    canSend s (s.cur / 256) node 2 true = true → s.core.wbuf = [] →
    ∃ t p tag, exec (.spawnFar o) s = .next t ∧ t.fab.outbox = s.fab.outbox ++ [p] ∧ p.kind = 4 ∧ p.dst = BitVec.ofNat 10 node ∧
      p.data.take 24 = leBytes 8 (s.core.getG sn).toNat ++ leBytes 8 (s.core.getG (sn + 1)).toNat ++ leBytes 8 (s.core.getG (sn + 2)).toNat ∧
      p.tag = BitVec.ofNat 16 tag ∧ t.core.wait = .reply tag ∧ t.core.g = s.core.g ∧ t.core.pc = s.core.pc)

namespace Sys2Proof.Machine

/-- A task of its own, on the active core, without tiles, scans or requests that its end waits for. -/
def Alone (s : State) (g : Gang) (m : Member) (cl slot : Nat) (e : Entry) : Prop :=
  s.core.task = some ⟨g.gid, m.rank⟩ ∧ s.gangs = [g] ∧ g.members = [m] ∧ m.slot = some (cl * 1024 + slot) ∧ slot < 1024 ∧
  m.ended = false ∧ m.core = some s.cur ∧ g.grid = none ∧
  entryAt s cl slot = some e ∧ List.find? (fun p => p.2.handle == e.handle) (getCl s (hHome e.handle)).ft = some (slot, e) ∧
  hHome e.handle = cl ∧ e.st = .running ∧ 1 < e.refs ∧ waitersOf s e.handle = [] ∧ s.drops = [] ∧ s.core.ssb = none ∧ s.xsts = [] ∧
  (getCl s (s.cur / 8)).owners = [] ∧ (getCl s (s.cur / 8)).copies = []

end Sys2Proof.Machine

/-- 10 R208, R212, R214; 11 R242: at H `tend` raises cause 2, and cause 21 where the task's entry has no reference left to release;
otherwise the core becomes free (one without a task too: the model's choice, log 58) and the task's entry finishes: poisoned with the
code it carries, cancelled where that was asked, poisoned with the cause of the handler it ends in at K (cancelled for cause 12),
else resolved with g(s); one reference, the task's, is released. -/
def Obligations.TaskEnds : Prop :=
  ∀ (o : TaskOp) (s : State) (k : Cont), let x := taskIns 8 0 o (gr o.s) []
    (let s0 := settleXsts s
     s0.core.priv = .h → exec (.tend o) s = .next (takeTrap s0 x.size { code := 2, tval := BitVec.ofNat 64 x.body1 })) ∧
    (Issues x s k → s.core.priv ≠ .h → s.core.task = none → tendWaits s = false → s.core.wbuf = [] → s.xsts = [] → s.core.mode = .run →
      ∃ t, exec (.tend o) s = .next t ∧ t.mem = s.mem ∧ t.core.task = none ∧ t.core.mode = .idle ∧ t.core.g = s.core.g) ∧
    (∀ e, Issues x s k → s.core.priv ≠ .h → ownEntry s s.cur = some e → e.refs = 0 →
      exec (.tend o) s = .next (takeTrap (started x k s) x.size { code := 21, tval := e.handle })) ∧
    (∀ g m cl slot e, Issues x s k → s.core.priv ≠ .h → Alone s g m cl slot e → Untraced s → storesOut s s.cur none = false → s.core.wbuf = [] →
      s.core.mode = .run →
      ∃ t e1, exec (.tend o) s = .next t ∧ t.mem = s.mem ∧ t.core.task = none ∧ t.core.mode = .idle ∧ t.gangs = [] ∧
        entryAt t cl slot = some e1 ∧ e1.handle = e.handle ∧ e1.refs = e.refs - 1 ∧
        (e.carried ≠ 0 → e1.st = .poisoned ∧ e1.code = e.carried % 256) ∧
        (e.carried = 0 → e.creq = true → e1.st = .cancelled) ∧
        (e.carried = 0 → e.creq = false → s.core.priv = .k → s.core.cause.toNat % 256 = 12 → e1.st = .cancelled) ∧
        (e.carried = 0 → e.creq = false → s.core.priv = .k → s.core.cause.toNat % 256 ≠ 12 →
          e1.st = .poisoned ∧ e1.code = s.core.cause.toNat % 256) ∧
        (e.carried = 0 → e.creq = false → s.core.priv = .u → e1.st = .resolved ∧ e1.value = s.core.getG o.s.toNat))

namespace Sys2Proof.Machine

/-- 04 R87 to R89; 11 R244, R245: `town` reads a tile's owner; `tgive` of a tile the core may give makes the named core of its cluster,
or the gang, its owner after all the core's stores (log 78), at once or before the core's next step as the device chooses (log 96); a tile for
a task that is off its core by then is held for it; both raise cause 4 for an address that is no tile and `tgive` cause 8 for a tile
that is not the core's or a target that runs nothing of the context. -/
def TileOwnersSpec : Prop :=
  ∀ (o : TaskOp) (s : State) (k : Cont),
    let p := s.core.getG o.s.toNat
    let va := effective p 0
    let inTiles := 0xFFFFFFC00000 ≤ va ∧ va < 0xFFFFFFFC0000
    let cl := s.cur / 8
    let tile := (va - 0xFFFFFFC00000) / 4096
    let target := (s.core.getG o.t.toNat).toNat % 32
    (∀ x, x = taskIns 11 0 o (gr o.s) (gr o.d) → Issues x s k →
      (plainPointer p → inTiles →
        exec (.town o) s = .next (passesWith x k (fun c => c.setG o.d.toNat (BitVec.ofNat 64 (ownerOf s cl tile))) s)) ∧
      (plainPointer p → ¬ inTiles → exec (.town o) s = .next (takeTrap (started x k s) x.size { code := 4, tval := p })) ∧
      (¬ plainPointer p → exec (.town o) s = .next (takeTrap (started x k s) x.size { code := 7, tval := p }))) ∧
    (∀ x, x = taskIns 10 0 o (gr o.s ++ gr o.t) [] → Issues x s k → plainPointer p → inTiles →
      (ownerOf s cl tile = s.cur % 8 → (target ≤ 7 ∧ runsOurs s target = true) ∨ target = 16 → storesOut s s.cur none = true →
        exec (.tgive o) s = .next { s with core := { waiting x k s.core with wait := .issue } }) ∧
      (ownerOf s cl tile = s.cur % 8 → (target ≤ 7 ∧ runsOurs s target = true) ∨ target = 16 → storesOut s s.cur none = false →
        let sd := released 1 2 (started x k s)
        let given := { sd with fresh := sd.fresh + 1, core := { sd.core with
          gave := some (tile, if target = 16 then none else (getCore s (s.cur / 8 * 8 + target)).task) } }
        exec (.tgive o) s = .next (onward x k (if Config.choose sd.fresh % 2 = 0 then landGive given else given))) ∧
      (ownerOk s s.cur (ownerOf s cl tile) = false ∨ (7 < target ∧ target ≠ 16) ∨ (target ≤ 7 ∧ runsOurs s target = false) ∨
          (target = 16 ∧ 16 ≤ ownerOf s cl tile) →
        exec (.tgive o) s = .next (takeTrap (started x k s) x.size { code := 8, tval := p }))) ∧
    (s.core.gave = some (tile, none) → ∀ t, ownerOf (landGive s) cl t =
      if t = tile then 16 + ((anchorCore s s.cur).getD s.cur) % 8 else ownerOf s cl t) ∧
    (∀ (r : TaskRef) (g : Gang) (m : Member), s.core.gave = some (tile, some r) → gangOf s r.gid = some g →
      g.members.find? (fun m => m.rank == r.rank) = some m → m.ended = false →
      ∀ t, ownerOf (landGive s) cl t = if t = tile then (match m.core with | some w => w % 8 | none => 10) else ownerOf s cl t)

/-- 07 R166: `sleept` with a target that has come goes on where it names no handle or its future has finished, and raises cause 10 of
the following instruction where it has not; before the target it sleeps, and at the target it does the same. A target inside a stall of
the core for a trace buffer raises nothing (24 R386). -/
def SleepingSpec : Prop :=
  ∀ (o : SysOp) (s : State) (k : Cont), let x := sysIns 3 0 o (gr o.s ++ gr o.t) []
    let s0 := started x k s
    let target := s.core.getG o.s.toNat
    let h := s.core.getG o.t.toNat
    (Issues x s k → o.t = 0 → target.toNat ≤ s.cycle.toNat → exec (.sleept o) s = .next (passes x k s)) ∧
    (Issues x s k → o.t = 0 → s.cycle.toNat < target.toNat →
      exec (.sleept o) s = .next { s0 with core := { s0.core with wait := .sleep target none x.size } }) ∧
    (∀ slot e, Issues x s k → o.t ≠ 0 → Names s h slot e → target.toNat ≤ s.cycle.toNat →
      let inStall := s.core.stalls.any (fun p => decide (p.1 ≤ target.toNat) && decide (target.toNat ≤ p.2))
      (e.st.done = true → exec (.sleept o) s = .next (passes x k s)) ∧
      (e.st.done = false → inStall = true →
        exec (.sleept o) s = .next { s0 with core := { s0.core with wait := .sleep target (some h) x.size } }) ∧
      (e.st.done = false → inStall = false →
        exec (.sleept o) s = .next (takeTrap s0 x.size { code := 10, tval := h, after := true }))) ∧
    (Issues x s k → o.t ≠ 0 → 3 < hKind h ∨ hCtx h ≠ s.core.ctx.toNat ∨ hNode h ≠ s.fab.own.toNat →
      exec (.sleept o) s = .next (takeTrap s0 x.size { code := 21, tval := h })) ∧
    (∀ (until_ : Word) (size : Nat), s.core.wait = .sleep until_ none size → until_.toNat ≤ s.cycle.toNat → s.core.cont = none → s.core.wins = [] →
      s.core.opening = none →
      exec (.sleeptWake s.cur) s = .next { s with core := { s.core with wait := .none, pc := s.core.pc + BitVec.ofNat 48 size } }) ∧
    (∀ (until_ y : Word) (size slot : Nat) (e : Entry), s.core.wait = .sleep until_ (some y) size → until_.toNat ≤ s.cycle.toNat →
      Names s y slot e → e.st.done = false → s.core.stalls = [] →
      exec (.sleeptWake s.cur) s = .next (takeTrap s size { code := 10, tval := y, after := true }))

end Sys2Proof.Machine

/-- 04 R87 to R89; 07 R166; 11 R244, R245; 24 R386: tile ownership and `sleept`. -/
def Obligations.TilesAndSleep : Prop := TileOwnersSpec ∧ SleepingSpec

/-! Grids and the scheduler (11 R246 to R253; 10 R203 to R210, R215, R225; 04 R92 to R98) -/

namespace Sys2Proof.Machine

/-- Cluster `cl` has room for an entry of context `ctx` in `slot`, and what the table makes of it (10 R211, R217). -/
def RoomOf (s : State) (ctx cl slot : Nat) : Prop := useOf s ctx cl < (getX s ctx cl).fquota.toNat ∧ freeSlot s cl = some slot
def handleOf (s : State) (ctx cl slot kind : Nat) : Word :=
  mkHandle s.fab.own.toNat cl slot (((getCl s cl).genr.getD slot 0 + 1) % 2 ^ 24) ctx kind

/-- 11 R246, R251; 05 R82: `glaunch` reads the sixteen doublewords of its packet at once, makes a kind-3 entry with one reference in its
cluster, and puts the packet at the tail of the launch queue of its quadrant, with no look at what the packet holds; it waits while
a store of the core is on its way to another node. -/
def GridLaunchSpec : Prop :=
  ∀ (o : TaskOp) (s : State) (k : Cont), let x := taskIns 13 0 o (gr o.s) (gr o.d)
    let p := s.core.getG o.s.toNat
    let s0 := started x k s
    let ctx := s.core.ctx.toNat
    let cl := s.cur / 8
    let q := s.cur / 64
    (Issues x s k → ¬ plainPointer p → exec (.glaunch o) s = .next (takeTrap s0 x.size { code := 7, tval := p })) ∧
    (Issues x s k → plainPointer p → effective p 0 % 128 ≠ 0 →
      exec (.glaunch o) s = .next (takeTrap s0 x.size { code := 4, tval := BitVec.ofNat 64 (effective p 0) })) ∧
    (∀ (dw : Nat → Nat) (s1 : State), Issues x s k → plainPointer p → effective p 0 % 128 = 0 →
      readDwords (effective p 0) 16 x.size s0 = .ok (some dw, s1) → ctxValid s1 ctx = true → storesOut s1 s1.cur none = true →
      exec (.glaunch o) s = .next { s1 with core := { s1.core with wait := .issue } }) ∧
    (∀ (dw : Nat → Nat) (s1 : State) (slot : Nat), Issues x s k → s.core.cont = none → s.core.wait = .none → s.core.wbuf = [] → plainPointer p →
      effective p 0 % 128 = 0 → readDwords (effective p 0) 16 x.size s0 = .ok (some dw, s1) → ctxValid s1 ctx = true → s1.core.wbuf = [] → Sent s1 →
      storesOut s1 s1.cur none = false → RoomOf s1 ctx cl slot → let h := handleOf s1 ctx cl slot 3
      ∃ t gd, exec (.glaunch o) s = .next t ∧ Past x s t ∧ t.core.g = (s.core.setG o.d.toNat h).g ∧
        Holds t cl slot h .pending 1 ∧ t.grids = s1.grids ++ [gd] ∧ gd.q = q ∧ gd.ctx = ctx ∧ gd.handle = h ∧ gd.started = false ∧
        (∀ i, i < 16 → gd.packet.getD i 0 = BitVec.ofNat 64 (dw i)) ∧
        (t.bqes.getD q Bqe.reset).grids = (s1.bqes.getD q Bqe.reset).grids ++ [gd.id] ∧
        (o.d = 0 → t.drops = s1.drops ++ [h]))

/-- A packet of a launch queue that starts next: its events are set, and no packet before it in its queue can start. -/
def Startable (s : State) (x : Grid) : Prop :=
  s.grids.find? (fun y => y.id == x.id) = some x ∧ x.started = false ∧ x.total = 0 ∧ gridReady s x = true ∧
  ((s.grids.takeWhile (fun y => y.id != x.id)).filter (fun y => y.q == x.q && !y.started)).any (gridReady s) = false ∧
  stalledSrc s (640 + x.q) = false ∧ Untraced s

/-- The state in which the packet's type is read: its job seed taken, its set bits cleared where it says so, out of its queue. -/
def leavesQueue (s : State) (x : Grid) : State :=
  { updCtx s x.ctx (fun c => { c with
      seed := x.packet.getD 3 0
      events := if (x.packet.getD 0 0).getLsbD 62 then c.events &&& ~~~ gMask x.packet 8 else c.events }) with
    bqes := s.bqes.map (fun p => (p.1, { p.2 with grids := p.2.grids.filter (· != x.id) })) }

/-- 11 R248, R249: a packet whose wait mask is met starts: the context's job seed is its own, its set bits are cleared where cs says so,
and its X · Y · Z gangs can be stolen; one whose wait mask is not met stays. Row-major and column-major order give gang n its
point. -/
def GridStartSpec : Prop :=
  (∀ (s s1 : State) (x : Grid) (n : Nat), Startable s x → packetType (leavesQueue s x) x.q x.ctx x.packet = (.ok n, s1) →
    noGangs x.packet = false →
    ∃ t, exec (.gridStart x.id) s = .next t ∧ t.core = s1.core ∧ t.mem = s1.mem ∧ (getCtx t x.ctx).seed = x.packet.getD 3 0 ∧
      (getCtx t x.ctx).events = (getCtx (leavesQueue s x) x.ctx).events ∧
      t.grids = s1.grids.filter (fun y => y.id != x.id) ++ [{ x with
        started := true, gang := n
        total := (x.packet.getD 1 0).toNat % 65536 * ((x.packet.getD 1 0).toNat / 65536 % 65536) *
          ((x.packet.getD 1 0).toNat / 2 ^ 32 % 65536) }] ∧
      (t.bqes.getD x.q Bqe.reset).grids = (s.bqes.getD x.q Bqe.reset).grids.filter (· != x.id)) ∧
  (∀ (s : State) (x : Grid), Startable s x → packetBad x.packet = true → gField x.packet 2 47 0 = 0 → x.handle = 0 → x.poison = none →
    ∃ t, exec (.gridStart x.id) s = .next t ∧ t.mem = s.mem ∧ t.core.g = s.core.g ∧
      t.grids = s.grids.filter (fun y => y.id != x.id) ∧ (getCtx t x.ctx).seed = x.packet.getD 3 0 ∧
      (getCtx t x.ctx).events = (getCtx (leavesQueue s x) x.ctx).events ||| gMask x.packet 8) ∧
  (∀ (s : State) (x : Grid), s.grids.find? (fun y => y.id == x.id) = some x →
    (getCtx s x.ctx).events &&& gMask x.packet 4 ≠ gMask x.packet 4 → exec (.gridStart x.id) s = .next s) ∧
  (∀ ex ey n, 0 < ex → ex < 65536 → 0 < ey → ey < 65536 →
    gridPoint ex ey 0 0 n = (n % ex, n / ex % ey, n / (ex * ey)) ∧ gridPoint ex ey 1 0 n = (n / ey % ex, n % ey, n / (ex * ey)))

/-- Every gang of a started grid has been handed out and has ended. -/
def GridOver (s : State) (x : Grid) : Prop :=
  s.grids.find? (fun y => y.id == x.id) = some x ∧ x.started = true ∧ x.next = x.total ∧ x.live = 0 ∧
  x.ended = false ∧ x.told = none ∧ gridWaits s x = false ∧ Untraced s

/-- 11 R250: when every gang has ended, every L1 of the partition is emptied, the set bits are set, the completion word loses one, and the
grid's future is RESOLVED with the number of gangs where every task was, POISONED with the first poisoned task's code, else
CANCELLED. The completion word is written as at level U; one of another node is asked for by an atomic with a reply slot (21 R358), and the
grid stays until the answer comes (the model's choice, logs 82, 84). -/
def GridCompletionSpec : Prop :=
  (∀ (s : State) (x : Grid) (slot : Nat) (e : Entry), GridOver s x → gField x.packet 2 47 0 = 0 → x.handle ≠ 0 →
    List.find? (fun p => p.2.handle == x.handle) (getCl s (hHome x.handle)).ft = some (slot, e) → e.handle = x.handle → e.st = .pending →
    0 < e.refs → s.drops.contains x.handle = false →
    ∃ t e1, exec (.gridComplete x.id) s = .next t ∧ t.mem = s.mem ∧ t.core.g = s.core.g ∧ t.core.pc = s.core.pc ∧
      t.grids = s.grids.filter (fun y => y.id != x.id) ∧
      (getCtx t x.ctx).events = (getCtx s x.ctx).events ||| gMask x.packet 8 ∧
      (∀ v, samePart s x.q (v / 64) = true → (getCore s v).l1 = [] ∨ (getCore t v).l1 = []) ∧
      entryAt t (hHome x.handle) slot = some e1 ∧
      (x.poison = none → x.okAll = true → e1.st = .resolved ∧ e1.value = BitVec.ofNat 64 x.total) ∧
      (∀ c, x.poison = some c → e1.st = .poisoned ∧ e1.code = c % 256) ∧
      (x.poison = none → x.okAll = false → e1.st = .cancelled)) ∧
  (∀ (s s2 s3 : State) (x : Grid) (l : Loc), let cw := gField x.packet 2 47 0
    let a : Agent := ⟨x.q * 64, x.ctx, .u⟩
    GridOver s x → cw ≠ 0 → cw % 8 = 0 → x.handle = 0 →
    translate a cw 3 (updGrid (updCtx (invalPartition s x.q) x.ctx (fun c => { c with events := c.events ||| gMask x.packet 8 })) x.id
      (fun y => { y with ended := true })) = .ok (l, s2) → l.sync = true →
    (l.place ≠ .remote → eccHit s2 l.at_ 8 = false → syeStalled s2 l = false → logWrite ⟨irqCore s2 x.ctx, x.ctx, .u⟩ l s2 = .ok ((), s3) →
      ∃ t, exec (.gridComplete x.id) s = .next t ∧
        t.mem = (homeWrite s3 none l.kv l.at_ (leBytes 8 (ofLe (homeRead s3 l.kv l.at_ 8) + 2 ^ 64 - 1))).mem) ∧
    (l.place = .remote → canSend s2 (x.q / 4) l.node 1 true = true →
      ∃ t p, exec (.gridComplete x.id) s = .next t ∧ t.fab.outbox = s2.fab.outbox ++ [p] ∧ p.kind = 2 ∧ p.chan = 1 ∧
        p.dst = BitVec.ofNat 10 l.node ∧ p.addr = BitVec.ofNat 64 l.at_ ∧ t.grids = s2.grids))

end Sys2Proof.Machine

/-- 11 R248 to R250: a grid's start and completion. -/
def Obligations.GridRuns : Prop := GridStartSpec ∧ GridCompletionSpec

namespace Sys2Proof.Machine

/-- The doubleword of door page `ctx` of quadrant `q` at this offset. -/
def doorWord (s : State) (q ctx off : Nat) : Nat := ofLe (memRead (getBqe s q).doors (4096 * ctx + off) 8)

/-- 11 R252: a write of `notify` takes the valid packets from slot head on, in order: each joins the launch queue, its slot's valid bit
becomes 0 and head moves on modulo 31; a slot that is not valid ends the scan. -/
def DoorsSpec : Prop :=
  ∀ (s : State) (q ctx : Nat), q < 8 → ctx < 64 → Memory.wf (getBqe s q).doors = true → s.dirtyHeld.contains (71, q * 64 + ctx) = false →
    let head := (getBqe s q).heads.getD ctx 0
    (doorWord s q ctx (0x80 + 128 * head) < 2 ^ 63 → exec (.doorNotify q ctx) s = .next s) ∧
    (∀ slot, head < 31 → 2 ^ 63 ≤ doorWord s q ctx (0x80 + 128 * head) → doorWord s q ctx (0x80 + 128 * ((head + 1) % 31)) < 2 ^ 63 →
      ctxValid s ctx = true → RoomOf s ctx (8 * q) slot → let h := handleOf s ctx (8 * q) slot 3
      ∃ t gd, exec (.doorNotify q ctx) s = .next t ∧ t.core = s.core ∧ t.mem = s.mem ∧ Holds t (8 * q) slot h .pending 1 ∧
        h ∈ t.drops ∧ t.grids = s.grids ++ [gd] ∧ gd.q = q ∧ gd.ctx = ctx ∧ gd.handle = h ∧ gd.started = false ∧
        (∀ i, i < 16 → (gd.packet.getD i 0).toNat = doorWord s q ctx (0x80 + 128 * head + 8 * i)) ∧
        (getBqe t q).grids = (getBqe s q).grids ++ [gd.id] ∧ (getBqe t q).heads.getD ctx 0 = (head + 1) % 31 ∧
        doorWord t q ctx (0x80 + 128 * head) = doorWord s q ctx (0x80 + 128 * head) - 2 ^ 63)

end Sys2Proof.Machine

/-- 11 R246, R251, R252: launches by `glaunch` and through a host door. -/
def Obligations.GridLaunches : Prop := GridLaunchSpec ∧ DoorsSpec

namespace Sys2Proof.Machine

/-- A gang at the tail of the ready queue of its record's priority (10 R205); one that has run before enters a queue anew (10 R228). -/
def readied (s : State) (g : Gang) : Gang :=
  { g with st := .ready, aside := false, enq := if g.members.any (fun m => m.started) then s.cycle.toNat else g.enq
           since := s.cycle.toNat, queue := min (g.dw0.toNat / 2 ^ 12 % 16) 3 }

/-- 10 R198, R202, R203, R205, R210: a placed task that no earlier task of its cluster holds back takes its tiles, which the scheduler then
owns (9), and waits for their loads, which the copy engine makes in its turn; then it joins the tail of the ready queue of its priority, at most 3; a load that meets a
cause ends it as POISONED. After 2^20 cycles in a queue it moves to the tail of the next. -/
def ReadyQueuesSpec : Prop :=
  (∀ (s : State) (g : Gang) (cl : Nat), gangOf s g.gid = some g → g.st = .hazard → g.cluster = some cl →
    (hazardFor s g = true → exec (.hazardClear g.gid) s = .next (updGang s g.gid (fun x => { x with st := .hazard }))) ∧
    (∀ ms, hazardFor s g = false → assignTiles (freeTiles s cl) g.members = some ms →
      ∃ t, exec (.hazardClear g.gid) s = .next t ∧ t.mem = s.mem ∧ t.core = s.core ∧
        gangOf t g.gid = some { g with members := ms, st := .prefetch } ∧
        ∀ n, ownerOf t cl n = if (ms.flatMap (fun m => m.tiles)).any (fun a => a.tile == n) then 9 else ownerOf s cl n)) ∧
  (∀ (s : State) (g : Gang) (cl : Nat), gangOf s g.gid = some g → g.st = .prefetch → g.cluster = some cl →
    stalledSrc s (512 + cl) = false → stalledSrc s (576 + cl) = false →
    (∀ w, findWork s cl 6 ⟨g.gid, 0⟩ = some w → turnOf s cl w.id = true) →
    (∀ s1 : State, loadTiles cl (g.members.flatMap (fun m => m.tiles)) s = .ok ((), s1) → gangOf s1 g.gid = some g → s1.cycle = s.cycle →
      ∃ t, exec (.prefetchComplete g.gid) s = .next t ∧ t.mem = s1.mem ∧ t.core = s1.core ∧ (getCl t cl).searchSince = none ∧
        (∀ w, findWork s cl 6 ⟨g.gid, 0⟩ = some w → (getCl t cl).copies = (getCl s1 cl).copies.filter (fun q => q.id != w.id)) ∧
        t.gangs = s1.gangs.filter (fun x => x.gid != g.gid) ++ [readied s g]) ∧
    (∀ t1, loadTiles cl (g.members.flatMap (fun m => m.tiles)) s = .error t1 →
      ∃ t, exec (.prefetchComplete g.gid) s = .next t ∧ gangOf t g.gid = none)) ∧
  (∀ (s : State) (g : Gang), gangOf s g.gid = some g → g.st = .ready →
    (g.queue < 3 → g.since + 2 ^ 20 ≤ s.cycle.toNat →
      exec (.ageingPromote g.gid) s = .next { s with gangs := s.gangs.filter (fun x => x.gid != g.gid) ++
        [{ g with queue := g.queue + 1, since := s.cycle.toNat }] }) ∧
    (3 ≤ g.queue ∨ s.cycle.toNat < g.since + 2 ^ 20 → exec (.ageingPromote g.gid) s = .next s))

/-- A record of one task of a declared type, never run, at the head of its cluster's queues, with its entry in the cluster's table. -/
def FirstRun (s : State) (cl : Nat) (g : Gang) (m : Member) (ty : TaskType) (slot : Nat) (e : Entry) : Prop :=
  g.cluster = some cl ∧ g.members = [m] ∧ g.ty = some ty ∧ g.grid = none ∧ m.ended = false ∧ m.started = false ∧ m.fut ≠ 0 ∧
  hHome m.fut = cl ∧ List.find? (fun p => p.2.handle == m.fut) (getCl s cl).ft = some (slot, e) ∧ e.handle = m.fut ∧ e.st = .pending ∧
  s.gangs = [g] ∧ g.gid < s.nextId

/-- What core `v` is when a task starts on it (04 R92 to R94): the registers that the record gives, everything else clear. -/
def StartsOn (c : Core) (g : Gang) (m : Member) (ty : TaskType) : Prop :=
  c.mode = .run ∧ c.pc = ty.entry ∧ c.priv = .u ∧ c.ctx = BitVec.ofNat 6 g.ctx ∧ c.task = some ⟨g.gid, m.rank⟩ ∧
  c.getG 1 = m.fut ∧ c.getG 2 = BitVec.ofNat 64 (0xFFFFFFFC0000 + 1024 * ty.store) ∧ c.getG 3 = g.dw0 ∧ c.getG 4 = g.arg0 ∧
  c.getG 5 = g.arg1 ∧ c.getG 6 = BitVec.ofNat 64 (g.size * 256 + m.rank) ∧ c.getG 7 = BitVec.ofNat 64 (g.dw0.toNat / 65536) ∧
  (∀ n, 12 ≤ n → n < 64 → c.getG n = 0) ∧ (∀ n, n < 32 → c.getV n = 0) ∧ (∀ n, 0 < n → n < 8 → c.getK n = 0) ∧
  c.fflags = 0 ∧ c.fenable = 0 ∧ c.ssbthr = 16 ∧ c.ssbpol = 0 ∧ c.rstack = [] ∧ c.rsp = BitVec.ofNat 48 0xFFFFFFFC0000 ∧ c.l1 = []

/-- 10 R205, R206, R220; 04 R92 to R94, R104: the head of the highest ready queue starts on the lowest free core of its cluster: its entry
is RUNNING, the core's registers are those of the record, its region of the core store reads 0. A context without a valid
record enters the hypervisor on the lowest free core instead (log 81); with no free core, and from an empty queue, nothing starts. A record set aside is tried
again when its table has room. -/
def DispatchingSpec : Prop :=
  (∀ (s s1 : State) (cl v slot : Nat) (g : Gang) (m : Member) (ty : TaskType) (e : Entry) (r : List Nat) (dispatches : Instr) (s0 : State),
    schedWaits s cl = false →
    (dispatches = .dispatch cl ∧ s0 = s) ∨
      (dispatches = .refillRetry cl g.gid ∧ gangOf s0 g.gid = some { g with aside := true } ∧
        (refillSlot s0 g.ctx (hHome m.fut)).isSome ∧ s = updGang s0 g.gid (fun x => { x with aside := false })) →
    headOf s cl = some g → FirstRun s cl g m ty slot e → (coresOf cl).filter (freeCore s) = v :: r → ctxReady s g.ctx = some s1 → Untraced s →
    s1.clusters = s.clusters → s1.gangs = s.gangs →
    ∃ t e1, exec dispatches s0 = .next t ∧ StartsOn (getCore t v) g m ty ∧ entryAt t cl slot = some e1 ∧ e1.st = .running ∧ e1.handle = m.fut ∧
      (∀ a, a < 1024 * ty.store → memRead t.mem (2 ^ 40 + v * 2 ^ 18 + a) 1 = [0])) ∧
  (∀ (s : State) (cl v : Nat) (g : Gang) (r : List Nat), schedWaits s cl = false → headOf s cl = some g →
    (coresOf cl).filter (freeCore s) = v :: r → (g.members.filter (fun m => !m.ended)).length ≤ r.length + 1 → ctxReady s g.ctx = none → Untraced s →
    ∃ t, exec (.dispatch cl) s = .next t ∧ (getCore t v).priv = .h ∧ (getCore t v).causeh.toNat % 256 = 6 ∧
      (getCore t v).task = none) ∧
  (∀ (s : State) (cl : Nat), headOf s cl = none ∨ (coresOf cl).filter (freeCore s) = [] → exec (.dispatch cl) s = .next s) ∧
  (∀ (s : State) (cl : Nat) (g : Gang), gangOf s g.gid = some g → g.aside = false → exec (.refillRetry cl g.gid) s = .next s)

/-- 10 R207; 11 R249: a cluster with a free core and no ready task takes, from its own quadrant first, the next gang of the grid that
started first, else the oldest record of the global queue; a search that finds nothing counts and is repeated after 64 cycles. -/
def StealingSpec : Prop :=
  ∀ (s : State) (cl : Nat), let c := getCl s cl
    (anyReady s cl = true ∨ (coresOf cl).any (freeCore s) = false →
      exec (.stealSearch cl) s = .next (updCl s cl (fun x => { x with searchSince := none }))) ∧
    (anyReady s cl = false → (coresOf cl).any (freeCore s) = true →
      (∀ t, c.searchSince = some t → s.cycle.toNat < t + 64 → exec (.stealSearch cl) s = .next s) ∧
      (c.searchSince = none → stalledSrc s (576 + cl) = false →
        (s.grids = [] → s.bqes = [] →
          exec (.stealSearch cl) s = .next (updCl s cl (fun x => { x with failed := x.failed + 1, searchSince := some s.cycle.toNat }))) ∧
        (∀ (x : Grid) (r : List Grid), s.grids = x :: r → x.q = cl / 8 → x.started = true → x.ended = false → x.next < x.total → Untraced s →
          (∀ y ∈ r, y.id ≠ x.id) →
          ∃ t x1, exec (.stealSearch cl) s = .next t ∧ (getCl t cl).searchSince = none ∧ t.grids.head? = some x1 ∧
            x1.id = x.id ∧ x1.next = x.next + 1) ∧
        (∀ (gid : Nat) (r : List Nat) (b : Bqe), s.grids = [] → s.bqes.find? (cl / 8) = some b → b.tasks = gid :: r →
          ∃ t, exec (.stealSearch cl) s = .next t ∧ (getCl t cl).searchSince = none ∧ (t.bqes.getD (cl / 8) Bqe.reset).tasks = r)))

end Sys2Proof.Machine

/-- 10 R198, R202, R203, R205, R207, R210: hazards, prefetch, ready queues, ageing and stealing. -/
def Obligations.QueuesAndStealing : Prop := ReadyQueuesSpec ∧ StealingSpec

namespace Sys2Proof.Machine

/-- 10 R208, R214; 18 R311: when the engine, in its turn, has written back the tiles of an ended member, they are free, and its entry takes the outcome that its
end decided: POISONED with the cause of the first access that failed where that was RESOLVED. -/
def WriteBackSpec : Prop :=
  ∀ (s s1 : State) (g : Gang) (m : Member) (cl slot : Nat) (e : Entry) (q q1 : Copy),
    gangOf s g.gid = some g → g.members = [m] → g.cluster = some cl → g.grid = none → m.rank < 8 → m.ended = true → m.writing = true →
    q = (findWork s cl 7 ⟨g.gid, m.rank⟩).getD { Copy.blank 0 7 512 none g.ctx .u 0 with tiles := m.wb } → turnOf s cl q.id = true →
    m.wb.any (fun t => ownerOf s cl t == 8) = false → s.dirtyHeld.contains (64, g.gid * 8 + m.rank) = false →
    stalledSrc s (512 + cl) = false → stalledSrc s (576 + cl) = false → storeTiles cl q.tiles q s = (none, q1, s1) → Untraced s1 →
    s1.clusters = s.clusters → s1.gangs = s.gangs → s1.waits = s.waits → s1.drops = s.drops →
    m.slot = some (cl * 1024 + slot) → slot < 1024 → entryAt s cl slot = some e → hHome e.handle = cl →
    (getCl s cl).owners.Pairwise (fun a b => a.1 < b.1) → List.find? (fun p => p.2.handle == e.handle) (getCl s cl).ft = some (slot, e) → e.st = .running → 1 < e.refs → s.drops = [] →
    ∃ t e1, exec (.writebackComplete (g.gid * 8 + m.rank)) s = .next t ∧ t.mem = s1.mem ∧ t.core.g = s1.core.g ∧ gangOf t g.gid = none ∧
      (∀ n ∈ m.wb, ownerOf t cl n = 0xFF) ∧ entryAt t cl slot = some e1 ∧ e1.refs = e.refs - 1 ∧
      (q1.fail = none ∨ m.result ≠ .resolved → e1.st = m.result ∧ (m.result = .resolved → e1.value = m.value)) ∧
      (∀ n c, q1.fail = some (n, c) → m.result = .resolved → e1.st = .poisoned ∧ e1.code = c % 256)

/-- 10 R209, R215, R225: the first waiter of a finished future is woken: its gang joins its ready queue. A context that has stood still
for 4096 cycles is reported once: its report counter advances and its interrupt core gets cause 24. -/
def WakesSpec : Prop :=
  (∀ (s : State) (h : Word) (slot : Nat) (e : Entry) (cl wslot : Nat) (g : Gang) (m : Member) (r : List Nat),
    hNode h = s.fab.own.toNat → List.find? (fun p => p.2.handle == h) (getCl s (hHome h)).ft = some (slot, e) → e.handle = h →
    entryAt s (hHome h) slot = some e → e.st.done = true → 0 < e.refs → cl < 64 → wslot < 1024 →
    waitersOf s h = (s.fab.own.toNat * 65536 + cl * 1024 + wslot) :: r →
    gangAtSlot s cl wslot = some (g, m) → gangOf s g.gid = some g → g.st = .parked → g.touched = h → Untraced s →
    stalledSrc s (576 + hHome h) = false → stalledSrc s (576 + cl) = false →
    ∃ t, exec (.wake h) s = .next t ∧ t.mem = s.mem ∧ t.core = s.core ∧ waitersOf t h = r ∧
      gangOf t g.gid = some (readied s g)) ∧
  (∀ (s : State) (ctx t0 : Nat), (getCtx s ctx).stallSince = some t0 → standsStill s ctx = true → t0 + 4096 ≤ s.cycle.toNat →
    ((getCtx s ctx).stallOnset = true → exec (.contextStall ctx) s = .next s) ∧
    ((getCtx s ctx).stallOnset = false →
      ∃ t v, exec (.contextStall ctx) s = .next t ∧ (getCtx t ctx).stallOnset = true ∧
        (getCtx t ctx).reports = (getCtx s ctx).reports + 1 ∧
        (⟨24, 0, BitVec.ofNat 64 ctx, ctx, .k⟩ : Intr) ∈ (getCore t v).pend.intrs)) ∧
  (∀ (s : State) (ctx t0 : Nat), (getCtx s ctx).stallSince = some t0 → s.cycle.toNat < t0 + 4096 → exec (.contextStall ctx) s = .next s)

end Sys2Proof.Machine

/-- 10 R208, R209, R214, R215, R225: write-backs, wakes and the report of a stall. -/
def Obligations.EndsAndWakes : Prop := WriteBackSpec ∧ WakesSpec

namespace Sys2Proof.Machine

/-- 04 R96 to R98; 06 R134, R140: the device pre-empts a gang: the core it names stops at its boundary and the other member at its next one.
When every member has stopped and been saved, the gang leaves its cores and waits in its ready queue. -/
def PreemptionSpec : Prop :=
  (∀ (s : State) (g : Gang) (w : Nat) (m m1 : Member), gangOfCore s s.cur = some g → gangOf s g.gid = some g → w ≠ s.cur → g.stopping = 0 →
    s.gangs = [g] → g.onCores = [(m, s.cur), (m1, w)] → s.core.task.isSome → AtRest s → s.core.pend = ⟨[], false, [], false⟩ →
    stopped (getCore s w).wait = false →
    ∃ t, exec (.preemption s.cur) s = .next t ∧ t.mem = s.mem ∧ t.core.g = s.core.g ∧ t.core.pc = s.core.pc ∧ t.core.wait = .stopped ∧
      (getCore t w).pend.preempt = true ∧ (getCore t w).pc = (getCore s w).pc ∧ ∃ g1, gangOf t g.gid = some g1 ∧ g1.stopping = 2) ∧
  (∀ (s s1 : State) (g : Gang) (m : Member) (cl : Nat), gangOf s g.gid = some g → s.gangs = [g] → g.members = [m] → m.core = some s.cur →
    m.ended = false → g.cluster = some cl → s.cur / 8 = cl → g.stopping = 2 → s.core.wait = .stopped → s.core.halted = false → s.core.ssb = none →
    stalledSrc s s.cur = false → storesOut s s.cur none = false → storeCopies s g = false → s.dirtyHeld = [] → Untraced s1 → s.core.mode = .run → 
    saveAll false g [(m, s.cur)] (flushXsts (drainCore s s.cur) s.cur) = (none, s1) →
    s1.gangs = s.gangs → s1.cur = s.cur → s1.cycle = s.cycle → s1.core.mode = .run →
    ∃ t g1, exec (.gangPreemptSave g.gid) s = .next t ∧ t.mem = s1.mem ∧ t.core.task = none ∧ t.core.mode = .idle ∧
      gangOf t g.gid = some g1 ∧ g1.st = .ready ∧ g1.stopping = 0 ∧ g1.queue = min (g.dw0.toNat / 2 ^ 12 % 16) 3) ∧
  (∀ (s : State) (g : Gang), gangOf s g.gid = some g → g.stopping = 0 → exec (.gangPreemptSave g.gid) s = .next s)

end Sys2Proof.Machine

/-- 04 R92 to R98; 10 R205, R206, R220: dispatch and pre-emption. -/
def Obligations.DispatchAndPreemption : Prop := DispatchingSpec ∧ PreemptionSpec

/-! Trace, clocks, stores that are performed later (24 R375 to R389; 23 R373; 05 R112) -/

namespace Sys2Proof.Machine

/-- The counter that a selector of `trace.cnt` names (24 R389). -/
def CounterIs (s : State) (sel x : Nat) : Prop :=
  let c := getCtx s s.core.ctx.toNat
  (sel = 0 ∧ x = c.qwait) ∨ (sel = 1 ∧ x = c.search / 840) ∨ (sel = 2 ∧ x = c.run) ∨ (sel = 3 ∧ x = c.stall + stallsOn s (fun r => r.ctx == s.core.ctx.toNat)) ∨
  (sel = 0x100 ∧ x = (getCl s (s.cur / 8)).failed) ∨ (sel = 0x400 ∧ x = s.core.holdCycles) ∨ (sel = 0x401 ∧ x = s.core.stallCycles) ∨
  (s.core.priv = .h ∧ ∃ e, e ≤ 141 ∧ ((sel = 0x200 + e ∧ x = s.busy.getD (512 + e) 0) ∨ (sel = 0x300 + e ∧ x = s.estall.getD (512 + e) 0 + stallsOn s (fun r => r.src == 512 + e))))

/-- 24 R376, R378, R379, R389: `trace` and `trace.x` generate records 0x01 and 0x81 of the current level and context with the tag and the
registers whole, and write no register; `trace.cnt` reads the counter that its selector names, and raises cause 2 below H for
an engine's and cause 1 for any other selector; a stall that goes on counts as far as it has come. -/
def TraceInstructionsSpec : Prop :=
  ∀ (o : SysOp) (s : State) (k : Cont),
    let a := s.core.getG o.s.toNat
    let b := s.core.getG o.t.toNat
    let tag := o.d.toNat % 16 * 2 ^ 20
    (∀ x, x = sysIns 8 0 o (regsOf .g o.s.toNat) [] → Issues x s k →
      exec (.trace o) s = .next (onward x k
        (emit (started x k s) s.cur s.core.ctx.toNat 0x01 0 s.core.priv.num (tag + a.toNat % 2 ^ 20) none))) ∧
    (∀ x, x = sysIns 8 1 o (regsOf .g o.s.toNat ++ regsOf .g o.t.toNat) [] → Issues x s k →
      exec (.traceX o) s = .next (onward x k
        (emit (started x k s) s.cur s.core.ctx.toNat 0x81 0 s.core.priv.num tag (some (a.toNat, b.toNat))))) ∧
    (∀ x, x = sysIns 8 2 o (regsOf .g o.s.toNat) (regsOf .g o.d.toNat) → Issues x s k →
      (∀ n, CounterIs s a.toNat n → exec (.traceCnt o) s = .next (passesWith x k (fun c => c.setG o.d.toNat (BitVec.ofNat 64 n)) s)) ∧
      (s.core.priv ≠ .h → (∃ e, e ≤ 141 ∧ (a.toNat = 0x200 + e ∨ a.toNat = 0x300 + e)) →
        exec (.traceCnt o) s = .next (takeTrap s x.size { code := 2, tval := BitVec.ofNat 64 x.body1 })) ∧
      ((∀ n, ¬ CounterIs { s with core := { s.core with priv := .h } } a.toNat n) →
        exec (.traceCnt o) s = .next (takeTrap s x.size { code := 1, tval := BitVec.ofNat 64 x.body1 })))

/-- A buffer of the hypervisor as the writer knows it: on, not stopped, with room for `n` bytes more, and apart from its descriptor. -/
def RingReady (s : State) (b : Nat) (d : TraceBuf) (kv n : Nat) : Prop :=
  let desc := b / 8192 * 64
  let base := fld (d.at 0) 47 12 * 4096
  let size := 2 ^ (12 + d.at 0 % 16)
  b % 8192 = hbuf ∧ keyVal s 0 = some kv ∧ s.trc.bufs.find? b = some d ∧ d.dw.length = 6 ∧ d.whole = true ∧ d.owes = false ∧
  desc ≠ 0 ∧ bitOf (d.at 1) 63 = true ∧ bitOf (d.at 1) 61 = false ∧ d.at 0 % 16 < 13 ∧ d.at 2 % 16 = 0 ∧ d.at 2 < 2 ^ 64 ∧ d.at 3 ≤ d.at 2 ∧
  n + 16 + (d.at 2 - d.at 3) ≤ size ∧ d.at 2 % size + n ≤ size ∧ s.trc.drops.getD b 0 = 0 ∧ base + size ≤ 2 ^ 39 ∧ desc + 64 ≤ 2 ^ 39 ∧
  (desc + 64 ≤ base ∨ base + size ≤ desc)

/-- Where the next record of a buffer goes. -/
def ringAt (d : TraceBuf) : Nat := fld (d.at 0) 47 12 * 4096 + d.at 2 % 2 ^ (12 + d.at 0 % 16)

/-- 24 R378, R380, R383, R384: whatever becomes of a record, the management controller receives it, its source's counter for the
context advances by 1, and its stamp is the greater of the source's time and its last stamp; without a buffer nothing else
changes. A record of level H that fits is written at prod in the hypervisor's ring, little-endian, and prod advances by its
length. -/
def TraceRecordsSpec : Prop :=
  ∀ (s : State) (src ctx ev cls payload : Nat),
    let key := src * 64 + ctx
    let stamp := max (traceTime s (dieOfSrc src)) (s.trc.stamps.getD src 0)
    let head := fun (lvl : Nat) => leBytes 8 (ev * 2 ^ 56 + src * 2 ^ 44 + ctx * 2 ^ 38 + lvl * 2 ^ 36 + (s.trc.seqs.getD key 0).toNat * 2 ^ 24 + payload)
    (∀ lvl xs, Untraced s → let t := emit s src ctx ev cls lvl payload xs
      t = { s with trc := t.trc } ∧ t.trc.seqs.getD key 0 = s.trc.seqs.getD key 0 + 1 ∧ t.trc.stamps.getD src 0 = stamp ∧
      (∀ n, n ≠ key → t.trc.seqs.getD n 0 = s.trc.seqs.getD n 0) ∧ (∀ n, n ≠ src → t.trc.stamps.getD n 0 = s.trc.stamps.getD n 0) ∧
      t.trc.waiting = s.trc.waiting ∧ t.trc.bufs = s.trc.bufs ∧
      (ev < 256 → src < 4096 → ctx < 64 → payload < 2 ^ 24 → lvl < 4 → stamp < 2 ^ 64 → xs = none →
        t.trc.port = (head lvl ++ leBytes 8 stamp) :: s.trc.port)) ∧
    (∀ (d : TraceBuf) (kv : Nat), RingReady s (bufNow s hbuf) d kv 16 → cls = 10 ∨ s.mgmt.htrdesc.getLsbD (48 + cls) = true →
      (∀ r ∈ s.trc.waiting, r.buf ≠ bufNow s hbuf) → ev < 256 → src < 4096 → ctx < 64 → payload < 2 ^ 24 → stamp < 2 ^ 64 →
      let t := emit s src ctx ev cls 2 payload none
      homeRead t kv (ringAt d) 16 = head 2 ++ leBytes 8 stamp ∧
      t.trc.bufs.find? (bufNow s hbuf) = some (d.set 2 (d.at 2 + 16)) ∧
      homeRead t kv (fld s.mgmt.htrdesc.toNat 47 6 * 64 + 16) 8 = leBytes 8 ((d.at 2 + 16) % 2 ^ 64) ∧ t.core.g = s.core.g ∧ t.core.pc = s.core.pc)

/-- 24 R385 to R387: where a record does not fit, a lossless buffer makes its source wait, and a core that waits takes no event; a lossy
one counts it as dropped. When it fits it is written with its own stamp, a stall record follows, the source goes on, and a core's
stall counts; at the limit the buffer becomes lossy, its sources go on, their stalls count, and its owner gets cause 32 with the
buffer's number. -/
def TraceStallsSpec : Prop :=
  (∀ (s s1 : State) (src ctx b : Nat) (bytes : List Byte) (d : TraceBuf), knowBuf s b bytes.length = (some d, s1) → bitOf (d.at 1) 63 = true →
    bitOf (d.at 1) 61 = false → d.at 0 % 16 < 13 → d.dw.length = 6 → d.fits bytes.length = false ∨ paused s b = true →
    let t := writeRec s src ctx b bytes
    (d.lossless = true → t.mem = s1.mem ∧ t.core = s1.core ∧ stalledSrc t src = true ∧
      t.trc.waiting = s1.trc.waiting ++ [⟨src, b, ctx, bytes, s.cycle.toNat, traceTime s (dieOfSrc src)⟩]) ∧
    (d.lossless = false → t.trc.waiting = s1.trc.waiting ∧ (getBuf t b).at 4 = (d.at 4 + 1) % 2 ^ 64 ∧
      t.trc.drops.getD b 0 = s1.trc.drops.getD b 0 + 1)) ∧
  (∀ s : State, stalledSrc s s.cur = true → exec .takeEvent s = .next s) ∧
  (∀ (s : State) (src : Nat), stalledSrc s src = false → src < 648 → s.fab.full = [] → exec (.traceStallEnd src) s = .next s ∧ exec (.traceStallLimit src) s = .next s) ∧
  (∀ (s : State) (r : TraceRec) (d : TraceBuf) (kv : Nat), let len := s.cycle.toNat - r.since
    s.trc.waiting.find? (fun q => q.src == r.src) = some r → r.src < 512 → s.fab.full = [] → (r.bytes.length = 16 ∨ r.bytes.length = 32) →
    RingReady s r.buf d kv (r.bytes.length + 32) →
    ∃ t, exec (.traceStallEnd r.src) s = .next t ∧ t.trc.waiting.length + 1 = s.trc.waiting.length ∧
      homeRead t kv (ringAt d) r.bytes.length = r.bytes ∧
      (homeRead t kv (ringAt d + r.bytes.length) 32).getD 7 0 = 0x95 ∧ ((getBuf t r.buf).at 2) = (d.at 2 + (r.bytes.length + 32)) % 2 ^ 64 ∧
      (getCore t r.src).stalls = (r.since, s.cycle.toNat) :: (getCore s r.src).stalls ∧
      (getCore t r.src).stallCycles = (getCore s r.src).stallCycles + len ∧ t.core.g = s.core.g ∧ t.core.pc = s.core.pc) ∧
  (∀ (s : State) (r : TraceRec), let d := getBuf s r.buf
    let maxst := fld (d.at 1) 47 32
    s.trc.waiting.find? (fun q => q.src == r.src) = some r → r.src < 512 → s.fab.full = [] →
    (maxst = 0 ∨ s.cycle.toNat < r.since + maxst * 1024 → exec (.traceStallLimit r.src) s = .next s) ∧
    (maxst ≠ 0 → r.since + maxst * 1024 ≤ s.cycle.toNat →
      ∃ t v i, exec (.traceStallLimit r.src) s = .next t ∧ (∀ q ∈ t.trc.waiting, q.buf ≠ r.buf) ∧ (getBuf t r.buf).lossless = false ∧
        i ∈ (getCore t v).pend.intrs ∧ i.code = 32 ∧ i.tval = BitVec.ofNat 64 ((getBuf t r.buf).at 1 % 65536) ∧
        (r.since, s.cycle.toNat) ∈ (getCore t r.src).stalls ∧
        (getCore t r.src).stallCycles = (getCore s r.src).stallCycles + (s.cycle.toNat - r.since)))

end Sys2Proof.Machine

/-- 24 R376 to R387: records, rings, stalls and drops. -/
def Obligations.TraceBuffers : Prop := TraceRecordsSpec ∧ TraceStallsSpec

namespace Sys2Proof.Machine

/-- The two clocks as the servo keeps them: a locked counter within one sixteenth of the time at its rate (log 10), and the counters and
those times of two dies that hold lock within 32 sixteenths of each other. -/
def OnTime (a b : TraceClock) : Prop :=
  (∀ k ∈ [a, b], (k.held = true → k.locked = true) ∧ (k.locked = true → k.base * 190000 ≤ k.ideal + 190000 ∧ k.ideal ≤ k.base * 190000 + 190000)) ∧
  (a.held = true → b.held = true → a.base ≤ b.base + 32 ∧ b.base ≤ a.base + 32 ∧
    a.ideal ≤ b.ideal + 32 * 190000 ∧ b.ideal ≤ a.ideal + 32 * 190000)

/-- Clock `k` after `n` cycles: the time at the servo's rate, in 1/190000 of a sixteenth, is off the nominal 160/19 sixteenths a cycle by at most
1 part in 10^4, and the counter has advanced by 8 or 9 sixteenths in each cycle; an unlocked one stands. -/
def Advances (n : Nat) (k t : TraceClock) : Prop :=
  t.held = k.held ∧ t.locked = k.locked ∧ (k.locked = false → t = k) ∧
  (k.locked = true → k.ideal + 1599840 * n ≤ t.ideal ∧ t.ideal ≤ k.ideal + 1600160 * n ∧ k.base + 8 * n ≤ t.base ∧ t.base ≤ k.base + 9 * n)

/-- 24 R375, R379; 21 R365: at its first lock the servo may step its die's counter forward, to within 2 ns of a die that holds lock; from
then on the servo's rate holds: the counter keeps within one sixteenth of it (log 10) and two dies that hold lock within 2 ns; losing lock changes no time. Each emits a clock record of the die's trace writer; a notice of a
halt emits a halt record, stamped past the notice (log 97). -/
def TraceClocksSpec : Prop :=
  (∀ (s : State) (fwd : Nat), s.clock0.held = false → s.clock1.held = false → Untraced s →
    let lock := fun (k : TraceClock) (die : Nat) => let now := traceTime s die + (if k.locked then 0 else fwd)
      ({ base := now, held := true, locked := true, ideal := if k.locked then k.ideal else now * 190000 } : TraceClock)
    (∃ tr, exec (.clockLock 0 fwd) s = .next { s with clock0 := lock s.clock0 0, trc := tr }) ∧
    (∃ tr, exec (.clockLock 1 fwd) s = .next { s with clock1 := lock s.clock1 1, trc := tr })) ∧
  (∀ (s : State) (fwd : Nat), s.clock0.held = false → s.clock0.locked = false → s.clock1.held = true → Untraced s →
    traceTime s 0 ≤ traceTime s 1 + 32 →
    ∃ t, exec (.clockLock 0 fwd) s = .next t ∧ t.clock0.held = true ∧ traceTime s 0 ≤ traceTime t 0 ∧ t.clock1 = s.clock1 ∧
      traceTime t 0 ≤ traceTime t 1 + 32 ∧ traceTime t 1 ≤ traceTime t 0 + 32) ∧
  (∀ (s t : State) (die fwd : Nat), OnTime s.clock0 s.clock1 → exec (.clockLock die fwd) s = .next t → OnTime t.clock0 t.clock1) ∧
  (∀ (s : State) (n : Nat), OnTime s.clock0 s.clock1 → let t := tick s n
    OnTime t.clock0 t.clock1 ∧ Advances n s.clock0 t.clock0 ∧ Advances n s.clock1 t.clock1) ∧
  (∀ s : State, Untraced s →
    (s.clock0.held = true → ∃ tr, exec (.clockLockLost 0) s = .next { s with clock0 := { s.clock0 with held := false }, trc := tr }) ∧
    (s.clock1.held = true → ∃ tr, exec (.clockLockLost 1) s = .next { s with clock1 := { s.clock1 with held := false }, trc := tr })) ∧
  (∀ (s : State) (n : Nat), s.clock0.locked = false → s.clock1.locked = false → s.cycle.toNat + n < 2 ^ 64 → s.clock0.base = 0 →
    traceTime { s with cycle := s.cycle + BitVec.ofNat 64 n } 0 = (s.cycle.toNat + n) * 160 / 19) ∧
  (∀ (node : BitVec 10) (scope : BitVec 2) (resume : Bool) (v : BitVec 9) (ctx : BitVec 6) (s : State),
    exec (.haltNotice node scope resume v ctx) s = .next (emit { s with fresh := s.fresh + 1 } 652 ctx.toNat 0x92 8 2
      (scope.toNat + (if resume then 4 else 0)) (some (node.toNat + 1024 * v.toNat + 2 ^ 19 * ctx.toNat, 0)) (Config.noticeStamp s.fresh + 1)))

end Sys2Proof.Machine

/-- 24 R375, R376, R378, R379, R389; 21 R365: trace instructions, counters, clocks and halt notices. -/
def Obligations.TraceAndClocks : Prop := TraceInstructionsSpec ∧ TraceClocksSpec

namespace Sys2Proof.Machine

/-- 05 R100, R112, R114, R118; 06 R132; 23 R373: a buffered store is performed alone where no earlier store of its core meets its bytes, and
after each that does otherwise; one to a word whose synchronisation engine stalls waits (24 R385); one that meets a locked gate, or whose slot
holds no key any more, is dropped and reported to its core (logs 41, 51). An engine that a full dirty log held goes on when the hypervisor has made room. -/
def ResumedSpec : Prop :=
  (∀ (s : State) (v n : Nat) (e : WbEnt), let c := getCore s v
    c.wbuf[n]? = some e → e.sync = true → syeBusy s (syeSrc e.pa) = true → exec (.storePerformed v n) s = .next s) ∧
  (∀ (s : State) (v n : Nat) (e : WbEnt), let c := getCore s v
    c.wbuf[n]? = some e → (e.sync = true → syeBusy s (syeSrc e.pa) = false) → (∀ f ∈ c.wbuf.take n, f ≠ e ∧ f.meets e.pa e.bytes.length = false) →
    exec (.storePerformed v n) s = .next (perform (setCore s v { c with wbuf := c.wbuf.eraseIdx n }) v e)) ∧
  (∀ (s : State) (v : Nat) (e f : WbEnt), let c := getCore s v
    c.wbuf = [f, e] → f ≠ e → (∀ d ∈ [f, e], d.sync = true → syeBusy s (syeSrc d.pa) = false) → f.meets e.pa e.bytes.length = true →
    exec (.storePerformed v 1) s = .next (perform (perform (setCore s v { c with wbuf := [] }) v f) v e)) ∧
  (∀ (s : State) (v n : Nat), (getCore s v).wbuf.length ≤ n → exec (.storePerformed v n) s = .next s) ∧
  (∀ (s : State) (v : Nat) (e : WbEnt), let t := perform s v e
    let c := getCore s v
    let reports := fun (sub : Nat) => t.mem = s.mem ∧ (getCore t v).pend.deferred = c.pend.deferred ++
      [⟨20, sub, BitVec.ofNat 64 e.pc, c.ctx.toNat, if c.priv = .h then .h else .k⟩]
    (e.passes s v = false → reports 17) ∧
    (∀ k, e.passes s v = true → e.slot = some k → keyVal s k = none → reports 6) ∧
    (∀ k kv, e.passes s v = true → e.slot = some k → keyVal s k = some kv → t.mem = (homeWrite s (some v) kv e.pa e.bytes).mem) ∧
    (e.passes s v = true → e.slot = none → t.mem = (homeWrite s (some v) 0 e.pa e.bytes).mem)) ∧
  (∀ (s : State) (cl n : Nat), cl ≠ 68 → cl ≠ 69 → cl ≠ 71 → cl ≠ 72 →
    ∃ t, exec (.dirtyLogResume cl n) s = .next t ∧ t = { s with dirtyHeld := s.dirtyHeld.erase (cl, n) })

end Sys2Proof.Machine

/-- 04 R84, R86, R91; 05 R100, R112; 23 R369, R373: where window addresses lie, which stores are performed at once, which wait in the write
buffer, and when those are performed. -/
def Obligations.StorePlaces : Prop := WindowPlacesSpec ∧ StoresAtOnceSpec ∧ StoresBufferedSpec ∧ ResumedSpec

/-! Platform (25 R392 to R400; 24 R390, R391; 05 R113, R117) -/

namespace Sys2Proof.Machine

/-- 25 R394: a write of `cstart` starts a held core at H at the address written, as a reset leaves core 0 of its cluster; a core that
runs already keeps everything; no other core changes. -/
def CoreStartsSpec : Prop :=
  ∀ (s : State) (v : Nat) (x : BitVec 64), v < 512 →
    ((getCore s v).mode ≠ .held → exec (.cstartWrite v x) s = .next s) ∧
    ((getCore s v).mode = .held →
      ∃ t, exec (.cstartWrite v x) s = .next t ∧ t.mem = s.mem ∧ (∀ w, w ≠ v → getCore t w = getCore s w) ∧ let c := getCore t v
        c.mode = .run ∧ c.priv = .h ∧ c.pc.toNat = x.toNat % 2 ^ 48 - x.toNat % 2 ∧ c.tvech = s.mgmt.tvech ∧ (∀ n, n < 64 → c.getG n = 0) ∧
        (∀ n, n < 32 → c.getV n = 0) ∧ (∀ n, 0 < n → n < 8 → c.getK n = 0) ∧ c.getK 0 = BitVec.allOnes 64 ∧ c.rstack = [] ∧
        c.status = Status.reset ∧ c.task = none)

/-- 25 R397; 05 R113: a key slot takes its key by doublewords while it holds none; a write to one that holds a key, or retires, is
discarded and sets err, which a 1 written to it clears once the slot holds none. -/
def KeySlotsSpec : Prop :=
  ∀ (s : State) (n : BitVec 6) (w : Nat) (x : BitVec 64),
    let k := s.keys.getD n.toNat KeySlot.reset
    let after := fun (t : State) => t.keys.getD n.toNat KeySlot.reset
    (k.valid = true ∨ k.busy = true → ∃ t, exec (.keySlotWrite n w x) s = .next t ∧ t.mem = s.mem ∧ after t = { k with err := true }) ∧
    (k.valid = false → k.busy = false →
      (w < 8 → ∃ t, exec (.keySlotWrite n w x) s = .next t ∧ t.mem = s.mem ∧ (after t).key.extractLsb' (64 * w) 64 = x ∧
        (∀ j, j < 8 → j ≠ w → (after t).key.extractLsb' (64 * j) 64 = k.key.extractLsb' (64 * j) 64) ∧ (after t).valid = false ∧ (after t).err = k.err) ∧
      (w = 8 → ∃ t, exec (.keySlotWrite n w x) s = .next t ∧ t.mem = s.mem ∧
        after t = { k with valid := x.getLsbD 63, vm := x.extractLsb' 0 6 }) ∧
      (w = 9 → ∃ t, exec (.keySlotWrite n w x) s = .next t ∧ t.mem = s.mem ∧ after t = { k with err := k.err && !x.getLsbD 0 }) ∧
      (9 < w → exec (.keySlotWrite n w x) s = .next s))

/-- 25 R398, R399: a quote signs identity, measurement and nonce; a controller without service for 2^24 cycles restarts; neither changes
cores, fabric or memory. -/
def ControllerSpec : Prop :=
  (∀ (s : State) (nonce : BitVec 256), exec (.attestationQuote nonce) s = .next { s with
    mgmt := { s.mgmt with quote := Config.sign s.mgmt.identity s.mgmt.measure nonce, service := s.cycle.toNat } }) ∧
  (∀ s : State,
    (s.mgmt.service + 2 ^ 24 ≤ s.cycle.toNat →
      exec .watchdogRestart s = .next { s with mgmt := { s.mgmt with restarts := s.mgmt.restarts + 1, service := s.cycle.toNat } }) ∧
    (s.cycle.toNat < s.mgmt.service + 2 ^ 24 → exec .watchdogRestart s = .next s))

end Sys2Proof.Machine

/-- 05 R113, R115; 24 R388; 25 R397 to R399: key slots, `keyretire`, `trpause`, quotes and the watchdog. -/
def Obligations.KeysAndController : Prop := KeyRetirementSpec ∧ KeySlotsSpec ∧ ControllerSpec

namespace Sys2Proof.Machine

/-- 24 R391; 06 R134: a halt asks the cores of its scope to halt at their next boundary, and for a context keeps its tasks from dispatch;
a resume lets them go on, with the first instruction free of breakpoints. -/
def HaltsSpec : Prop :=
  ∀ (s : State) (x : BitVec 64), Untraced s →
    let v := x.toNat / 64 % 512
    let ctx := x.toNat % 64
    (x.getLsbD 61 = true → exec (.haltctlHalt x) s = .next s) ∧ (x.getLsbD 61 = false → exec (.haltctlResume x) s = .next s) ∧
    (x.getLsbD 61 = false → x.toNat / 2 ^ 62 = 0 → (getCore s v).mode ≠ .held → (getCore s v).halted = false →
      ∃ tr, exec (.haltctlHalt x) s = .next { updCore s v (fun c => { c with pend := { c.pend with halt := true } }) with trc := tr }) ∧
    (x.getLsbD 61 = false → x.toNat / 2 ^ 62 = 2 →
      ∃ t, exec (.haltctlHalt x) s = .next t ∧ (getCtx t ctx).halted = true ∧ t.mem = s.mem ∧
        (s.core.task.isSome → s.core.ctx.toNat = ctx → s.core.halted = false → t.core = { s.core with pend := { s.core.pend with halt := true } }) ∧
        (s.core.ctx.toNat ≠ ctx → s.others.all (fun p => p.1 != s.cur) = true → t.core = s.core)) ∧
    (x.getLsbD 61 = true → x.toNat / 2 ^ 62 = 0 → (getCore s v).mode ≠ .held → (getCore s v).ssb = none →
      ∃ tr, exec (.haltctlResume x) s = .next { updCore s v (fun c => { c with
        halted := false, skipBkpt := c.halted || c.skipBkpt, pend := { c.pend with halt := false } }) with trc := tr })

/-- Does the flat address lie in the core stores, exchange banks or scratchpads of quadrant `q`? -/
def inQuad (q a : Nat) : Prop :=
  (2 ^ 40 + 64 * q * 2 ^ 18 ≤ a ∧ a < 2 ^ 40 + 64 * (q + 1) * 2 ^ 18) ∨ (2 ^ 41 + 128 * q * 2 ^ 15 ≤ a ∧ a < 2 ^ 41 + 128 * (q + 1) * 2 ^ 15) ∨
  (2 ^ 42 + 8 * q * 2 ^ 22 ≤ a ∧ a < 2 ^ 42 + 8 * (q + 1) * 2 ^ 22)

end Sys2Proof.Machine

/-- 05 R116 to R118: a quadrant joins another partition once its SRAM is cleared; every gate between quadrants of different partitions is
then locked, and of the others those that level M had locked inside a partition; a map that parts a partition is refused. -/
def Obligations.Partitions : Prop :=
  ∀ (s : State) (q p : Nat), q < 8 → s.parts.part.getD q 0 ≠ p →
    let part := s.parts.part.setIfInBounds q p
    let own := s.parts.locked.filter (fun g => !(gatesOf s.parts.part).contains g && !(gatesOf part).contains g)
    let s1 : State := { s with parts := ⟨part, gatesOf part ++ own⟩ }
    (partsOk s1 = false → exec (.partitionChange q p) s = .next s) ∧
    (partsOk s1 = true → Memory.wf s.mem = true → (∀ c ∈ listedCores s, c.2.wbuf = [] ∧ c.2.wait = .none) →
      ∃ t, exec (.partitionChange q p) s = .next t ∧ t.parts.part = part ∧
        (∀ a b, (a, b) ∈ [(0, 1), (1, 2), (2, 3), (0, 3), (4, 5), (5, 6), (6, 7), (4, 7), (0, 4), (2, 6)] →
          (a * 8 + b ∈ t.parts.locked ↔ part.getD a 0 ≠ part.getD b 0 ∨
            (a * 8 + b ∈ s.parts.locked ∧ s.parts.part.getD a 0 = s.parts.part.getD b 0))) ∧
        (∀ a, inQuad q a → memGet t.mem a = 0) ∧ (∀ a, ¬ inQuad q a → memGet t.mem a = memGet s.mem a) ∧
        (∀ v, v / 64 = q → (getCore s v).l1 = [] ∨ (getCore t v).l1 = []) ∧ (∀ v, (getCore t v).g = (getCore s v).g))

namespace Sys2Proof.Machine

/-- 25 R392, R395; 24 R384, R390; 21 R351, R352: the management space by register, with its least levels: a write below them is
discarded, reserved bits read 0, `ftime` with a length outside 4 to 32 keeps its value, `bootst` and the remap table are not
written, and every other offset reads 0. Offsets inside the fabric and debug regions, the discard of a write below the level, and that
of a reserved bit written 1 are the model's (logs 22, 29 and 95). -/
def ManagementSpaceSpec : Prop :=
  (∀ (s : State) (lvl : BitVec 2) (off : Nat) (x : BitVec 64), lvl.toNat < 2 → exec (.mgmtRegWrite lvl off x) s = .next s ∧ mgmtRead s lvl.toNat off = 0) ∧
  (∀ (s : State) (n : Nat) (x : BitVec 64), n < 16 →
    ∃ t, exec (.mgmtRegWrite 2 (0x40000 + 8 * n) x) s = .next t ∧ mgmtRead t 2 (0x40000 + 8 * n) = x &&& 0xC03FFFFFFFFFFFFE ∧
      (∀ m, m < 16 → m ≠ n → mgmtRead t 2 (0x40000 + 8 * m) = mgmtRead s 2 (0x40000 + 8 * m)) ∧ t.core = s.core ∧ t.mem = s.mem) ∧
  (∀ (s : State) (x : BitVec 64), ∃ t, exec (.mgmtRegWrite 2 0x40088 x) s = .next t ∧ mgmtRead t 2 0x40088 = x &&& 0xFFFFFFFFFFFFFFC0 ∧
    (∀ d, t.trc.bufs.find? (bufNow t hbuf) = some d → d.whole = false) ∧ t.core = s.core ∧
    t.mem = s.mem) ∧
  (∀ (s : State) (off : Nat) (x : BitVec 64), off < 0x10000 ∨ (0x60000 ≤ off ∧ off < 0x100000) ∨ 0x300000 ≤ off →
    exec (.mgmtRegWrite 2 off x) s = .next s) ∧
  (∀ (s : State) (off : Nat), 8 ≤ off ∧ off < 0x1000 ∨ (0x51000 ≤ off ∧ off < 0x100000) ∨ 0x300000 ≤ off → mgmtRead s 3 off = 0) ∧
  (∀ s : State, mgmtRead s 2 0 = BitVec.ofNat 64 (s.mgmt.phase.toNat * 2 ^ 56 + s.mgmt.code.toNat * 2 ^ 8 + (if s.mgmt.stopped then 1 else 0))) ∧
  (∀ (s : State) (q : Nat), q < 8 → (mgmtRead s 2 0x23A00).toNat / 256 ^ q % 256 = s.parts.part.getD q 0 % 256) ∧
  (∀ (s : State) (n : Nat) (x : BitVec 64), n < 256 → s.fab.outs = [] →
    exec (.mgmtRegWrite 2 (0x22000 + 8 * n) x) s = .next s ∧
    ∃ t, exec (.mgmtRegWrite 3 (0x22000 + 8 * n) x) s = .next t ∧ (∀ i, i < 4 → t.fab.reach.getD (4 * n + i) 0 = x.extractLsb' (16 * i) 16 &&& 0xC000) ∧
      (∀ m, m / 4 ≠ n → t.fab.reach.getD m 0 = s.fab.reach.getD m 0) ∧ t.core = s.core ∧ t.mem = s.mem) ∧
  (∀ (s : State) (x : BitVec 64), let len := x.toNat / 256 % 64
    ∃ t, exec (.mgmtRegWrite 3 0x23900 x) s = .next t ∧ t.fab.ftime = if 4 ≤ len ∧ len ≤ 32 then x &&& 0x3F3F else s.fab.ftime)

end Sys2Proof.Machine

/-- 24 R390, R391; 25 R392, R394, R395: core starts, halts and the management space. -/
def Obligations.CoreControl : Prop := CoreStartsSpec ∧ HaltsSpec ∧ ManagementSpaceSpec

namespace Sys2Proof.Machine

/-- What a boot that completes, or stops at step `n`, and a loss of power leave; eight distinct values from 0 to 8 make a remap word. -/
def BootOk (s : State) (b : BootInput) : Prop :=
  b.failAt = 0 ∧ s.mgmt.rollback ≤ b.version ∧ b.remap.length = 64 ∧
  ∀ w ∈ b.remap, (∀ i, i < 8 → w.toNat / 16 ^ i % 16 ≤ 8) ∧ ∀ i j, i < j → j < 8 → w.toNat / 16 ^ i % 16 ≠ w.toNat / 16 ^ j % 16

/-- 25 R393 to R396; 01 R11: a reset whose steps succeed leaves `bootst` running, the remap table of the harvest record, core 0 of every
cluster at H at the image's `tvec.h` and every other core held, the fabric as the configuration record gives it, and may raise the rollback counter; an image below that
counter stops it at step 3 with every core held. What survives a loss of power is the flash; memory reads 0 (the model's
choice, log 3). -/
def BootSpec : Prop :=
  (∀ (s : State) (b : BootInput), BootOk s b → b.raises = none →
    ∃ t, exec (.deviceReset b) s = .next t ∧ t.mgmt.phase = 0xFF ∧ t.mgmt.code = 0 ∧ t.mgmt.remap = b.remap ∧ t.mgmt.rollback = s.mgmt.rollback ∧
      t.mgmt.identity = s.mgmt.identity ∧ t.empties = [] ∧ t.fab.own = s.fab.own ∧ t.gangs = [] ∧ t.grids = [] ∧
      (∀ v, v < 512 → (getCore t v).mode = (if v % 8 = 0 then .run else .held)) ∧ t.core.pc = b.tvech ∧ t.core.priv = .h ∧ t.mgmt.tvech = b.tvech ∧
      t.fab.fepoch = b.fepoch ∧ (let len := b.ftime.toNat / 256 % 64
        4 ≤ len → len ≤ 32 → t.fab.ftime = b.ftime &&& 0x3F3F) ∧ (t.fab.reach.getD s.fab.own.toNat 0).getLsbD 15 = true) ∧
  (∀ (s : State) (b : BootInput) (r : Nat), BootOk s b → b.raises = some r →
    ∃ t, exec (.deviceReset b) s = .next t ∧ t.mgmt.rollback = max s.mgmt.rollback r) ∧
  (∀ (s : State) (b : BootInput), b.failAt = 0 → b.version < s.mgmt.rollback →
    ∃ t, exec (.deviceReset b) s = .next t ∧ t.mgmt.phase = 3 ∧ t.mgmt.code = 3 ∧ t.mgmt.rollback = s.mgmt.rollback ∧
      ∀ v, v < 512 → (getCore t v).mode = .held) ∧
  (∀ (s : State) (torn : Bool), torn = false ∨ s.mgmt.raises = none →
    ∃ t, exec (.powerLoss torn) s = .next t ∧ t.mgmt.rollback = s.mgmt.rollback ∧ t.mgmt.identity = s.mgmt.identity ∧ t.mem = [] ∧ t.keys = [] ∧
      ∀ v, v < 512 → (getCore t v).mode = .held) ∧
  (∀ (s : State) (old : Nat), s.mgmt.raises = some old →
    ∃ t, exec (.powerLoss true) s = .next t ∧ (t.mgmt.rollback = old ∨ t.mgmt.rollback = s.mgmt.rollback))

/-- 25 R400: a cluster's throttle level is the greater of the full degrees above 95 °C of the highest reading that concerns it and the
full 40 W steps above 2600 W, at most 15; at 110 °C everything stops, `bootst` shows 0xFE and the lasers are dark; a stopped
device's cores issue nothing. -/
def ThrottlingSpec : Prop :=
  (∀ (s : State) (cl watts : Nat) (temp : BitVec 16) (mv : BitVec 12), cl < 64 → temp.toNat < 1760 →
    let spots := max (getMonitor s (128 + 2 * (cl / 8))).temp.toNat (getMonitor s (129 + 2 * (cl / 8))).temp.toNat
    ∃ t, exec (.throttleUpdate cl temp mv watts) s = .next t ∧ (getMonitor t cl).temp = temp ∧ (getMonitor t cl).mv = mv ∧
      (getMonitor t cl).thr.toNat = min 15 (max ((max temp.toNat spots - 1520) / 16) ((watts - 2600) / 40)) ∧
      (∀ c, c < 64 → c ≠ cl → (getMonitor t c).thr.toNat = min 15 (max ((max (getMonitor s c).temp.toNat
        (max (getMonitor s (128 + 2 * (c / 8))).temp.toNat (getMonitor s (129 + 2 * (c / 8))).temp.toNat) - 1520) / 16) ((watts - 2600) / 40))) ∧
      t.core = s.core ∧ t.mem = s.mem ∧ t.mgmt.phase = s.mgmt.phase) ∧
  (∀ (s : State) (cl watts : Nat) (temp : BitVec 16) (mv : BitVec 12), cl < 64 → 1760 ≤ temp.toNat →
    ∃ t, exec (.throttleUpdate cl temp mv watts) s = .next t ∧ t.mgmt.phase = 0xFE ∧ t.mgmt.lasers = false ∧ t.mem = s.mem) ∧
  (∀ s : State,
    ((∃ p ∈ s.mgmt.monitors, 1760 ≤ p.2.temp.toNat) → exec .thermalTrip s = .next { s with mgmt := { s.mgmt with phase := 0xFE, lasers := false } }) ∧
    ((∀ p ∈ s.mgmt.monitors, p.2.temp.toNat < 1760) → exec .thermalTrip s = .next s)) ∧
  (∀ (s : State) (dt : Nat) (r : List Turn), s.mgmt.phase = 0xFE → s.agenda = ⟨dt, .core s.cur⟩ :: r → r ≠ [] →
    step s = .next (tick { s with agenda := r } dt))

end Sys2Proof.Machine

/-- 25 R393 to R396, R400; 01 R11: resets, power and limits. -/
def Obligations.BootAndPower : Prop := BootSpec ∧ ThrottlingSpec

/-! The Berivirek fabric: requests of other nodes, their answers, ports (21; 11 R230, R234; 18 R324) -/

namespace Sys2Proof.Machine

/-- A sound request of another node to this one, of this kind, whose turn it is; nothing else is held up here (21 R355, R357). -/
def Arrives (kind : Nat) (p : Packet) (s : State) : Prop :=
  p.kind.toNat = kind ∧ p.cls = 0 ∧ p.dst = s.fab.own ∧ headerBad p = false ∧ p.src ≠ s.fab.own ∧ s.fab.markers = [] ∧ s.fab.held = [] ∧
  s.fab.full = [] ∧ (p.chan = 0 ∨ p.seq.toNat = s.fab.recvSeq.getD (p.src.toNat * 4 + p.chan.toNat) 0)

/-- Between `s` and `t` the request `p` is answered: with this kind, cause and data, under its tag (21 R358). -/
def Answered (s t : State) (p : Packet) (kind cause : Nat) (data : List Byte) : Prop :=
  ∃ r, t.fab.outbox = s.fab.outbox ++ [r] ∧ r.dst = p.src ∧ r.src = s.fab.own ∧ r.cls = 1 ∧ r.kind.toNat = kind ∧ r.cause.toNat = cause ∧
    r.tag = p.tag ∧ r.data = data

/-- The window of an address admits an access of `n` bytes (21 R360): its kind, context and translated address. -/
def Window (s : State) (p : Packet) (n : Nat) (write : Bool) (kind ctx va : Nat) : Prop :=
  let w := s.fab.windows.getD (p.addr.toNat / 2 ^ 42 % 64) []
  let w0 := (w.getD 0 0).toNat
  let off := p.addr.toNat % 2 ^ 42
  p.addr.toNat < 2 ^ 48 ∧ bitOf w0 63 = true ∧ fld w0 62 60 = kind ∧ fld w0 5 0 = ctx ∧ fld w0 47 38 ≤ p.src.toNat ∧ p.src.toNat ≤ fld w0 37 28 ∧
  (write = true → bitOf w0 59 = true) ∧ off + n ≤ (w.getD 2 0).toNat ∧ va = (w.getD 1 0).toNat + off

/-- Bytes of a load or store (log 15), and its data. -/
def sizeOf_ (p : Packet) : Nat := p.sub.toNat % 64 + 1
def storedOf (p : Packet) (n : Nat) : List Byte := (p.data ++ List.replicate n 0).take n

/-- The place of an access of the request's context at this node: inside one line, outside every window of SRAM, in device memory, not
in error where it is read, and not at a synchronisation engine that stalls. -/
def PlacedAt (s s1 : State) (ctx va n acc : Nat) (l : Loc) : Prop :=
  va < 0xFFFFFFC00000 ∧ va / 128 = (va + n - 1) / 128 ∧ translate ⟨irqCore s ctx, ctx, .u⟩ va acc s = .ok (l, s1) ∧ l.place ≠ .remote ∧
  syeStalled s1 l = false ∧ (acc % 2 = 1 → eccHit s1 l.at_ n = false)

/-- 21 R355, R358 to R361; 07 R153: a remote load or store through a kind-0 window is performed in the window's context, and answered with
the bytes, filled up to a doubleword, or acknowledged; one that the window does not admit is answered with cause 6 and an
element that is not aligned with cause 4. A kind-3 window reads and writes a management register as level M does (log 28); a write that the
register refuses is answered with cause 1. A reply is filled up with zeros (log 38), and a size stands in the sub field (log 15). -/
def RemoteAccessesSpec : Prop :=
  (∀ (p : Packet) (s s1 : State) (ctx va : Nat) (l : Loc), let n := sizeOf_ p
    Arrives 0 p s → Window s p n false 0 ctx va → (n = 2 ∨ n = 4 ∨ n = 8 → va % n = 0) → PlacedAt s s1 ctx va n 1 l →
    ∃ t, exec (.loadPacket p) s = .next t ∧ t.mem = s1.mem ∧ t.core = s1.core ∧
      Answered s1 t p 0 0 (homeRead s1 l.kv l.at_ n ++ List.replicate (8 - n) 0)) ∧
  (∀ (p : Packet) (s s1 s2 : State) (ctx va : Nat) (l : Loc), let n := sizeOf_ p
    Arrives 1 p s → Window s p n true 0 ctx va → (n = 2 ∨ n = 4 ∨ n = 8 → va % n = 0) → PlacedAt s s1 ctx va n 2 l →
    logWrite ⟨irqCore s1 ctx, ctx, .u⟩ l s1 = .ok ((), s2) → s2.fab = s.fab →
    ∃ t, exec (.storePacket p) s = .next t ∧ t.mem = (homeWrite s2 none l.kv l.at_ (storedOf p n)).mem ∧ t.core.g = s2.core.g ∧
      Answered s t p 9 0 []) ∧
  (∀ (p : Packet) (s : State), let n := sizeOf_ p
    ((∀ kind ctx va, ¬ Window s p n false kind ctx va) → Arrives 0 p s →
      ∃ t, exec (.loadPacket p) s = .next t ∧ t.mem = s.mem ∧ t.core = s.core ∧ Answered s t p 0 6 []) ∧
    ((∀ kind ctx va, ¬ Window s p n true kind ctx va) → Arrives 1 p s →
      ∃ t, exec (.storePacket p) s = .next t ∧ t.mem = s.mem ∧ t.core = s.core ∧ Answered s t p 9 6 [])) ∧
  (∀ (p : Packet) (s : State) (ctx va : Nat), let n := sizeOf_ p
    Arrives 0 p s → Window s p n false 0 ctx va → n = 2 ∨ n = 4 ∨ n = 8 → va % n ≠ 0 →
    ∃ t, exec (.loadPacket p) s = .next t ∧ t.mem = s.mem ∧ t.core = s.core ∧ Answered s t p 0 4 []) ∧
  (∀ (p : Packet) (s : State) (ctx va : Nat), Arrives 0 p s → sizeOf_ p = 8 → Window s p 8 false 3 ctx va → p.addr.toNat % 8 = 0 →
    ∃ t, exec (.loadPacket p) s = .next t ∧ t.mem = s.mem ∧ t.core = s.core ∧
      Answered s t p 0 0 (leBytes 8 (mgmtRead s 3 (p.addr.toNat % 2 ^ 42)).toNat)) ∧
  (∀ (p : Packet) (s : State) (ctx va : Nat), Arrives 1 p s → sizeOf_ p = 8 → Window s p 8 true 3 ctx va → p.addr.toNat % 8 = 0 →
    let r := mgmtWrite s 3 (p.addr.toNat % 2 ^ 42) (BitVec.ofNat 64 (ofLe (storedOf p 8)))
    (∀ s1, r = some s1 → s1.fab = s.fab →
      ∃ t, exec (.storePacket p) s = .next t ∧ t.mgmt = s1.mgmt ∧ t.mem = s1.mem ∧ t.core = s1.core ∧ Answered s t p 9 0 []) ∧
    (r = none → ∃ t, exec (.storePacket p) s = .next t ∧ t.mgmt = s.mgmt ∧ t.mem = s.mem ∧ t.core = s.core ∧ Answered s t p 9 1 []))

/-- 21 R361; 19 R331 to R333; 07 R156, R157: a remote atomic and a full/empty access are performed at their home as a core's own would be
and answered with the old value; a full/empty access whose condition does not hold joins the home's list without an answer;
an atomic outside a sync page is answered with cause 19, an operand that is not aligned with cause 4. -/
def RemoteAtomicsSpec : Prop :=
  (∀ (p : Packet) (s s1 s2 : State) (ctx va : Nat) (l : Loc),
    let op := p.sub.toNat % 32
    let dbl := p.sub.getLsbD 5
    let n := atomBytes op dbl
    Arrives 2 p s → p.sub ≠ 1023 → op < 14 → Window s p n true 0 ctx va → va % n = 0 → PlacedAt s s1 ctx va n 3 l →
    (l.place = .hbm → l.sync = true → logWrite ⟨irqCore s1 ctx, ctx, .u⟩ l s1 = .ok ((), s2) → s2.fab = s.fab →
      let r := atomHome s2 l.kv l.at_ op dbl (ofLe (p.data.take 8)) (ofLe ((p.data.drop 8).take 8))
      ∃ t, exec (.atomicPacket p) s = .next t ∧ t.mem = r.2.mem ∧ t.core.g = s2.core.g ∧ Answered s t p 2 0 (leBytes 8 r.1)) ∧
    (l.sync = false →
      ∃ t, exec (.atomicPacket p) s = .next t ∧ t.mem = s.mem ∧ Answered s t p 2 19 [])) ∧
  (∀ (p : Packet) (s : State) (ctx va : Nat), let n := if p.sub.getLsbD 5 then 8 else 4
    Arrives 2 p s → p.sub.toNat % 32 < 13 → Window s p n true 0 ctx va → va % n ≠ 0 →
    ∃ t, exec (.atomicPacket p) s = .next t ∧ t.mem = s.mem ∧ Answered s t p 2 4 []) ∧
  (∀ (p : Packet) (s s1 s2 : State) (ctx va : Nat) (l : Loc),
    let mode := p.sub.toNat
    let data := BitVec.ofNat 64 (ofLe (p.data.take 8))
    Arrives 3 p s → 2 ≤ mode → mode ≤ 5 → Window s p 8 true 0 ctx va → va % 8 = 0 →
    PlacedAt s s1 ctx va 8 (if mode = 3 ∨ mode = 4 then 2 else 1) l → l.place = .hbm →
    logWrite ⟨irqCore s1 ctx, ctx, .u⟩ l s1 = .ok ((), s2) → s2.fab = s.fab →
    (feReady (feFull s2 l.at_) mode = true → s2.feq = [] → let r := feHome s2 none l.kv l.at_ mode data
      ∃ t, exec (.fullEmptyPacket p) s = .next t ∧ t.mem = r.2.mem ∧ t.empties = r.2.empties ∧
        Answered s t p 3 0 (if mode = 3 ∨ mode = 4 then [] else leBytes 8 r.1.toNat)) ∧
    (feReady (feFull s2 l.at_) mode = false →
      ∃ t, exec (.fullEmptyPacket p) s = .next t ∧ t.mem = s2.mem ∧ t.fab.outbox = s.fab.outbox ∧
        t.feq = s2.feq ++ [⟨l.at_, mode, data, l.kv, l.logAt ⟨irqCore s2 ctx, ctx, .u⟩, none, some p, false⟩]))

end Sys2Proof.Machine

/-- 21 R358 to R361: accesses of other nodes to this one's memory. -/
def Obligations.RemoteMemory : Prop := RemoteAccessesSpec ∧ RemoteAtomicsSpec

namespace Sys2Proof.Machine

/-- The packet names the on-chip entry `e` of this node, under `slot`. -/
def NamedBy (s : State) (p : Packet) (slot : Nat) (e : Entry) : Prop :=
  hCtx p.addr = p.ctx.toNat ∧ hKind p.addr ≤ 3 ∧ e.handle = p.addr ∧ entryAt s (hHome p.addr) slot = some e ∧
  List.find? (fun q => q.2.handle == p.addr) (getCl s (hHome p.addr)).ft = some (slot, e) ∧ s.drops = [] ∧ 0 < e.refs

/-- 11 R230, R234, R236, R237; 10 R213, R215; 21 R361: a far spawn places its record here and answers with the handle; a `resolve` of
another node finishes a promise of this one; a registration joins the waiters of an unfinished future, and is answered with
what a finished one holds, whose reference it releases (their forms: logs 15, 38, 39). Cause 21 answers an invalid context or a handle of another kind. -/
def RemoteTasksSpec : Prop :=
  (∀ (p : Packet) (s s1 : State) (h : Word), Arrives 4 p s → let f := p.sub.toNat
    (ctxValid s p.ctx.toNat = true → f / 8 % 2 = 0 →
      spillWaits s p.ctx.toNat (spawnHome s p.ctx.toNat (f % 4) (f / 16 % 64) (f / 16 % 64) (BitVec.ofNat 64 (ofLe (p.data.take 8)))) = false →
      spawnAt p.ctx.toNat (f % 4) (f / 16 % 64) (f / 16 % 64) (BitVec.ofNat 64 (ofLe (p.data.take 8)))
        (BitVec.ofNat 64 (ofLe ((p.data.drop 8).take 8))) (BitVec.ofNat 64 (ofLe ((p.data.drop 16).take 8))) p.addr (f / 4 % 2) true s = .ok (h, s1) →
      s1.fab = s.fab →
      ∃ t, exec (.spawnPacket p) s = .next t ∧ t.gangs = s1.gangs ∧ t.clusters = s1.clusters ∧ t.mem = s1.mem ∧
        Answered s t p 4 0 (leBytes 8 h.toNat)) ∧
    (ctxValid s p.ctx.toNat = false → ∃ t, exec (.spawnPacket p) s = .next t ∧ t.gangs = s.gangs ∧ t.mem = s.mem ∧ Answered s t p 4 21 [])) ∧
  (∀ (p : Packet) (s : State) (slot : Nat) (e : Entry), Arrives 5 p s → p.sub = 0 → NamedBy s p slot e →
    (e.kind = 1 → ∃ t, exec (.resolvePacket p) s = .next t ∧ t.mem = s.mem ∧ t.core = s.core ∧ Answered s t p 5 0 [] ∧
      entryAt t (hHome p.addr) slot =
        some (if e.st.done then e else { e with st := .resolved, value := BitVec.ofNat 64 (ofLe (p.data.take 8)), code := 0 })) ∧
    (e.kind ≠ 1 → ∃ t, exec (.resolvePacket p) s = .next t ∧ t.clusters = s.clusters ∧ t.mem = s.mem ∧ Answered s t p 5 21 [])) ∧
  (∀ (p : Packet) (s : State) (slot : Nat) (e : Entry), Arrives 6 p s → p.sub = 1 → NamedBy s p slot e →
    let ref := ofLe (p.data.take 8) % 2 ^ 26
    (e.st.done = false → ⟨p.addr, ref⟩ ∉ s.waits →
      ∃ t, exec (.remoteTouchRegistration p) s = .next t ∧ t.mem = s.mem ∧ t.core = s.core ∧ t.waits = s.waits ++ [⟨p.addr, ref⟩] ∧
        Answered s t p 6 0 (leBytes 8 1 ++ leBytes 8 0 ++ leBytes 8 0)) ∧
    (e.st = .resolved → waitersOf s p.addr = [] →
      ∃ t, exec (.remoteTouchRegistration p) s = .next t ∧ t.mem = s.mem ∧ t.core = s.core ∧ entryAt t (hHome p.addr) slot = lessOne e ∧
        Answered s t p 6 0 (leBytes 8 0 ++ leBytes 8 e.value.toNat ++ leBytes 8 e.code)))

/-- 21 R357: on an ordered channel a request that comes early is held and one that came before is discarded; neither is performed. -/
def ChannelOrderSpec : Prop :=
  ∀ (kind : Nat) (ins : Packet → Instr) (p : Packet) (s : State),
    (kind, ins) ∈ [(1, Instr.storePacket), (2, Instr.atomicPacket), (4, Instr.spawnPacket), (8, Instr.multicast)] →
    let next := s.fab.recvSeq.getD (p.src.toNat * 4 + p.chan.toNat) 0
    let ahead := (p.seq.toNat + 2 ^ 32 - next) % 2 ^ 32
    p.kind.toNat = kind → p.cls = 0 → p.dst = s.fab.own → headerBad p = false → p.src ≠ s.fab.own → s.fab.markers = [] → s.fab.held = [] →
    s.fab.full = [] → p.chan ≠ 0 → next < 2 ^ 32 →
    (0 < ahead → ahead < 64 → exec (ins p) s = .next { s with fab := { s.fab with held := [p] } }) ∧
    (64 ≤ ahead → exec (ins p) s = .next s)

/-- 18 R324; 21 R362, R363: a row is read or written here by the requester's context; a member of a multicast group performs the store at
its own base and acknowledges it; one whose entry differs from the sender's answers cause 18, and an element that is not aligned
cause 4 (what the sender makes of these is the model's choice, log 37). -/
def RemoteRowsSpec : Prop :=
  (∀ (p : Packet) (s s1 : State) (b : List Byte), Arrives 7 p s → p.sub.getLsbD 8 = true →
    p.addr.toNat % 2 ^ 48 + (p.sub.toNat % 256 + 1) ≤ 0xFFFFFFC00000 →
    engRead [] ⟨irqCore s p.ctx.toNat, p.ctx.toNat, .u⟩ (p.addr.toNat % 2 ^ 48) (p.sub.toNat % 256 + 1) s = .ok (b, s1) → s1.fab = s.fab →
    b.length = p.sub.toNat % 256 + 1 → 8 ≤ b.length →
    ∃ t, exec (.copySegment p) s = .next t ∧ t.mem = s1.mem ∧ t.core = s1.core ∧ Answered s t p 7 0 b) ∧
  (∀ (p : Packet) (s : State), Arrives 7 p s → 0xFFFFFFC00000 ≤ p.addr.toNat % 2 ^ 48 →
    ∃ t, exec (.copySegment p) s = .next t ∧ t.mem = s.mem ∧ t.core = s.core ∧ Answered s t p (if p.sub.getLsbD 8 then 7 else 9) 6 []) ∧
  (∀ (p : Packet) (s : State), let n := sizeOf_ p
    let grp := p.addr.toNat / 2 ^ 42 % 64
    let e := s.fab.groups.getD grp []
    let e0 := e.getD 0 0
    let off := p.addr.toNat % 2 ^ 42
    let va := (e.getD 1 0).toNat + off
    let fits := e0.getLsbD 63 = true ∧ e0.getLsbD 62 = p.sub.getLsbD 7 ∧ (e0.getLsbD 62 = true → e0.toNat / 64 % 1024 = p.src.toNat) ∧
      e0.toNat % 64 = p.ctx.toNat ∧ Config.sameEntry p.src.toNat grp e = true ∧ (e.getD (4 + s.fab.own.toNat / 64) 0).getLsbD (s.fab.own.toNat % 64) = true ∧ off + n ≤ (e.getD 2 0).toNat
    Arrives 8 p s → p.sub.getLsbD 6 = true →
    (∀ (s1 s2 : State) (l : Loc), fits → (n = 2 ∨ n = 4 ∨ n = 8 → va % n = 0) → PlacedAt s s1 p.ctx.toNat va n 2 l →
      logWrite ⟨irqCore s1 p.ctx.toNat, p.ctx.toNat, .u⟩ l s1 = .ok ((), s2) → s2.fab = s.fab →
      ∃ t, exec (.multicast p) s = .next t ∧ t.mem = (homeWrite s2 none l.kv l.at_ (storedOf p n)).mem ∧ Answered s t p 9 0 []) ∧
    (fits → n = 2 ∨ n = 4 ∨ n = 8 → va % n ≠ 0 →
      ∃ t, exec (.multicast p) s = .next t ∧ t.mem = s.mem ∧ t.core = s.core ∧ Answered s t p 9 4 []) ∧
    (¬ fits → ∃ t, exec (.multicast p) s = .next t ∧ t.mem = s.mem ∧ t.core = s.core ∧ Answered s t p 9 18 []))

end Sys2Proof.Machine

/-- 11 R230, R234, R236, R237; 18 R324; 21 R361 to R363: task operations, rows and multicast stores of other nodes. -/
def Obligations.RemoteWork : Prop := RemoteTasksSpec ∧ RemoteRowsSpec

namespace Sys2Proof.Machine

/-- A sound answer of another node, and the request that it answers. -/
def Answers (p : Packet) (o : Out) (s : State) : Prop :=
  p.cls = 1 ∧ p.dst = s.fab.own ∧ headerBad p = false ∧ p.src ≠ s.fab.own ∧
  s.fab.outs.find? (fun x => x.tag == p.tag.toNat && x.dst == p.src.toNat) = some o

/-- The active core has met data in error: cause 20 with sub 1 is deferred (06 R132, 25 R399). -/
def Told (s t : State) : Prop :=
  t.core.pend.deferred = s.core.pend.deferred ++ [⟨20, 1, s.core.pc.setWidth 64, s.core.ctx.toNat, if s.core.priv = .h then .h else .k⟩]

/-- 21 R358, R359; 06 R132: the reply to a load of the waiting core gives its register and lets it go on; a cause in it is raised by that
instruction, but data in error are reported as the deferred cause 20 with sub 1 while the instruction completes (logs 51, 102); an
acknowledgement completes a posted store, and a refused or lost store is reported as cause 20 with sub 18 and the store's address. The unit
that an answer is for hears it (24 R380). -/
def RepliesTakenSpec : Prop :=
  (∀ (p : Packet) (o : Out) (s : State) (d size : Nat), Answers p o s → p.kind = 0 → o.forw = .reg s.cur d 0 false size → o.left = 1 →
    s.core.wait = .reply o.tag → s.core.wins = [] → s.core.cont = none → p.sub.toNat % 64 = 7 →
    (p.cause = 0 → ∃ t, exec (.replyPacket p) s = .next t ∧ t.fab.outs = s.fab.outs.erase o ∧ t.mem = s.mem ∧ t.core.wait = .none ∧
      t.core.g = (s.core.setG d (BitVec.ofNat 64 (ofLe (p.data.take 8)))).g ∧ t.core.pc = s.core.pc + BitVec.ofNat 48 size) ∧
    (p.cause ≠ 0 → p.cause ≠ 5 → p.cause ≠ 20 →
      let s1 := hearFrom s s.cur p.stamp.toNat
      exec (.replyPacket p) s = .next (takeTrap { s1 with fab := { s1.fab with outs := s.fab.outs.erase o } } size
        { code := p.cause.toNat, tval := BitVec.ofNat 64 o.va })) ∧
    (p.cause = 20 → s.core.task = none → ∃ t x, exec (.replyPacket p) s = .next t ∧ t.fab.outs = s.fab.outs.erase o ∧ t.mem = s.mem ∧ t.core.wait = .none ∧
      t.core.g = (s.core.setG d x).g ∧ t.core.pc = s.core.pc + BitVec.ofNat 48 size ∧ Told s t ∧
      (p.data ≠ [] → x = BitVec.ofNat 64 (ofLe (p.data.take 8))))) ∧
  (∀ (p : Packet) (o : Out) (s : State) (v pc : Nat), Answers p o s → p.kind = 9 → o.forw = .store v pc → o.left = 1 → s.fab.full = [] →
    let s0 := hearFrom s v p.stamp.toNat
    let s1 : State := { s0 with fab := { s0.fab with outs := s.fab.outs.erase o } }
    (p.cause = 0 → exec (.acknowledge p) s = .next s1) ∧
    (p.cause ≠ 0 → exec (.acknowledge p) s = .next (postDeferred s1 v 18 (BitVec.ofNat 64 pc) (getCore s v).ctx.toNat))) ∧
  (∀ (o : Out) (s : State) (v pc : Nat), s.fab.outs.find? (fun x => x.tag == o.tag) = some o → o.forw = .store v pc → s.fab.outbox = [] →
    exec (.transportFailure o.tag false) s = .next (postDeferred { s with fab := { s.fab with outs := s.fab.outs.erase o } } v 18
      (BitVec.ofNat 64 pc) (getCore s v).ctx.toNat)) ∧
  (∀ (n : Nat) (done : Bool) (s : State), s.fab.outs.find? (fun o => o.tag == n) = none → exec (.transportFailure n done) s = .next s)

/-- 21 R355, R356, R353, R367: a packet whose header breaks its layout is discarded and counted at one port; one for another node joins the
relay store; a drain marker is answered once every earlier packet of its channel and source is performed, and waits otherwise;
its acknowledgement counts at every port that has sent one, and with the last one every port in MARK is READY. -/
def ControlPacketsSpec : Prop :=
  (∀ (p : Packet) (s : State), p.src ≠ s.fab.own →
    (headerBad p = true → ∃ t n, exec (.packetDiscard p) s = .next t ∧ n < 32 ∧ (getPort t n).errors = (getPort s n).errors + 1 ∧
      (∀ m, m ≠ n → getPort t m = getPort s m) ∧ t.mem = s.mem ∧ t.core = s.core ∧ t.fab.outbox = s.fab.outbox) ∧
    (headerBad p = false → exec (.packetDiscard p) s = .next s)) ∧
  (∀ (p : Packet) (s : State),
    (p.dst ≠ s.fab.own → exec (.relayReceive p) s = .next { s with fab := { s.fab with relay := s.fab.relay ++ [p] } }) ∧
    (p.dst = s.fab.own → exec (.relayReceive p) s = .next s)) ∧
  (∀ (p : Packet) (s : State), p.kind = 10 → p.cls = 2 → p.dst = s.fab.own → headerBad p = false → p.src ≠ s.fab.own → s.fab.markers = [] →
    (s.fab.held = [] → s.fab.full = [] → s.feq = [] → s.bards = [] →
      p.chan = 0 ∨ p.seq.toNat = s.fab.recvSeq.getD (p.src.toNat * 4 + p.chan.toNat) 0 →
      ∃ t r, exec (.drainMarker p) s = .next t ∧ t.fab.outbox = s.fab.outbox ++ [r] ∧ r.kind = 11 ∧ r.cls = 2 ∧ r.dst = p.src ∧ r.chan = p.chan ∧
        r.tag = p.tag ∧ t.fab.markers = [] ∧ t.core = s.core ∧ t.mem = s.mem) ∧
    ((∃ q ∈ s.fab.held, q.src = p.src ∧ q.chan = p.chan) →
      exec (.drainMarker p) s = .next { s with fab := { s.fab with markers := [p] } })) ∧
  (∀ (p : Packet) (s : State), p.kind = 11 → p.cls = 2 → p.dst = s.fab.own → headerBad p = false → p.src ≠ s.fab.own →
    ∃ t, exec (.markerAcknowledge p) s = .next t ∧ t.mem = s.mem ∧ t.core = s.core ∧
      ∀ n, n < 32 → getPort t n = { getPort s n with
        acked := if p.src.toNat ∈ (getPort s n).sent then (getPort s n).acked ++ [p.src.toNat * 4 + p.chan.toNat] else (getPort s n).acked
        st := if (getPort s n).st = .mark ∧ allAcked t = true then .ready else (getPort s n).st })

end Sys2Proof.Machine

/-- 21 R353, R355 to R359, R367: channel order, answers, markers, relays and discards. -/
def Obligations.Answering : Prop := ChannelOrderSpec ∧ RepliesTakenSpec ∧ ControlPacketsSpec

namespace Sys2Proof.Machine

/-- In slot `k` port `n` alone sends, to `peer`. -/
def SendsTo (s : State) (k n peer : Nat) : Prop :=
  let p := getPort s n
  let e := p.cal.getD (k % (s.fab.ftime.toNat % 64 + 1)) 0
  n < 32 ∧ p.width ≠ 0 ∧ p.st = .run ∧ e.getLsbD 15 = true ∧ e.toNat % 1024 = peer ∧ (∀ m, m < 32 → m ≠ n → (getPort s m).width = 0) ∧
  s.fab.relay = []

/-- Slot `k` may begin now: a dark interval has begun, and the trace time is in the slot but not in the dark interval at its end. -/
def SlotNow (s : State) (k : Nat) : Prop :=
  let len := 4000 * (s.fab.ftime.toNat / 256 % 64)
  s.fab.dark = true ∧ s.fab.fepoch.toNat + k * len ≤ traceTime s 0 ∧ traceTime s 0 + 1536 < s.fab.fepoch.toNat + (k + 1) * len

/-- The dark interval of the current slot may begin now: 96 ns or less of the slot are left. -/
def DarkNow (s : State) : Prop :=
  s.fab.dark = false ∧ s.fab.fepoch.toNat + (s.fab.slot + 1) * (4000 * (s.fab.ftime.toNat / 256 % 64)) ≤ traceTime s 0 + 1536

/-- 21 R349 to R353: a slot begins at its trace time; in it a packet for the port's peer leaves, stamped then, where it fits in what the
lanes move in the slot without its dark interval, after those before it; the first that does not fit, and one for a direct peer
of another slot, waits. At
other times no slot begins. -/
def SlotsSpec : Prop :=
  (∀ (s : State) (k n peer : Nat) (p : Packet), SendsTo s k n peer → SlotNow s k → s.fab.outbox = [p] →
    let room := (getPort s n).width * 8 * (250 * (s.fab.ftime.toNat / 256 % 64) - 96)
    let sent := { p with relay := s.fab.own, stamp := BitVec.ofNat 64 (traceTime s (n / 16)) }
    (p.dst.toNat = peer → 32 + 32 * p.nflit.toNat ≤ room →
      exec (.slotStart k) s = .next { s with fab := { s.fab with slot := k, dark := false, outbox := [], light := [sent] } }) ∧
    (p.dst.toNat ≠ peer → (s.fab.reach.getD p.dst.toNat 0).getLsbD 14 = true →
      exec (.slotStart k) s = .next { s with fab := { s.fab with slot := k, dark := false, light := [] } })) ∧
  (∀ (s : State) (k n peer : Nat) (ps : List Packet) (p : Packet), SendsTo s k n peer → SlotNow s k → s.fab.outbox = ps ++ [p] →
    (∀ q ∈ s.fab.outbox, q.dst.toNat = peer) →
    let room := (getPort s n).width * 8 * (250 * (s.fab.ftime.toNat / 256 % 64) - 96)
    let total := (ps.map (fun q => 32 + 32 * q.nflit.toNat)).sum
    total ≤ room → room < total + (32 + 32 * p.nflit.toNat) →
    exec (.slotStart k) s = .next { s with fab := { s.fab with
      slot := k, dark := false, outbox := [p]
      light := ps.map (fun q => { q with relay := s.fab.own, stamp := BitVec.ofNat 64 (traceTime s (n / 16)) }) } }) ∧
  (∀ (s : State) (k : Nat), ¬ SlotNow s k → exec (.slotStart k) s = .next s)

/-- 21 R349, R364: lanes that fail lower a port's width at the next dark interval, by one step of 8, 4, 2 and 1 and to no more than the
working lanes carry (several lost at once: log 33). -/
def LanesSpec : Prop :=
  (∀ (s : State) (n : Nat) (lanes : BitVec 8), n < 32 → ∃ t, exec (.laneLoss n lanes) s = .next t ∧
    (getPort t n).lanes = (getPort s n).lanes &&& ~~~lanes ∧ (getPort t n).width = (getPort s n).width ∧
    (getPort t n).lost = ((getPort s n).lost || (getPort s n).lanes &&& lanes != 0) ∧ (∀ m, m ≠ n → getPort t m = getPort s m) ∧ t.core = s.core ∧ t.mem = s.mem) ∧
  (∀ s : State, DarkNow s → s.fab.farm = 0 → s.fab.outs = [] → s.fab.light = [] → Untraced s →
    ∃ t, exec .darkInterval s = .next t ∧ t.fab.dark = true ∧ t.core = s.core ∧ t.mem = s.mem ∧
      ∀ n, n < 32 → (getPort t n).st = (getPort s n).st ∧ (getPort t n).lost = false ∧ (getPort t n).width =
        let up := ((List.range 8).filter (fun i => (getPort s n).lanes.getLsbD i)).length
        if (getPort s n).lost = false then (getPort s n).width else if up = 0 then 0
        else min (getPort s n).width (max 1 (min ((getPort s n).width / 2) (if up = 8 then 8 else if 4 ≤ up then 4 else if 2 ≤ up then 2 else up)))) ∧
  (∀ s : State, ¬ DarkNow s → exec .darkInterval s = .next s)

/-- A link in HOLD may relock: it is dark, has not tried in this dark interval, and T has come. -/
def MayRelock (s : State) (n : Nat) : Prop :=
  (getPort s n).tried = false ∧ s.fab.dark = true ∧ (s.fab.farm = 0 ∨ s.fab.farm.toNat ≤ traceTime s 0)

/-- 21 R351, R367: the states of a port in a reconfiguration: a write of `farm` starts its drain; with nothing left for leaving nodes it
enters MARK and sends its peer its drain markers, where the slot has room for them; at T it goes dark in HOLD; when its link relocks, tried
once in a dark interval and not before T, the armed calendars, reachability and `ftime` are active and it
runs; sixteen failures take it down; a write of 0 ends it, and a port that has no reconfiguration left relocks into RUN (log 34). -/
def ReconfigurationSpec : Prop :=
  (∀ (s : State) (x : BitVec 64), ∃ t, exec (.farmWrite x) s = .next t ∧ t.fab.farm = x ∧ t.core = s.core ∧ t.mem = s.mem ∧
    ∀ n, n < 32 → (getPort t n).st =
      if x = 0 then (if (getPort s n).st = .hold then .hold else .run) else if (getPort s n).st = .run then .drain else (getPort s n).st) ∧
  (∀ (s : State) (n : Nat), n < 32 → (getPort s n).st = .drain → s.fab.outbox = [] → s.fab.relay = [] → leavers s ≠ [] →
    (∀ k, k < 32 → (getPort s k).acked = []) →
    ((∀ o ∈ s.fab.outs, leavingNode s o.dst = false) →
      ∃ t, exec (.drainComplete n) s = .next t ∧ (getPort t n).st = .mark ∧ (∀ m, m ≠ n → getPort t m = getPort s m) ∧ t.core = s.core ∧
        (roomLeft s n < 128 → t.fab.light = s.fab.light) ∧
        ∀ peer, peerOf s n = some peer → leavingNode s peer = true → (∀ k, k < 32 → peer ∉ (getPort s k).sent) → 128 ≤ roomLeft s n →
          peer ∈ (getPort t n).sent ∧ ∃ l, t.fab.light = s.fab.light ++ l ∧
            l.map (fun p => (p.kind.toNat, p.dst.toNat, p.chan.toNat)) = [(10, peer, 0), (10, peer, 1), (10, peer, 2), (10, peer, 3)]) ∧
    ((∃ o ∈ s.fab.outs, leavingNode s o.dst = true) → exec (.drainComplete n) s = .next s)) ∧
  (∀ s : State, DarkNow s → s.fab.farm ≠ 0 → s.fab.outs = [] → Untraced s →
    s.fab.farm.toNat ≤ s.fab.fepoch.toNat + (s.fab.slot + 1) * (4000 * (s.fab.ftime.toNat / 256 % 64)) →
    ∃ t, exec .darkInterval s = .next t ∧ t.mem = s.mem ∧
      ∀ n, n < 32 → (getPort t n).st = if (getPort s n).st = .run then .run else .hold) ∧
  (∀ (s : State) (n : Nat), n < 32 → (getPort s n).st = .hold → MayRelock s n → s.fab.outs = [] →
    ∃ t, exec (.reconfigRelock n true) s = .next t ∧ (getPort t n).st = .run ∧ (getPort t n).fails = 0 ∧ t.fab.farm = 0 ∧ t.mem = s.mem ∧
      (s.fab.farm ≠ 0 → t.fab.reach = s.fab.reachArmed ∧ t.fab.ftime = s.fab.ftimeArmed ∧ (getPort t n).cal = (getPort s n).armed) ∧
      (s.fab.farm = 0 → t.fab.reach = s.fab.reach ∧ (getPort t n).cal = (getPort s n).cal)) ∧
  (∀ (s : State) (n : Nat), n < 32 → (getPort s n).st = .hold → MayRelock s n → s.fab.outs = [] → Untraced s →
    ∃ t, exec (.reconfigRelock n false) s = .next t ∧ (getPort t n).st = .hold ∧ (getPort t n).fails = (getPort s n).fails + 1 ∧ (getPort t n).tried = true ∧
      (getPort t n).width = if 16 ≤ (getPort s n).fails + 1 then 0 else (getPort s n).width) ∧
  (∀ (s : State) (n : Nat) (good : Bool), n < 32 → (getPort s n).st ≠ .hold ∨ ¬ MayRelock s n → exec (.reconfigRelock n good) s = .next s)

end Sys2Proof.Machine

/-- 21 R349 to R353, R364, R367: slots, lanes and the states of a port. -/
def Obligations.Ports : Prop := SlotsSpec ∧ LanesSpec ∧ ReconfigurationSpec

/-! Where forms complete, on plain states -/

namespace Sys2Proof.Machine

/-- The bytes of the elements of A where all of them lie in the core store of the active core. -/
def coreStoreElems (s : State) (sz : Nat) (es : List (Nat × Nat)) : List (Nat × List Byte) :=
  es.map (fun e => (e.1, memRead s.mem (2 ^ 40 + s.cur * 2 ^ 18 + (e.2 - 0xFFFFFFFC0000)) sz))

end Sys2Proof.Machine

/-- 14 R281; 04 R84: `mmul` whose elements of A lie in the core store completes, with the product of those bytes and the panel in its set.
11 R236: `tpoll` of an unfinished on-chip future of this node completes with value 0 and status 1. -/
def Obligations.CoreFormsComplete : Prop :=
  (∀ (o : MMul) (s : State) (k : Cont),
    let x := arrIns (encMMul o) o.la (regsOf .g o.a.toNat ++ regsOf .g o.t.toNat) []
    let a := s.core.arr
    let w := a.slot o.slot.toNat
    let p := s.core.getG o.a.toNat
    let g := s.core.getG o.t.toNat
    let sz := fmtSize (ptrFmt p)
    let es := aElems a.rowP.toNat a.kP.toNat w.len (o.nb.toNat + 1) (effective p 0) sz g.toInt
    Issues x s k → ArrayReady s → s.core.wait = .none → s.core.wbuf = [] → s.ecc = [] →
    w.valid = true → o.first.toNat + (o.nb.toNat + 1) ≤ w.nblk + 1 →
    ptrOk true p = true → ptrFmt p ≠ 13 → (∃ c, classOf (ptrFmt p) = some c ∧ c ≤ w.cls) → lblLen (ptrLbl p) = w.len →
    effective p 0 % sz = 0 → g.toNat % sz = 0 → (∀ e ∈ es, 0xFFFFFFFC0000 ≤ e.2 ∧ e.2 + sz ≤ 0xFFFFFFFF8000) →
    exec (.mmul o) s = .next (arrayDone x k
      (fun a => mulArr a o.set w (ptrFmt p) o.first.toNat (o.nb.toNat + 1) (coreStoreElems s sz es)) s)) ∧
  (∀ (o : TaskOp) (s : State) (k : Cont) (slot : Nat) (e : Entry),
    let x := taskIns 2 0 o (gr o.s) (gr o.d ++ gr o.t)
    Names s (s.core.getG o.s.toNat) slot e → s.core.cont = none → s.core.wait = .none → Issues x s k → e.st.done = false →
    exec (.tpoll o) s = .next (passesWith x k (fun c => (c.setG o.d.toNat 0).setG o.t.toNat 1) s))

/-- 24 R385; 10 R208, R214, R215, R225: a waiting record that fits its ring is written and its source goes on; at the limit of a stall
every record that waits for the buffer is dropped; the tiles of an ended member that it only read are freed and its entry takes
its outcome; the first waiter of a finished future is woken; and a context that stands still for 4096 cycles is reported. -/
def Obligations.TimedEventsComplete : Prop :=
  (∀ (s : State) (r : TraceRec) (d : TraceBuf) (kv : Nat), s.trc.waiting.find? (fun q => q.src == r.src) = some r → r.src < 512 → s.fab.full = [] →
    (r.bytes.length = 16 ∨ r.bytes.length = 32) → RingReady s r.buf d kv (r.bytes.length + 32) →
    ∃ t, exec (.traceStallEnd r.src) s = .next t ∧ t.trc.waiting.length + 1 = s.trc.waiting.length ∧
      homeRead t kv (ringAt d) r.bytes.length = r.bytes) ∧
  (∀ (s : State) (r : TraceRec), let limit := fld ((getBuf s r.buf).at 1) 47 32 * 1024
    s.trc.waiting.find? (fun q => q.src == r.src) = some r → r.src < 512 → s.fab.full = [] → 0 < limit → r.since + limit ≤ s.cycle.toNat →
    ∃ t, exec (.traceStallLimit r.src) s = .next t ∧ (∀ q ∈ t.trc.waiting, q.buf ≠ r.buf) ∧
      t.trc.waiting.length = (s.trc.waiting.filter (fun q => q.buf != r.buf)).length) ∧
  (∀ (s : State) (g : Gang) (m : Member) (cl slot : Nat) (e : Entry),
    gangOf s g.gid = some g → g.members = [m] → g.cluster = some cl → g.grid = none → m.rank < 8 → m.ended = true → m.writing = true →
    findWork s cl 7 ⟨g.gid, m.rank⟩ = none → turnOf s cl 0 = true →
    (∀ t ∈ m.wb, ownerOf s cl t ≠ 8 ∧ ∀ d, (getCl s cl).tdesc.find? t = some d → d.writes = false) →
    s.dirtyHeld.contains (64, g.gid * 8 + m.rank) = false → stalledSrc s (512 + cl) = false → stalledSrc s (576 + cl) = false → Untraced s →
    m.slot = some (cl * 1024 + slot) → slot < 1024 → entryAt s cl slot = some e → hHome e.handle = cl →
    (getCl s cl).owners.Pairwise (fun a b => a.1 < b.1) →
    List.find? (fun p => p.2.handle == e.handle) (getCl s cl).ft = some (slot, e) → e.st = .running → 1 < e.refs → s.drops = [] →
    ∃ t e1, exec (.writebackComplete (g.gid * 8 + m.rank)) s = .next t ∧ t.mem = s.mem ∧ gangOf t g.gid = none ∧
      (∀ n ∈ m.wb, ownerOf t cl n = 0xFF) ∧ entryAt t cl slot = some e1 ∧ e1.st = m.result ∧ e1.refs = e.refs - 1) ∧
  (∀ (s : State) (h : Word) (slot : Nat) (e : Entry) (cl wslot : Nat) (g : Gang) (m : Member),
    hNode h = s.fab.own.toNat → List.find? (fun p => p.2.handle == h) (getCl s (hHome h)).ft = some (slot, e) → e.handle = h →
    entryAt s (hHome h) slot = some e → e.st.done = true → 0 < e.refs → cl < 64 → wslot < 1024 →
    waitersOf s h = [s.fab.own.toNat * 65536 + cl * 1024 + wslot] → gangAtSlot s cl wslot = some (g, m) → gangOf s g.gid = some g →
    g.st = .parked → g.touched = h → Untraced s → stalledSrc s (576 + hHome h) = false →
    stalledSrc s (576 + cl) = false →
    ∃ t, exec (.wake h) s = .next t ∧ t.mem = s.mem ∧ t.core = s.core ∧ waitersOf t h = [] ∧ gangOf t g.gid = some (readied s g)) ∧
  (∀ (s : State) (ctx t0 : Nat), (getCtx s ctx).stallSince = some t0 → standsStill s ctx = true → t0 + 4096 ≤ s.cycle.toNat →
    (getCtx s ctx).stallOnset = false →
    ∃ t, exec (.contextStall ctx) s = .next t ∧ (getCtx t ctx).stallOnset = true ∧ (getCtx t ctx).reports = (getCtx s ctx).reports + 1)

/-- 24 R390, R391; 25 R393, R394, R396, R400; 01 R11: a held core starts where `cstart` says; a halt of the device asks every started core to
halt, and a resume of the device lets every core go on; a breakpoint entry reads back what it took (its offset and its reserved bits: logs 22, 95); a reset whose steps succeed
ends in phase 0xFF; power that is lost leaves memory empty (logs 3, 31) and every core held; a reading below the limit is kept, and a trip
stops the device. -/
def Obligations.ManagementEventsComplete : Prop :=
  (∀ (s : State) (v : Nat) (x : BitVec 64), v < 512 → (getCore s v).mode = .held →
    ∃ t, exec (.cstartWrite v x) s = .next t ∧ (getCore t v).mode = .run ∧ (getCore t v).pc.toNat = x.toNat % 2 ^ 48 - x.toNat % 2 ∧ t.mem = s.mem) ∧
  (∀ (s : State) (x : BitVec 64), Untraced s → x.toNat / 2 ^ 62 = 3 → x.getLsbD 61 = false →
    ∃ t, exec (.haltctlHalt x) s = .next t ∧ t.mem = s.mem ∧ ∀ v, v < 512 → (getCore s v).mode ≠ .held → (getCore s v).halted = false →
      (getCore t v).pend.halt = true ∧ (getCore t v).g = (getCore s v).g ∧ (getCore t v).pc = (getCore s v).pc) ∧
  (∀ (s : State) (x : BitVec 64), Untraced s → x.toNat / 2 ^ 62 = 3 → x.getLsbD 61 = true → (∀ v, (getCore s v).ssb = none) →
    ∃ t, exec (.haltctlResume x) s = .next t ∧ t.mem = s.mem ∧ ∀ v, v < 512 → (getCore s v).mode ≠ .held →
      (getCore t v).halted = false ∧ (getCore t v).pend.halt = false ∧ (getCore t v).g = (getCore s v).g) ∧
  (∀ (s : State) (n : Nat) (x : BitVec 64), n < 16 →
    ∃ t, exec (.mgmtRegWrite 2 (0x40000 + 8 * n) x) s = .next t ∧ mgmtRead t 2 (0x40000 + 8 * n) = x &&& 0xC03FFFFFFFFFFFFE) ∧
  (∀ (s : State) (b : BootInput), BootOk s b →
    ∃ t, exec (.deviceReset b) s = .next t ∧ t.mgmt.phase = 0xFF ∧ t.core.pc = b.tvech ∧ ∀ v, v < 512 → (getCore t v).mode = (if v % 8 = 0 then .run else .held)) ∧
  (∀ s : State, ∃ t, exec (.powerLoss false) s = .next t ∧ t.mem = [] ∧ t.mgmt.rollback = s.mgmt.rollback ∧ ∀ v, v < 512 → (getCore t v).mode = .held) ∧
  (∀ (s : State) (cl watts : Nat) (temp : BitVec 16) (mv : BitVec 12), cl < 64 → temp.toNat < 1760 →
    ∃ t, exec (.throttleUpdate cl temp mv watts) s = .next t ∧ (getMonitor t cl).temp = temp ∧ (getMonitor t cl).mv = mv ∧ t.mem = s.mem) ∧
  (∀ s : State, (∃ p ∈ s.mgmt.monitors, 1760 ≤ p.2.temp.toNat) → ∃ t, exec .thermalTrip s = .next t ∧ t.mgmt.phase = 0xFE ∧ t.mgmt.lasers = false ∧ t.mem = s.mem)

namespace Sys2Proof.Machine

/-- A page of the context whose translation the device holds, and whose writes no log asks for. -/
def HeldAt (s : State) (ctx va n acc : Nat) (l : Loc) : Prop := PlacedAt s s ctx va n acc l ∧ l.place = .hbm ∧ l.s2leaf = 0

end Sys2Proof.Machine

/-- 21 R358 to R361; 19 R331; 07 R156: a doubleword load, store, atomic addition or full/empty access of another node through a kind-0
window, to device memory that the device holds a translation of, completes with its answer (its forms: logs 15, 38). -/
def Obligations.MemoryPacketsComplete : Prop :=
  ∀ (p : Packet) (s : State) (ctx va : Nat) (l : Loc), va % 8 = 0 → Window s p 8 true 0 ctx va → Window s p 8 false 0 ctx va →
    let old := homeRead s l.kv l.at_ 8
    let data := p.data.take 8
    (Arrives 0 p s → p.sub.toNat % 64 = 7 → HeldAt s ctx va 8 1 l →
      ∃ t, exec (.loadPacket p) s = .next t ∧ t.mem = s.mem ∧ Answered s t p 0 0 old) ∧
    (Arrives 1 p s → p.sub.toNat % 64 = 7 → p.data.length = 8 → HeldAt s ctx va 8 2 l →
      ∃ t, exec (.storePacket p) s = .next t ∧ t.mem = (homeWrite s none l.kv l.at_ data).mem ∧ Answered s t p 9 0 []) ∧
    (Arrives 2 p s → p.sub.toNat = 32 → l.sync = true → HeldAt s ctx va 8 3 l →
      ∃ t, exec (.atomicPacket p) s = .next t ∧ Answered s t p 2 0 old ∧
        t.mem = (homeWrite s none l.kv l.at_ (leBytes 8 (ofLe old + ofLe data))).mem) ∧
    (Arrives 3 p s → p.sub.toNat = 3 → s.feq = [] → feReady (feFull s l.at_) 3 = true → HeldAt s ctx va 8 2 l →
      ∃ t, exec (.fullEmptyPacket p) s = .next t ∧ t.mem = (feHome s none l.kv l.at_ 3 (BitVec.ofNat 64 (ofLe data))).2.mem ∧ Answered s t p 3 0 [])
end

