-- ==== Sys2Proof/Laws/Issue.lean ====
section
/-!
SUPPORT. What issuing an instruction does, once for all of them: from a state in which it is due (`Issues`), the effect
runs on the state with the instruction under way, and what retires is described by `passed`, `jumped` and `waiting`.
-/
namespace Sys2Proof.Machine

open Host (Outcome)

@[simp] theorem started_mem (x : Ins) (k : Cont) (s : State) : (started x k s).mem = s.mem := rfl
@[simp] theorem started_cur (x : Ins) (k : Cont) (s : State) : (started x k s).cur = s.cur := rfl
@[simp] theorem started_core (x : Ins) (k : Cont) (s : State) : (started x k s).core = waiting x k s.core := rfl

/-- A state is not changed by writing back its own active core. -/
theorem State.core_eta (s : State) : { s with core := s.core } = s := rfl

theorem begun_of_cont {x : Ins} {c : Core} {k : Cont} (h : c.cont = some k) : begun x c = c := by
  simp only [begun, h]

theorem waiting_of_cont {x : Ins} {c : Core} {k : Cont} (h : c.cont = some k) : waiting x k c = c := by
  rw [waiting, begun_of_cont h, h]
  show { c with cont := some k } = c
  rw [← h]

/-- No window, no violation. -/
theorem violation_nil (x : Ins) (k : Option Cont) : violation x k [] = none := rfl

/-- Where no `xst` of the core is on its way, none is written. -/
theorem splitXsts_sent (c : Core) (v : Nat) (l : List Xst) (h : l.all (fun y => y.sender != v) = true) : splitXsts c v l = ([], l) := by
  induction l with
  | nil => rfl
  | cons y r ih =>
    simp only [List.all_cons, Bool.and_eq_true, bne_iff_ne, ne_eq] at h
    have hy : (y.sender == v) = false := by simpa using h.1
    simp [splitXsts, ih h.2, hy]

theorem settleXsts_sent {s : State} (h : Sent s) : settleXsts s = s := by
  unfold settleXsts
  rw [splitXsts_sent _ _ _ h]
  rfl

/-- Starting an instruction that is due. -/
theorem begin_of_issues {x : Ins} {s : State} {k : Cont} (h : Issues x s k) : begin_ x s = .ok (started x k s) := by
  have hw := h.calm
  have ht := h.turn
  cases hc : s.core.cont with
  | some c =>
    have hk : c = k := by simpa only [iteration, hc, Option.some.injEq] using ht
    subst hk
    simp only [begin_, hc, started, waiting_of_cont hc]
  | none =>
    simp only [iteration, hc] at ht
    cases hr : x.rep with
    | none =>
      simp only [hr, Option.some.injEq] at ht
      subst ht
      cases hd : s.core.repeatDue <;> rw [Core.repeatDue] at hd <;>
        simp only [begin_, hc, hr, hd, hw, Bool.false_eq_true, ↓reduceIte, violation_nil, started, waiting, begun, Core.repeatDue] <;> rfl
    | some r =>
      simp only [hr] at ht
      cases hd : s.core.repeatDue with
      | false =>
        simp only [hd, Bool.false_eq_true, if_false, Option.some.injEq] at ht
        subst ht
        rw [Core.repeatDue] at hd
        simp only [begin_, hc, hr, hd, hw, Bool.false_eq_true, ↓reduceIte, violation_nil, started, waiting, begun, Core.repeatDue]; rfl
      | true =>
        cases ho : resumeOk x s.core.rep with
        | false => simp [hd, ho] at ht
        | true =>
          simp only [hd, ho, if_true, Option.some.injEq] at ht
          subst ht
          rw [Core.repeatDue] at hd
          simp only [begin_, hc, hr, hd, ho, hw, ↓reduceIte, violation_nil, started, waiting, begun, Core.repeatDue]; rfl

/-- The iteration that a started instruction is at. -/
theorem waiting_cont {x : Ins} {s : State} {k : Cont} (h : Issues x s k) :
    (((waiting x k s.core).cont.map (fun k => k.i)).getD 0 = k.i) ∧
    (((waiting x k s.core).cont.map (fun k => k.step)).getD 0 = k.step) := by
  have ht := h.turn
  unfold waiting
  cases hc : s.core.cont with
  | some c =>
    have : c = k := by simpa [iteration, hc] using ht
    simp [this]
  | none =>
    cases hr : x.rep with
    | none =>
      have : k = ⟨0, 0, 0, false⟩ := by simpa [iteration, hc, hr, eq_comm] using ht
      simp [this]
    | some r => simp

/-- Issuing an instruction that is due and that its own checks let through. -/
theorem issue_of_issues {x : Ins} {s : State} {k : Cont} {pre : State → Option Trap}
    {body : Nat → Nat → Nat → M Flow} (h : Issues x s k) (hp : pre s = none) :
    issue x pre body s =
      match body (dOf x k) (sOf x k) (mOf k) (started x k s) with
      | .error t => .next (takeTrap (started x k s) x.size (withRunAhead x body (started x k s) t))
      | .ok (f, s2) => .next (finish x (started x k s) f s2) := by
  have hk := waiting_cont h
  unfold issue
  rw [h.free, settleXsts_sent h.sent]
  unfold issueNow
  simp only [Bool.false_eq_true, if_false, hp, begin_of_issues h, started_core, hk.1, hk.2]
  rfl

/-- Retiring an iteration when the effect has kept the iteration and opened no window. -/
theorem done_retire {x : Ins} {k : Cont} {s : State} (h : Issues x s k) (c : Core)
    (hw : c.wins = []) (hc : c.cont = (waiting x k s.core).cont) :
    Core.done (c.retire x.size) (waiting x k s.core) x = advance x k c := by
  have hla := h.plain
  have ht := h.turn
  unfold Core.retire Core.done Core.countWins Core.openWin advance
  unfold iteration at ht
  unfold waiting begun at hc
  cases hcc : s.core.cont with
  | some q =>
    rw [hcc] at ht hc
    have hq : q = k := by simpa using ht
    have hc' : c.cont = some k := by simpa using hc
    by_cases hl : k.i < k.last <;> simp [hc', hl, hw, hla]
  | none =>
    rw [hcc] at ht hc
    cases hrp : x.rep with
    | none =>
      have hk : k = ⟨0, 0, 0, false⟩ := by simpa [hrp, eq_comm] using ht
      have hc' : c.cont = none := by simpa [hrp] using hc
      subst hk
      simp [hc', hw, hla]
    | some r =>
      have hc' : c.cont = some k := by simpa [hrp] using hc
      by_cases hl : k.i < k.last <;> simp [hc', hl, hw, hla]

/-- An instruction that falls through to `t`. -/
theorem finish_seq {x : Ins} {s t : State} {k : Cont} (h : Issues x s k) (hw : t.core.wins = [])
    (hc : t.core.cont = (waiting x k s.core).cont) : finish x (started x k s) .seq t = onward x k t := by
  show ({ t with core := Core.done (t.core.retire x.size) (waiting x k s.core) x } : State) = _
  rw [done_retire h t.core hw hc]
  rfl

/-- Issuing an instruction that falls through to `t`. -/
theorem issue_onward {x : Ins} {s : State} {k : Cont} {pre : State → Option Trap} {body : Nat → Nat → Nat → M Flow}
    (h : Issues x s k) (hp : pre s = none) (t : State)
    (hb : body (dOf x k) (sOf x k) (mOf k) (started x k s) = .ok (.seq, t)) (hw : t.core.wins = [])
    (hc : t.core.cont = (waiting x k s.core).cont) : issue x pre body s = .next (onward x k t) := by
  rw [issue_of_issues h hp, hb]
  show Host.Outcome.next (finish x (started x k s) .seq t) = _
  rw [finish_seq h hw hc]

/-! What starting an instruction leaves alone -/

@[simp] theorem begun_mode (x : Ins) (c : Core) : (begun x c).mode = c.mode := by unfold begun; cases c.cont <;> rfl
@[simp] theorem begun_pc (x : Ins) (c : Core) : (begun x c).pc = c.pc := by unfold begun; cases c.cont <;> rfl
@[simp] theorem begun_g (x : Ins) (c : Core) : (begun x c).g = c.g := by unfold begun; cases c.cont <;> rfl
@[simp] theorem begun_v (x : Ins) (c : Core) : (begun x c).v = c.v := by unfold begun; cases c.cont <;> rfl
@[simp] theorem begun_k (x : Ins) (c : Core) : (begun x c).k = c.k := by unfold begun; cases c.cont <;> rfl
@[simp] theorem begun_fflags (x : Ins) (c : Core) : (begun x c).fflags = c.fflags := by unfold begun; cases c.cont <;> rfl
@[simp] theorem begun_fenable (x : Ins) (c : Core) : (begun x c).fenable = c.fenable := by unfold begun; cases c.cont <;> rfl
@[simp] theorem begun_sgen (x : Ins) (c : Core) : (begun x c).sgen = c.sgen := by unfold begun; cases c.cont <;> rfl
@[simp] theorem begun_ssbthr (x : Ins) (c : Core) : (begun x c).ssbthr = c.ssbthr := by unfold begun; cases c.cont <;> rfl
@[simp] theorem begun_ssbpol (x : Ins) (c : Core) : (begun x c).ssbpol = c.ssbpol := by unfold begun; cases c.cont <;> rfl
@[simp] theorem begun_rstack (x : Ins) (c : Core) : (begun x c).rstack = c.rstack := by unfold begun; cases c.cont <;> rfl
@[simp] theorem begun_rsp (x : Ins) (c : Core) : (begun x c).rsp = c.rsp := by unfold begun; cases c.cont <;> rfl
@[simp] theorem begun_spilled (x : Ins) (c : Core) : (begun x c).spilled = c.spilled := by unfold begun; cases c.cont <;> rfl
@[simp] theorem begun_ctx (x : Ins) (c : Core) : (begun x c).ctx = c.ctx := by unfold begun; cases c.cont <;> rfl
@[simp] theorem begun_priv (x : Ins) (c : Core) : (begun x c).priv = c.priv := by unfold begun; cases c.cont <;> rfl
@[simp] theorem begun_status (x : Ins) (c : Core) : (begun x c).status = c.status := by unfold begun; cases c.cont <;> rfl
@[simp] theorem begun_epc (x : Ins) (c : Core) : (begun x c).epc = c.epc := by unfold begun; cases c.cont <;> rfl
@[simp] theorem begun_cause (x : Ins) (c : Core) : (begun x c).cause = c.cause := by unfold begun; cases c.cont <;> rfl
@[simp] theorem begun_tval (x : Ins) (c : Core) : (begun x c).tval = c.tval := by unfold begun; cases c.cont <;> rfl
@[simp] theorem begun_tveck (x : Ins) (c : Core) : (begun x c).tveck = c.tveck := by unfold begun; cases c.cont <;> rfl
@[simp] theorem begun_scratchk (x : Ins) (c : Core) : (begun x c).scratchk = c.scratchk := by unfold begun; cases c.cont <;> rfl
@[simp] theorem begun_tvech (x : Ins) (c : Core) : (begun x c).tvech = c.tvech := by unfold begun; cases c.cont <;> rfl
@[simp] theorem begun_scratchh (x : Ins) (c : Core) : (begun x c).scratchh = c.scratchh := by unfold begun; cases c.cont <;> rfl
@[simp] theorem begun_epch (x : Ins) (c : Core) : (begun x c).epch = c.epch := by unfold begun; cases c.cont <;> rfl
@[simp] theorem begun_causeh (x : Ins) (c : Core) : (begun x c).causeh = c.causeh := by unfold begun; cases c.cont <;> rfl
@[simp] theorem begun_tvalh (x : Ins) (c : Core) : (begun x c).tvalh = c.tvalh := by unfold begun; cases c.cont <;> rfl
@[simp] theorem begun_task (x : Ins) (c : Core) : (begun x c).task = c.task := by unfold begun; cases c.cont <;> rfl
@[simp] theorem begun_wait (x : Ins) (c : Core) : (begun x c).wait = c.wait := by unfold begun; cases c.cont <;> rfl
@[simp] theorem begun_halted (x : Ins) (c : Core) : (begun x c).halted = c.halted := by unfold begun; cases c.cont <;> rfl
@[simp] theorem begun_retouch (x : Ins) (c : Core) : (begun x c).retouch = c.retouch := by unfold begun; cases c.cont <;> rfl
@[simp] theorem begun_pend (x : Ins) (c : Core) : (begun x c).pend = c.pend := by unfold begun; cases c.cont <;> rfl
@[simp] theorem begun_bar (x : Ins) (c : Core) : (begun x c).bar = c.bar := by unfold begun; cases c.cont <;> rfl
@[simp] theorem begun_live (x : Ins) (c : Core) : (begun x c).live = c.live := by unfold begun; cases c.cont <;> rfl
@[simp] theorem begun_arr (x : Ins) (c : Core) : (begun x c).arr = c.arr := by unfold begun; cases c.cont <;> rfl
@[simp] theorem begun_ssb (x : Ins) (c : Core) : (begun x c).ssb = c.ssb := by unfold begun; cases c.cont <;> rfl
@[simp] theorem begun_wins (x : Ins) (c : Core) : (begun x c).wins = c.wins := by unfold begun; cases c.cont <;> rfl
@[simp] theorem begun_wbuf (x : Ins) (c : Core) : (begun x c).wbuf = c.wbuf := by unfold begun; cases c.cont <;> rfl
@[simp] theorem begun_l1 (x : Ins) (c : Core) : (begun x c).l1 = c.l1 := by unfold begun; cases c.cont <;> rfl
@[simp] theorem begun_fbuf (x : Ins) (c : Core) : (begun x c).fbuf = c.fbuf := by unfold begun; cases c.cont <;> rfl
@[simp] theorem begun_holdCycles (x : Ins) (c : Core) : (begun x c).holdCycles = c.holdCycles := by unfold begun; cases c.cont <;> rfl
@[simp] theorem begun_stallCycles (x : Ins) (c : Core) : (begun x c).stallCycles = c.stallCycles := by unfold begun; cases c.cont <;> rfl
@[simp] theorem begun_stalls (x : Ins) (c : Core) : (begun x c).stalls = c.stalls := by unfold begun; cases c.cont <;> rfl
@[simp] theorem begun_gave (x : Ins) (c : Core) : (begun x c).gave = c.gave := by unfold begun; cases c.cont <;> rfl
@[simp] theorem begun_opening (x : Ins) (c : Core) : (begun x c).opening = c.opening := by unfold begun; cases c.cont <;> rfl
@[simp] theorem begun_lastCtx (x : Ins) (c : Core) : (begun x c).lastCtx = c.lastCtx := by unfold begun; cases c.cont <;> rfl

@[simp] theorem waiting_mode (x : Ins) (k : Cont) (c : Core) : (waiting x k c).mode = c.mode := begun_mode x c
@[simp] theorem waiting_pc (x : Ins) (k : Cont) (c : Core) : (waiting x k c).pc = c.pc := begun_pc x c
@[simp] theorem waiting_g (x : Ins) (k : Cont) (c : Core) : (waiting x k c).g = c.g := begun_g x c
@[simp] theorem waiting_v (x : Ins) (k : Cont) (c : Core) : (waiting x k c).v = c.v := begun_v x c
@[simp] theorem waiting_k (x : Ins) (k : Cont) (c : Core) : (waiting x k c).k = c.k := begun_k x c
@[simp] theorem waiting_fflags (x : Ins) (k : Cont) (c : Core) : (waiting x k c).fflags = c.fflags := begun_fflags x c
@[simp] theorem waiting_fenable (x : Ins) (k : Cont) (c : Core) : (waiting x k c).fenable = c.fenable := begun_fenable x c
@[simp] theorem waiting_sgen (x : Ins) (k : Cont) (c : Core) : (waiting x k c).sgen = c.sgen := begun_sgen x c
@[simp] theorem waiting_ssbthr (x : Ins) (k : Cont) (c : Core) : (waiting x k c).ssbthr = c.ssbthr := begun_ssbthr x c
@[simp] theorem waiting_ssbpol (x : Ins) (k : Cont) (c : Core) : (waiting x k c).ssbpol = c.ssbpol := begun_ssbpol x c
@[simp] theorem waiting_rstack (x : Ins) (k : Cont) (c : Core) : (waiting x k c).rstack = c.rstack := begun_rstack x c
@[simp] theorem waiting_rsp (x : Ins) (k : Cont) (c : Core) : (waiting x k c).rsp = c.rsp := begun_rsp x c
@[simp] theorem waiting_spilled (x : Ins) (k : Cont) (c : Core) : (waiting x k c).spilled = c.spilled := begun_spilled x c
@[simp] theorem waiting_ctx (x : Ins) (k : Cont) (c : Core) : (waiting x k c).ctx = c.ctx := begun_ctx x c
@[simp] theorem waiting_priv (x : Ins) (k : Cont) (c : Core) : (waiting x k c).priv = c.priv := begun_priv x c
@[simp] theorem waiting_status (x : Ins) (k : Cont) (c : Core) : (waiting x k c).status = c.status := begun_status x c
@[simp] theorem waiting_epc (x : Ins) (k : Cont) (c : Core) : (waiting x k c).epc = c.epc := begun_epc x c
@[simp] theorem waiting_cause (x : Ins) (k : Cont) (c : Core) : (waiting x k c).cause = c.cause := begun_cause x c
@[simp] theorem waiting_tval (x : Ins) (k : Cont) (c : Core) : (waiting x k c).tval = c.tval := begun_tval x c
@[simp] theorem waiting_tveck (x : Ins) (k : Cont) (c : Core) : (waiting x k c).tveck = c.tveck := begun_tveck x c
@[simp] theorem waiting_scratchk (x : Ins) (k : Cont) (c : Core) : (waiting x k c).scratchk = c.scratchk := begun_scratchk x c
@[simp] theorem waiting_tvech (x : Ins) (k : Cont) (c : Core) : (waiting x k c).tvech = c.tvech := begun_tvech x c
@[simp] theorem waiting_scratchh (x : Ins) (k : Cont) (c : Core) : (waiting x k c).scratchh = c.scratchh := begun_scratchh x c
@[simp] theorem waiting_epch (x : Ins) (k : Cont) (c : Core) : (waiting x k c).epch = c.epch := begun_epch x c
@[simp] theorem waiting_causeh (x : Ins) (k : Cont) (c : Core) : (waiting x k c).causeh = c.causeh := begun_causeh x c
@[simp] theorem waiting_tvalh (x : Ins) (k : Cont) (c : Core) : (waiting x k c).tvalh = c.tvalh := begun_tvalh x c
@[simp] theorem waiting_task (x : Ins) (k : Cont) (c : Core) : (waiting x k c).task = c.task := begun_task x c
@[simp] theorem waiting_wait (x : Ins) (k : Cont) (c : Core) : (waiting x k c).wait = c.wait := begun_wait x c
@[simp] theorem waiting_halted (x : Ins) (k : Cont) (c : Core) : (waiting x k c).halted = c.halted := begun_halted x c
@[simp] theorem waiting_retouch (x : Ins) (k : Cont) (c : Core) : (waiting x k c).retouch = c.retouch := begun_retouch x c
@[simp] theorem waiting_pend (x : Ins) (k : Cont) (c : Core) : (waiting x k c).pend = c.pend := begun_pend x c
@[simp] theorem waiting_bar (x : Ins) (k : Cont) (c : Core) : (waiting x k c).bar = c.bar := begun_bar x c
@[simp] theorem waiting_live (x : Ins) (k : Cont) (c : Core) : (waiting x k c).live = c.live := begun_live x c
@[simp] theorem waiting_arr (x : Ins) (k : Cont) (c : Core) : (waiting x k c).arr = c.arr := begun_arr x c
@[simp] theorem waiting_ssb (x : Ins) (k : Cont) (c : Core) : (waiting x k c).ssb = c.ssb := begun_ssb x c
@[simp] theorem waiting_wins (x : Ins) (k : Cont) (c : Core) : (waiting x k c).wins = c.wins := begun_wins x c
@[simp] theorem waiting_wbuf (x : Ins) (k : Cont) (c : Core) : (waiting x k c).wbuf = c.wbuf := begun_wbuf x c
@[simp] theorem waiting_l1 (x : Ins) (k : Cont) (c : Core) : (waiting x k c).l1 = c.l1 := begun_l1 x c
@[simp] theorem waiting_fbuf (x : Ins) (k : Cont) (c : Core) : (waiting x k c).fbuf = c.fbuf := begun_fbuf x c
@[simp] theorem waiting_holdCycles (x : Ins) (k : Cont) (c : Core) : (waiting x k c).holdCycles = c.holdCycles := begun_holdCycles x c
@[simp] theorem waiting_stallCycles (x : Ins) (k : Cont) (c : Core) : (waiting x k c).stallCycles = c.stallCycles := begun_stallCycles x c
@[simp] theorem waiting_stalls (x : Ins) (k : Cont) (c : Core) : (waiting x k c).stalls = c.stalls := begun_stalls x c
@[simp] theorem waiting_gave (x : Ins) (k : Cont) (c : Core) : (waiting x k c).gave = c.gave := begun_gave x c
@[simp] theorem waiting_opening (x : Ins) (k : Cont) (c : Core) : (waiting x k c).opening = c.opening := begun_opening x c
@[simp] theorem waiting_lastCtx (x : Ins) (k : Cont) (c : Core) : (waiting x k c).lastCtx = c.lastCtx := begun_lastCtx x c

@[simp] theorem waiting_getG (x : Ins) (k : Cont) (c : Core) (n : Nat) : (waiting x k c).getG n = c.getG n := by simp [Core.getG]
@[simp] theorem waiting_getV (x : Ins) (k : Cont) (c : Core) (n : Nat) : (waiting x k c).getV n = c.getV n := by simp [Core.getV]
@[simp] theorem waiting_getK (x : Ins) (k : Cont) (c : Core) (n : Nat) : (waiting x k c).getK n = c.getK n := by simp [Core.getK]

/-- `f` writes registers that the frame of an instruction does not look at. -/
structure RegsOnly (f : Core → Core) : Prop where
  frame : ∀ (c : Core) ct p r, f { c with cont := ct, pc := p, rep := r } = { f c with cont := ct, pc := p, rep := r }
  wins : ∀ c, (f c).wins = c.wins

theorem RegsOnly.cont {f : Core → Core} (h : RegsOnly f) (c : Core) : (f c).cont = c.cont := by
  have := congrArg (fun d : Core => d.cont) (h.frame c c.cont c.pc c.rep)
  exact this
theorem RegsOnly.pc {f : Core → Core} (h : RegsOnly f) (c : Core) : (f c).pc = c.pc := by
  have := congrArg (fun d : Core => d.pc) (h.frame c c.cont c.pc c.rep)
  exact this
theorem RegsOnly.rep {f : Core → Core} (h : RegsOnly f) (c : Core) : (f c).rep = c.rep := by
  have := congrArg (fun d : Core => d.rep) (h.frame c c.cont c.pc c.rep)
  exact this

theorem regsOnly_id : RegsOnly (fun c => c) := ⟨fun _ _ _ _ => rfl, fun _ => rfl⟩
theorem regsOnly_setG (n : Nat) (w : Word) : RegsOnly (fun c => c.setG n w) := by
  constructor <;> intro c <;> unfold Core.setG <;> split <;> intros <;> rfl
theorem regsOnly_setV (n : Nat) (w : VReg) : RegsOnly (fun c => c.setV n w) :=
  ⟨fun _ _ _ _ => rfl, fun _ => rfl⟩
theorem regsOnly_setK (n : Nat) (w : Word) : RegsOnly (fun c => c.setK n w) := by
  constructor <;> intro c <;> unfold Core.setK <;> split <;> intros <;> rfl
theorem RegsOnly.comp {f g : Core → Core} (hf : RegsOnly f) (hg : RegsOnly g) : RegsOnly (fun c => f (g c)) := by
  constructor
  · intro c ct p r
    show f (g _) = _
    rw [hg.frame, hf.frame]
  · intro c
    show (f (g c)).wins = _
    rw [hf.wins, hg.wins]

theorem RegsOnly.advance {f : Core → Core} (hf : RegsOnly f) (x : Ins) (k : Cont) (c : Core) :
    f (advance x k c) = Machine.advance x k (f c) := by
  unfold Machine.advance
  split
  · have := hf.frame c (some { k with i := k.i + 1 }) c.pc c.rep
    rw [← hf.pc c, ← hf.rep c] at this
    rw [show ({ c with cont := some { k with i := k.i + 1 } } : Core) = { c with cont := some { k with i := k.i + 1 }, pc := c.pc, rep := c.rep } from rfl,
      ← hf.pc c, ← hf.rep c, this]
  · rw [hf.frame, hf.rep, hf.pc]

theorem advance_waiting (x : Ins) (k : Cont) (c : Core) : advance x k (waiting x k c) = passed x k c := by
  unfold advance passed waiting advance
  split <;> rfl

/-- An instruction whose effect only writes registers with `f` and falls through. -/
theorem finish_regs {x : Ins} {s : State} {k : Cont} (h : Issues x s k) {f : Core → Core} (hf : RegsOnly f) :
    finish x (started x k s) .seq { started x k s with core := f (waiting x k s.core) } = passesWith x k f s := by
  rw [finish_seq h ((hf.wins _).trans ((waiting_wins x k s.core).trans h.calm)) (hf.cont _)]
  show ({ s with core := advance x k (f (waiting x k s.core)) } : State) = { s with core := f (passed x k s.core) }
  rw [← hf.advance, advance_waiting]

/-- Issuing an instruction whose effect only writes registers. -/
theorem issue_regs {x : Ins} {s : State} {k : Cont} {pre : State → Option Trap} {body : Nat → Nat → Nat → M Flow}
    (h : Issues x s k) (hp : pre s = none) (f : Core → Core) (hf : RegsOnly f)
    (hb : body (dOf x k) (sOf x k) (mOf k) (started x k s) = .ok (.seq, { started x k s with core := f (waiting x k s.core) })) :
    issue x pre body s = .next (passesWith x k f s) := by
  rw [issue_of_issues h hp, hb]
  show Host.Outcome.next (finish x (started x k s) .seq _) = _
  rw [finish_regs h hf]

/-- Without an open window, and for an instruction that opens none, retiring leaves the core alone. -/
theorem done_plain {x : Ins} {c old : Core} (hl : x.la = 0) (hw : c.wins = []) : Core.done c old x = c := by
  unfold Core.done Core.openWin Core.countWins
  simp [hl, hw]

theorem countWins_nil {c : Core} (hw : c.wins = []) : c.countWins = c := by
  unfold Core.countWins
  simp [hw]

/-- An instruction that transfers control and writes nothing. -/
theorem finish_jump {x : Ins} {s : State} {k : Cont} (h : Issues x s k) (a : Addr) :
    finish x (started x k s) (.jump a) (started x k s) = { s with core := jumped x a s.core } := by
  show ({ s with core := Core.done { waiting x k s.core with pc := a, cont := none } (waiting x k s.core) x } : State) = _
  rw [done_plain h.plain]
  · rfl
  · exact (waiting_wins x k s.core).trans h.calm

/-- Issuing an instruction that transfers control and writes nothing. -/
theorem issue_jump {x : Ins} {s : State} {k : Cont} {pre : State → Option Trap} {body : Nat → Nat → Nat → M Flow}
    (h : Issues x s k) (hp : pre s = none) (a : Addr)
    (hb : body (dOf x k) (sOf x k) (mOf k) (started x k s) = .ok (.jump a, started x k s)) :
    issue x pre body s = .next { s with core := jumped x a s.core } := by
  rw [issue_of_issues h hp, hb]
  simp only []
  rw [finish_jump h]

/-! Running a meaning, one operation at a time -/

theorem M.bind_ok {α β : Type} {m : M α} {f : α → M β} {s t : State} {x : α} (h : m s = .ok (x, t)) : (m >>= f) s = f x t := by
  show Except.bind (m s) (fun p => f p.1 p.2) = _
  rw [h]
  rfl

theorem M.bind_error {α β : Type} {m : M α} {f : α → M β} {s : State} {t : Trap} (h : m s = .error t) : (m >>= f) s = .error t := by
  show Except.bind (m s) (fun p => f p.1 p.2) = _
  rw [h]
  rfl

/-- What a bind answers: both parts answer. -/
theorem M.of_bind_ok {α β : Type} {m : M α} {f : α → M β} {s u : State} {y : β} (h : (m >>= f) s = .ok (y, u)) :
    ∃ x t, m s = .ok (x, t) ∧ f x t = .ok (y, u) := by
  cases hm : m s with
  | error e => rw [M.bind_error hm] at h; cases h
  | ok p => exact ⟨p.1, p.2, rfl, by rw [← h, M.bind_ok (x := p.1) (t := p.2) hm]⟩

/-- What a bind that raises raises: the first part, or the second after it. -/
theorem M.of_bind_error {α β : Type} {m : M α} {f : α → M β} {s : State} {e : Trap} (h : (m >>= f) s = .error e) :
    m s = .error e ∨ ∃ x t, m s = .ok (x, t) ∧ f x t = .error e := by
  cases hm : m s with
  | error e' => rw [M.bind_error hm] at h; cases h; exact .inl rfl
  | ok p => right; exact ⟨p.1, p.2, rfl, by rw [← h, M.bind_ok (x := p.1) (t := p.2) hm]⟩

@[simp] theorem M.getS_bind {β : Type} (f : State → M β) (s : State) : (getS >>= f) s = f s s := rfl
@[simp] theorem M.rG_bind {β : Type} (n : Nat) (f : Word → M β) (s : State) : (rG n >>= f) s = f (s.core.getG n) s := rfl
@[simp] theorem M.rV_bind {β : Type} (n : Nat) (f : VReg → M β) (s : State) : (rV n >>= f) s = f (s.core.getV n) s := rfl
@[simp] theorem M.rK_bind {β : Type} (n : Nat) (f : Word → M β) (s : State) : (rK n >>= f) s = f (s.core.getK n) s := rfl
@[simp] theorem M.wG_bind {β : Type} (n : Nat) (x : Word) (f : Unit → M β) (s : State) :
    (wG n x >>= f) s = f () { s with core := s.core.setG n x } := rfl
@[simp] theorem M.wV_bind {β : Type} (n : Nat) (x : VReg) (f : Unit → M β) (s : State) :
    (wV n x >>= f) s = f () { s with core := s.core.setV n x } := rfl
@[simp] theorem M.wK_bind {β : Type} (n : Nat) (x : Word) (f : Unit → M β) (s : State) :
    (wK n x >>= f) s = f () { s with core := s.core.setK n x } := rfl
@[simp] theorem M.modC_bind {β : Type} (g : Core → Core) (f : Unit → M β) (s : State) :
    (modC g >>= f) s = f () { s with core := g s.core } := rfl
@[simp] theorem M.modS_bind {β : Type} (g : State → State) (f : Unit → M β) (s : State) : (modS g >>= f) s = f () (g s) := rfl
@[simp] theorem M.liftS_bind {α β : Type} (g : State → α × State) (f : α → M β) (s : State) :
    (liftS g >>= f) s = f (g s).1 (g s).2 := rfl
@[simp] theorem M.pure_bind {α β : Type} (a : α) (f : α → M β) (s : State) : ((pure a : M α) >>= f) s = f a s := rfl
@[simp] theorem M.raise_bind {α β : Type} (t : Trap) (f : α → M β) (s : State) : ((raise t : M α) >>= f) s = .error t := rfl
theorem M.guardT_true {β : Type} {b : Bool} {t : Trap} {f : Unit → M β} {s : State} (h : b = true) : (guardT b t >>= f) s = f () s := by
  subst h; rfl
theorem M.guardT_false {β : Type} {b : Bool} {t : Trap} {f : Unit → M β} {s : State} (h : b = false) :
    (guardT b t >>= f) s = .error t := by
  subst h; rfl
@[simp] theorem M.pure_run {α : Type} (a : α) (s : State) : (pure a : M α) s = .ok (a, s) := rfl
@[simp] theorem M.modS_run (g : State → State) (s : State) : modS g s = .ok ((), g s) := rfl
@[simp] theorem M.modC_run (g : Core → Core) (s : State) : modC g s = .ok ((), { s with core := g s.core }) := rfl
@[simp] theorem M.raise_run {α : Type} (t : Trap) (s : State) : (raise t : M α) s = .error t := rfl

/-- Issuing an instruction whose effect raises a cause that is no translation fault. -/
theorem issue_raises {x : Ins} {s : State} {k : Cont} {pre : State → Option Trap} {body : Nat → Nat → Nat → M Flow}
    (h : Issues x s k) (hp : pre s = none) (t : Trap) (ht : t.code ≠ 5)
    (hb : body (dOf x k) (sOf x k) (mOf k) (started x k s) = .error t) :
    issue x pre body s = .next (takeTrap (started x k s) x.size t) := by
  rw [issue_of_issues h hp, hb]
  simp only [withRunAhead, if_neg ht]

/-- Issuing an instruction whose effect waits. -/
theorem issue_holds {x : Ins} {s : State} {k : Cont} {pre : State → Option Trap} {body : Nat → Nat → Nat → M Flow}
    (h : Issues x s k) (hp : pre s = none) (t : State)
    (hb : body (dOf x k) (sOf x k) (mOf k) (started x k s) = .ok (.hold, t)) : issue x pre body s = .next t := by
  rw [issue_of_issues h hp, hb]
  rfl

/-- Issuing an instruction whose effect has set the pc itself. -/
theorem issue_leaves {x : Ins} {s : State} {k : Cont} {pre : State → Option Trap} {body : Nat → Nat → Nat → M Flow}
    (h : Issues x s k) (hp : pre s = none) (t : State)
    (hb : body (dOf x k) (sOf x k) (mOf k) (started x k s) = .ok (.leave, t)) (hw : t.core.wins = []) :
    issue x pre body s = .next t := by
  rw [issue_of_issues h hp, hb]
  show Host.Outcome.next { t with core := Core.countWins t.core } = _
  rw [countWins_nil hw]

/-- An instruction that its own checks turn away. -/
theorem issue_refused {x : Ins} {s : State} {pre : State → Option Trap} {body : Nat → Nat → Nat → M Flow} (t : Trap) (hq : Sent s)
    (hf : (x.units && s.core.ssb.isSome) = false) (hp : pre s = some t) : issue x pre body s = .next (takeTrap s x.size t) := by
  unfold issue
  rw [hf, settleXsts_sent hq]
  simp only [Bool.false_eq_true, if_false, issueNow, hp]

end Sys2Proof.Machine
end

