-- ==== Sys2Proof/Laws/Access.lean ====
section
/-!
SUPPORT. What the shared operations over memory leave alone: of the active core an access changes only its buffers, its
caches and its pending events (`Keeps`), and which core is active stays.
-/
namespace Sys2Proof.Machine

/-- `t` comes from `s` by accesses: the active core is the same one, and keeps all but its buffers, caches and pending events. -/
structure Keeps (s t : State) : Prop where
  core : t.core = { s.core with
    wbuf := t.core.wbuf, l1 := t.core.l1, fbuf := t.core.fbuf, pend := t.core.pend }
  cur : t.cur = s.cur

theorem Keeps.refl (s : State) : Keeps s s := ⟨rfl, rfl⟩

theorem Keeps.trans {s t u : State} (h : Keeps s t) (h' : Keeps t u) : Keeps s u := by
  refine ⟨?_, h'.cur.trans h.cur⟩
  rw [h'.core, h.core]

theorem Keeps.of_core {s t : State} (h : t.core = s.core) (hc : t.cur = s.cur) : Keeps s t := ⟨by rw [h], hc⟩

theorem Keeps.cont {s t : State} (h : Keeps s t) : t.core.cont = s.core.cont := by rw [h.core]
theorem Keeps.wins {s t : State} (h : Keeps s t) : t.core.wins = s.core.wins := by rw [h.core]
theorem Keeps.g {s t : State} (h : Keeps s t) : t.core.g = s.core.g := by rw [h.core]
theorem Keeps.v {s t : State} (h : Keeps s t) : t.core.v = s.core.v := by rw [h.core]
theorem Keeps.k {s t : State} (h : Keeps s t) : t.core.k = s.core.k := by rw [h.core]
theorem Keeps.pc {s t : State} (h : Keeps s t) : t.core.pc = s.core.pc := by rw [h.core]
theorem Keeps.rep {s t : State} (h : Keeps s t) : t.core.rep = s.core.rep := by rw [h.core]
theorem Keeps.ctx {s t : State} (h : Keeps s t) : t.core.ctx = s.core.ctx := by rw [h.core]
theorem Keeps.priv {s t : State} (h : Keeps s t) : t.core.priv = s.core.priv := by rw [h.core]
theorem Keeps.status {s t : State} (h : Keeps s t) : t.core.status = s.core.status := by rw [h.core]
theorem Keeps.fenable {s t : State} (h : Keeps s t) : t.core.fenable = s.core.fenable := by rw [h.core]
theorem Keeps.fflags {s t : State} (h : Keeps s t) : t.core.fflags = s.core.fflags := by rw [h.core]
theorem Keeps.task {s t : State} (h : Keeps s t) : t.core.task = s.core.task := by rw [h.core]
theorem Keeps.ssb {s t : State} (h : Keeps s t) : t.core.ssb = s.core.ssb := by rw [h.core]

/-- A fold of operations that keep. -/
theorem Keeps.foldl {α : Type} (f : State → α → State) (hf : ∀ s x, Keeps s (f s x)) (l : List α) (s : State) : Keeps s (l.foldl f s) := by
  induction l generalizing s with
  | nil => exact .refl s
  | cons x l ih => exact (hf s x).trans (ih (f s x))

theorem keeps_setCore (s : State) (v : Nat) (c : Core)
    (h : c = { (getCore s v) with wbuf := c.wbuf, l1 := c.l1, fbuf := c.fbuf, pend := c.pend }) :
    Keeps s (setCore s v c) := by
  unfold setCore
  split
  · rename_i e
    subst e
    refine ⟨?_, rfl⟩
    show c = _
    rw [show getCore s s.cur = s.core by unfold getCore; rw [if_pos rfl]] at h
    exact h
  · exact .of_core rfl rfl

theorem keeps_noteAll (s : State) (w : Option Nat) (kv a : Nat) (bs : List Byte) : Keeps s (noteAll s w kv a bs) := ⟨rfl, rfl⟩

theorem keeps_writeLine (s : State) (w : Option Nat) (kv a : Nat) (bs : List Byte) : Keeps s (writeLine s w kv a bs) := by
  have h := keeps_noteAll s w kv a bs
  unfold writeLine
  simp only []
  split
  · split
    · split <;> exact h.trans (.of_core rfl rfl)
    · exact h.trans (.of_core rfl rfl)
  · exact h.trans (.of_core rfl rfl)

theorem keeps_freshCtxs (s t : State) : Keeps t (freshCtxs s t) := by
  unfold freshCtxs
  refine Keeps.foldl _ (fun st i => ?_) _ _
  split
  · exact .of_core rfl rfl
  · exact .refl _

theorem keeps_homeWrite (s : State) (w : Option Nat) (kv a : Nat) (bs : List Byte) : Keeps s (homeWrite s w kv a bs) := by
  unfold homeWrite
  have h : Keeps s ((linePieces a bs.length).foldl (fun st p => writeLine st w kv p.1 ((bs.drop (p.1 - a)).take p.2)) s) :=
    Keeps.foldl _ (fun st p => keeps_writeLine _ _ _ _ _) _ _
  simp only []
  split
  · exact h.trans (keeps_freshCtxs _ _)
  · exact h

theorem keeps_postDeferred (s : State) (v sub : Nat) (tv : Word) (ctx : Nat) : Keeps s (postDeferred s v sub tv ctx) :=
  keeps_setCore s v _ rfl

theorem keeps_perform (s : State) (v : Nat) (e : WbEnt) : Keeps s (perform s v e) := by
  unfold perform
  dsimp only
  split
  · exact keeps_postDeferred _ _ _ _ _
  · split
    · exact keeps_postDeferred _ _ _ _ _
    · exact (keeps_homeWrite s _ _ _ _).trans (keeps_setCore _ v _ rfl)

theorem keeps_drainCore (s : State) (v : Nat) : Keeps s (drainCore s v) := by
  unfold drainCore
  simp only []
  split
  · exact .refl s
  · exact (keeps_setCore s v _ rfl).trans (Keeps.foldl _ (fun st e => keeps_perform st v e) _ _)

theorem keeps_drainSome (s : State) (v : Nat) (p : WbEnt → Bool) : Keeps s (drainSome s v p) := by
  unfold drainSome
  dsimp only
  split
  · exact (keeps_setCore s v _ rfl).trans (Keeps.foldl _ (fun st e => keeps_perform st v e) _ _)
  · exact .refl s

theorem keeps_drainAll (s : State) : Keeps s (drainAll s) := by
  unfold drainAll
  exact Keeps.foldl _ (fun st (p : Nat × Core) => keeps_drainCore st p.1) _ _

theorem keeps_setCarried (s : State) (v code : Nat) : Keeps s (setCarried s v code) := by
  unfold setCarried
  split
  · exact .refl s
  · exact .of_core rfl rfl

theorem keeps_pick (s : State) (n : Nat) : Keeps s (pick s n).2 := .of_core rfl rfl
theorem keeps_pickOf {α : Type} (s : State) (d : α) (l : List α) : Keeps s (pickOf s d l).2 := by
  match l with
  | [] => exact .refl s
  | [_] => exact .refl s
  | _ :: _ :: r => exact keeps_pick s (r.length + 2)

/-! Meanings that keep -/

/-- A meaning that, where it answers, keeps. -/
def MKeeps {α : Type} (m : M α) : Prop := ∀ s x t, m s = .ok (x, t) → Keeps s t

theorem MKeeps.pure {α : Type} (a : α) : MKeeps (pure a : M α) := by
  intro s x t h
  cases h
  exact .refl s

theorem MKeeps.bind {α β : Type} {m : M α} {f : α → M β} (hm : MKeeps m) (hf : ∀ a, MKeeps (f a)) : MKeeps (m >>= f) := by
  intro s x t h
  simp only [Bind.bind, StateT.bind, Except.bind] at h
  cases hc : m s with
  | error e => rw [hc] at h; cases h
  | ok p =>
    rw [hc] at h
    exact (hm s p.1 p.2 hc).trans (hf p.1 p.2 x t h)

/-- Binding the state itself: what follows may use it. -/
theorem MKeeps.get {β : Type} {f : State → M β} (hf : ∀ s, MKeeps (f s)) : MKeeps (getS >>= f) :=
  .bind (fun s x t h => by cases h; exact .refl s) hf

theorem MKeeps.raise {α : Type} (t : Trap) : MKeeps (raise t : M α) := fun _ _ _ h => by cases h
theorem MKeeps.guardT (b : Bool) (t : Trap) : MKeeps (guardT b t) := by
  intro s x u h
  unfold Machine.guardT at h
  split at h
  · cases h; exact .refl s
  · cases h

theorem MKeeps.modS {f : State → State} (h : ∀ s, Keeps s (f s)) : MKeeps (modS f) := fun s _ _ e => by cases e; exact h s
theorem MKeeps.liftS {α : Type} {f : State → α × State} (h : ∀ s, Keeps s (f s).2) : MKeeps (liftS f) := by
  intro s x t e
  unfold Machine.liftS at e
  have e' : f s = (x, t) := by injection e
  have := h s
  rw [e'] at this
  exact this

theorem MKeeps.modC {f : Core → Core}
    (h : ∀ c, f c = { c with wbuf := (f c).wbuf, l1 := (f c).l1, fbuf := (f c).fbuf, pend := (f c).pend }) :
    MKeeps (modC f) := fun s _ _ e => by cases e; exact ⟨h s.core, rfl⟩

theorem MKeeps.ite {α : Type} {p : Prop} [Decidable p] {a b : M α} (ha : MKeeps a) (hb : MKeeps b) : MKeeps (if p then a else b) := by
  split
  · exact ha
  · exact hb

theorem keeps_useRec (s : State) (ctx : Nat) : Keeps s (useRec s ctx).2 := by
  unfold useRec
  simp only []
  split
  · exact .of_core rfl rfl
  · split
    · exact .refl s
    · exact keeps_pickOf s _ _

theorem keeps_pageOf (s : State) (ctx : Nat) (r : CtxRec) (vp : Nat) : Keeps s (pageOf s ctx r vp).2 := by
  unfold pageOf
  dsimp only
  generalize hp : pickOf s (_ : List WalkEnt × Except WErr Xl) _ = p
  have h : Keeps s p.2 := hp ▸ keeps_pickOf s _ _
  split
  · exact h.trans (.of_core rfl rfl)
  · dsimp only
    split <;> exact h.trans (.of_core rfl rfl)

theorem keeps_meetSlice (l : Loc) (s : State) : Keeps s (meetSlice l s) := by
  unfold meetSlice
  split
  · exact .of_core rfl rfl
  · exact .refl s

theorem mkeeps_placed (r : Except Trap Loc) : MKeeps (placed r) := by
  unfold placed
  split
  · exact .raise _
  · exact .bind (.modS fun s => keeps_meetSlice _ s) (fun _ => .pure _)

theorem mkeeps_pagedTo (a : Agent) (r : CtxRec) (va : Nat) (acc : Acc) : MKeeps (pagedTo a r va acc) := by
  unfold pagedTo
  refine .bind (.liftS fun s => keeps_pageOf s _ _ _) (fun p => ?_)
  split
  · exact .raise _
  · exact .get (fun s => mkeeps_placed _)

theorem mkeeps_translate (a : Agent) (va : Nat) (acc : Acc) : MKeeps (translate a va acc) := by
  unfold translate
  exact .get (fun s => .ite (.pure _) (.bind (.liftS fun s => keeps_useRec s _) (fun r => .ite (mkeeps_placed _) (mkeeps_pagedTo _ _ _ _))))

theorem mkeeps_checkTile (a : Agent) (va : Nat) (l : Loc) : MKeeps (checkTile a va l) := by
  unfold checkTile
  exact .get (fun s => .guardT _ _)

/-- An access keeps. -/
theorem keeps_access {s t : State} {va acc : Nat} {l : Loc} (h : access s va acc = .ok (l, t)) : Keeps s t :=
  MKeeps.bind (mkeeps_translate _ _ _) (fun _ => .bind (mkeeps_checkTile _ _ _) (fun _ => .pure _)) s l t h

/-- An access that is let through, inside a meaning. -/
theorem access_bind {s t : State} {va acc : Nat} {l : Loc} {β : Type} (h : access s va acc = .ok (l, t)) (f : Loc → M β) :
    (translate (me s) va acc >>= fun l => checkTile (me s) va l >>= fun _ => f l) s = f l t := by
  unfold access at h
  obtain ⟨l0, t0, h1, h⟩ := M.of_bind_ok h
  obtain ⟨u, t1, h2, h⟩ := M.of_bind_ok h
  cases h
  rw [M.bind_ok h1, M.bind_ok h2]

/-- An access that raises, inside a meaning. -/
theorem access_bind_error {s : State} {va acc : Nat} {e : Trap} {β : Type} (h : access s va acc = .error e) (f : Loc → M β) :
    (translate (me s) va acc >>= fun l => checkTile (me s) va l >>= fun _ => f l) s = .error e := by
  unfold access at h
  rcases M.of_bind_error h with h | ⟨l, t, h1, h⟩
  · rw [M.bind_error h]
  rcases M.of_bind_error h with h | ⟨l, t, h2, h⟩
  · rw [M.bind_ok h1, M.bind_error h]
  · cases h

theorem keeps_dirtyLog {s t : State} {ctx cl : Nat} {l : Loc} (h : dirtyLog s ctx cl l = some t) : Keeps s t := by
  unfold dirtyLog at h
  split at h
  · cases h; exact .refl s
  · split at h
    · cases h; exact .refl s
    · simp only [] at h
      split at h
      · cases h; exact .refl s
      · split at h
        · cases h
        · cases h
          exact (keeps_homeWrite _ _ _ _ _).trans ((keeps_homeWrite _ _ _ _ _).trans (keeps_homeWrite _ _ _ _ _))

theorem mkeeps_logWrite (a : Agent) (l : Loc) : MKeeps (logWrite a l) := by
  intro s x t h
  unfold logWrite at h
  split at h
  · rename_i e
    cases h
    exact keeps_dirtyLog e
  · cases h

/-- Of two meanings, the one that a Bool selects. -/
theorem MKeeps.cond {α : Type} {b : Bool} {m n : M α} (hm : MKeeps m) (hn : MKeeps n) : MKeeps (if b = true then m else n) := by
  cases b
  · exact hn
  · exact hm

theorem mkeeps_fillL1 (l : Loc) : MKeeps (fillL1 l) := by
  unfold fillL1
  refine .bind (.modC fun _ => rfl) (fun _ => .get (fun s => ?_))
  dsimp only
  split
  · exact .bind (.liftS fun s => keeps_pick s _) (fun n => .modS fun s => ⟨rfl, rfl⟩)
  · exact .bind (.pure _) (fun n => .modS fun s => ⟨rfl, rfl⟩)

theorem mkeeps_loadMiss (l : Loc) (n : Nat) : MKeeps (loadMiss l n) := by
  unfold loadMiss
  refine .bind (.modS fun s => keeps_drainSome _ _ _) (fun _ => ?_)
  dsimp only
  split
  · exact .bind (mkeeps_fillL1 l) (fun _ => .get fun s => .pure _)
  · exact .get fun s => .pure _

theorem mkeeps_loadAt (l : Loc) (n : Nat) : MKeeps (loadAt l n) := by
  unfold loadAt
  refine .get (fun s => ?_)
  split
  · exact mkeeps_loadMiss l n
  · split
    · exact .pure _
    · exact .ite (.pure _) (.bind (.liftS fun s => keeps_pick s _) (fun k => .ite (.pure _) (.bind (.modC fun _ => rfl) (fun _ => mkeeps_loadMiss l n))))

theorem mkeeps_eccPost (b : Bool) : MKeeps (eccPost b) :=
  .cond (.modS fun s => (keeps_postDeferred _ _ _ _ _).trans (keeps_setCarried _ _ _)) (.pure _)

theorem mkeeps_loadHome (l : Loc) (n order : Nat) (scope : Scope) : MKeeps (loadHome l n order scope) := by
  unfold loadHome
  split
  · exact .bind (.modS fun s => keeps_drainSome _ _ _) (fun _ => .get fun s => .pure _)
  · exact mkeeps_loadAt _ _

theorem keeps_freeBytes (s : State) (n : Nat) : Keeps s (freeBytes s n).2 := .of_core rfl rfl

theorem mkeeps_readLoc (l : Loc) (n order : Nat) (scope : Scope) : MKeeps (readLoc l n order scope) := by
  unfold readLoc
  refine .bind (mkeeps_loadHome _ _ _ _) (fun _ => .get fun s => ?_)
  split
  · exact .bind (.liftS fun s => keeps_freeBytes s n) (fun _ => .pure _)
  · exact .pure _

theorem mkeeps_loadLoc (l : Loc) (n order : Nat) (scope : Scope) : MKeeps (loadLoc l n order scope) :=
  .bind (mkeeps_readLoc _ _ _ _) (fun q => .bind (mkeeps_eccPost q.2) (fun _ => .pure _))

theorem mkeeps_storeAt (l : Loc) (bs : List Byte) : MKeeps (storeAt l bs) := by
  unfold storeAt
  refine .get (fun s => .cond ?_ (.modS fun s => (keeps_drainSome _ _ _).trans (keeps_homeWrite _ _ _ _ _)))
  refine .bind (.modC fun c => rfl) (fun _ => .get (fun s => ?_))
  split
  · split
    · exact .bind (.modC fun _ => rfl) (fun _ => .modS fun s => keeps_perform _ _ _)
    · exact .pure _
  · exact .pure _

theorem mkeeps_storeLoc (l : Loc) (bs : List Byte) (order : Nat) (scope : Scope) : MKeeps (storeLoc l bs order scope) := by
  unfold storeLoc
  split
  · refine .modS fun s => Keeps.trans (t := { s with core := s.core.storeL1 s l bs }) ⟨rfl, rfl⟩ ?_
    exact (keeps_drainSome _ _ _).trans (keeps_homeWrite _ _ _ _ _)
  · exact mkeeps_storeAt _ _

theorem keeps_hears (s : State) (dst src : Nat) : Keeps s (hears s dst src) := by
  unfold hears hearFrom
  dsimp only
  split
  · exact .refl s
  · split
    · exact .of_core rfl rfl
    · exact .refl s

theorem keeps_xstWrite (s : State) (x : Xst) : Keeps s (xstWrite s x) := by
  unfold xstWrite
  split
  · exact .refl s
  · exact (keeps_homeWrite _ _ _ _ _).trans (keeps_hears _ _ _)

theorem keeps_flushXsts (s : State) (v : Nat) : Keeps s (flushXsts s v) := by
  unfold flushXsts acceptXsts
  exact Keeps.trans (t := { s with xsts := s.xsts.filter (fun x => !(x.sender == v)) }) (.of_core rfl rfl)
    (Keeps.foldl _ (fun st x => keeps_xstWrite st x) _ _)

theorem mkeeps_releaseBefore (scope : Scope) : MKeeps (releaseBefore scope) := by
  unfold releaseBefore
  split
  · exact .modS fun s => keeps_drainSome _ _ _
  · split
    · exact .modS fun s => (keeps_flushXsts s s.cur).trans (keeps_drainSome _ _ _)
    · exact .modS fun s => (keeps_flushXsts s s.cur).trans (keeps_drainCore _ _)

/-- A turn that the banks grant keeps. -/
theorem keeps_takeBanks {l : List Nat} {s t : State} (h : takeBanks l s = .ok (true, t)) : Keeps s t := by
  simp only [takeBanks, M.getS_bind] at h
  split at h
  · cases h
    exact Keeps.foldl (fun st b => bankTake st s.cur b) (fun _ _ => .of_core rfl rfl) _ _
  · cases h

theorem keeps_bankTurn {va : Nat} {l : Loc} {s t : State} (h : bankTurn va l s = .ok (true, t)) : Keeps s t := by
  simp only [bankTurn, M.getS_bind] at h
  split at h
  · exact keeps_takeBanks h
  · split at h
    · cases h
    · cases h; exact .refl s

theorem mkeeps_acquireAfter (scope : Scope) : MKeeps (acquireAfter scope) := by
  unfold acquireAfter
  exact .ite (.modC fun _ => rfl) (.pure _)

/-! Elements of vector accesses -/

theorem keeps_transElems (a : Agent) (acc : Nat) (l : List (Nat × Nat)) (s : State) : Keeps s (transElems a acc l s).2.2.2 := by
  induction l generalizing s with
  | nil => exact .refl s
  | cons p l ih =>
    unfold transElems
    split
    · rename_i h
      exact (mkeeps_translate _ _ _ _ _ _ h).trans (ih _)
    · exact ih s

theorem mkeeps_checkElems (acc al : Nat) (es : List (Nat × Nat)) : MKeeps (checkElems acc al es) := by
  intro s x t h
  unfold checkElems at h
  cases hf : List.find? (fun p => p.2 % al != 0) es with
  | some p => rw [hf] at h; cases h
  | none =>
    rw [hf] at h
    simp only [bind, StateT.bind, Except.bind, getS] at h
    cases hq : (transElems (me s) acc es s).2.1 with
    | some u => simp only [hq, raise] at h; cases h
    | none =>
      simp only [hq, modS, getS, bind, StateT.bind, Except.bind] at h
      cases hg : List.find? (fun e => e.loc.place == Place.pad &&
          !ownerOk (transElems (me s) acc es s).2.2.2 (me s).v
            (ownerOf (transElems (me s) acc es s).2.2.2 (clusterOf (me s).v) (tileOf e.va))) (transElems (me s) acc es s).1 with
      | some e => simp only [hg, raise] at h; cases h
      | none =>
        simp only [hg] at h
        cases h
        exact keeps_transElems _ _ _ _

theorem mkeeps_readElems (fmt order : Nat) (scope : Scope) (l : List ElemAt) : MKeeps (readElems fmt order scope l) := by
  induction l with
  | nil => exact .pure _
  | cons e l ih => exact .bind (mkeeps_readLoc _ _ _ _) (fun _ => .bind ih (fun _ => .pure _))

theorem mkeeps_logElems (l : List ElemAt) : MKeeps (logElems l) := by
  induction l with
  | nil => exact .pure _
  | cons e l ih =>
    refine .get (fun s => ?_)
    dsimp only
    split
    · exact ih
    · exact .bind (mkeeps_logWrite _ _) (fun _ => ih)

theorem keeps_takeSeq (s : State) (dst chan : Nat) : Keeps s (takeSeq s dst chan).2 := by
  unfold takeSeq
  split <;> exact .of_core rfl rfl

theorem keeps_sendReq (s : State) (dst kind chan addr ctx sub : Nat) (data : List Byte) (va : Nat) (forw : ReplyFor) :
    Keeps s (sendReq s dst kind chan addr ctx sub data va forw) :=
  (keeps_takeSeq s dst chan).trans (.of_core rfl rfl)

theorem keeps_sendStore (s : State) (l : Loc) (order scope va : Nat) (bs : List Byte) : Keeps s (sendStore s l order scope va bs) :=
  keeps_sendReq _ _ _ _ _ _ _ _ _ _

theorem mkeeps_writeElems (order : Nat) (scope : Scope) (bytes : Nat → List Byte) (l : List ElemAt) :
    MKeeps (writeElems order scope bytes l) := by
  induction l with
  | nil => exact .pure _
  | cons e l ih =>
    unfold writeElems
    dsimp only
    split
    · exact .bind (.modS fun s => keeps_sendStore _ _ _ _ _ _) (fun _ => ih)
    · exact .bind (mkeeps_storeLoc _ _ _ _) (fun _ => ih)

end Sys2Proof.Machine
end

