-- ==== Sys2Proof/Laws/Map.lean ====
section
/-!
SUPPORT. Maps kept as sorted lists: what an insertion and a removal leave under each key.
-/
namespace Sys2Proof

theorem SMap.find?_insert_self {α : Type} (m : SMap α) (a : Nat) (v : α) : (m.insert a v).find? a = some v := by
  induction m with
  | nil => simp [SMap.insert, SMap.find?]
  | cons p r ih =>
    obtain ⟨k, w⟩ := p
    by_cases h1 : a < k
    · simp [SMap.insert, h1, SMap.find?]
    · by_cases h2 : a = k
      · simp [SMap.insert, h2, SMap.find?]
      · simp [SMap.insert, h1, h2, SMap.find?, ih]

theorem SMap.find?_insert_ne {α : Type} (m : SMap α) {a b : Nat} (v : α) (h : b ≠ a) : (m.insert a v).find? b = m.find? b := by
  induction m with
  | nil => simp [SMap.insert, SMap.find?, h]
  | cons p r ih =>
    obtain ⟨k, w⟩ := p
    by_cases h1 : a < k
    · simp only [SMap.insert, h1, if_true, SMap.find?, h, if_false]
      by_cases h2 : b < a
      · have : b ≠ k := by omega
        have : b < k := by omega
        simp [*]
      · simp [h2]
    · by_cases h2 : a = k
      · subst h2
        simp [SMap.insert, SMap.find?, h]
      · simp only [SMap.insert, h1, h2, if_false, SMap.find?, ih]

theorem SMap.find?_insert {α : Type} (m : SMap α) (a b : Nat) (v : α) : (m.insert a v).find? b = if b = a then some v else m.find? b := by
  by_cases h : b = a
  · subst h
    simp [SMap.find?_insert_self]
  · simp [h, SMap.find?_insert_ne]

@[simp] theorem SMap.getD_insert_self {α : Type} (m : SMap α) (a : Nat) (v d : α) : (m.insert a v).getD a d = v := by
  simp [SMap.getD, SMap.find?_insert_self]

theorem SMap.getD_insert_ne {α : Type} (m : SMap α) {a b : Nat} (v d : α) (h : b ≠ a) : (m.insert a v).getD b d = m.getD b d := by
  simp [SMap.getD, SMap.find?_insert_ne _ _ h]

theorem SMap.getD_insert {α : Type} (m : SMap α) (a b : Nat) (v d : α) : (m.insert a v).getD b d = if b = a then v else m.getD b d := by
  by_cases h : b = a
  · subst h
    simp
  · simp [h, SMap.getD_insert_ne]

theorem SMap.find?_none_of_forall {α : Type} {m : SMap α} {a : Nat} (h : ∀ p ∈ m, p.1 ≠ a) : m.find? a = none := by
  induction m with
  | nil => rfl
  | cons p r ih =>
    obtain ⟨k, w⟩ := p
    have h1 : k ≠ a := h (k, w) (by simp)
    have h2 : a ≠ k := fun e => h1 e.symm
    simp only [SMap.find?, h2, if_false]
    split
    · rfl
    · exact ih (fun q hq => h q (by simp [hq]))

@[simp] theorem SMap.find?_erase_self {α : Type} (m : SMap α) (a : Nat) : (m.erase a).find? a = none :=
  SMap.find?_none_of_forall (fun p hp => by simpa using (List.mem_filter.mp hp).2)

theorem SMap.find?_above {α : Type} {m : SMap α} {a : Nat} (h : ∀ p ∈ m, a < p.1) : m.find? a = none :=
  SMap.find?_none_of_forall (fun p hp => by have := h p hp; omega)

/-- The keys of a map rise strictly. -/
def SMap.Sorted {α : Type} (m : SMap α) : Prop := m.Pairwise (fun p q => p.1 < q.1)

theorem SMap.find?_erase_ne {α : Type} {m : SMap α} (hs : m.Sorted) {a b : Nat} (h : b ≠ a) : (m.erase a).find? b = m.find? b := by
  induction m with
  | nil => rfl
  | cons p r ih =>
    obtain ⟨k, w⟩ := p
    have hr : SMap.Sorted r := (List.pairwise_cons.mp hs).2
    have hk : ∀ q ∈ r, k < q.1 := (List.pairwise_cons.mp hs).1
    by_cases h1 : k = a
    · subst h1
      have e : SMap.erase ((k, w) :: r) k = SMap.erase r k := by simp [SMap.erase]
      rw [e, ih hr]
      simp only [SMap.find?, h, if_false]
      split
      · exact SMap.find?_above (fun q hq => by have := hk q hq; omega)
      · rfl
    · have e : SMap.erase ((k, w) :: r) a = (k, w) :: SMap.erase r a := by simp [SMap.erase, h1]
      rw [e]
      simp only [SMap.find?, ih hr]

theorem SMap.sorted_erase {α : Type} {m : SMap α} (hs : m.Sorted) (a : Nat) : (m.erase a).Sorted := hs.filter _

theorem SMap.mem_insert {α : Type} {m : SMap α} {a : Nat} {v : α} {p : Nat × α} (h : p ∈ m.insert a v) : p = (a, v) ∨ p ∈ m := by
  induction m with
  | nil => simpa [SMap.insert] using h
  | cons q r ih =>
    obtain ⟨k, w⟩ := q
    simp only [SMap.insert] at h
    split at h
    · simpa using h
    · split at h
      · rcases List.mem_cons.mp h with h | h
        · exact .inl h
        · exact .inr (by simp [h])
      · rcases List.mem_cons.mp h with h | h
        · exact .inr (by simp [h])
        · rcases ih h with h | h
          · exact .inl h
          · exact .inr (by simp [h])

theorem SMap.sorted_insert {α : Type} {m : SMap α} (hs : m.Sorted) (a : Nat) (v : α) : (m.insert a v).Sorted := by
  induction m with
  | nil => simp [SMap.insert, SMap.Sorted]
  | cons q r ih =>
    obtain ⟨k, w⟩ := q
    have hr : SMap.Sorted r := (List.pairwise_cons.mp hs).2
    have hk : ∀ q ∈ r, k < q.1 := (List.pairwise_cons.mp hs).1
    simp only [SMap.insert]
    split
    · refine List.pairwise_cons.mpr ⟨fun p hp => ?_, hs⟩
      rcases List.mem_cons.mp hp with rfl | hp
      · assumption
      · have := hk p hp
        show a < p.1
        omega
    · split
      · next h =>
        subst h
        exact List.pairwise_cons.mpr ⟨hk, hr⟩
      · refine List.pairwise_cons.mpr ⟨fun p hp => ?_, ih hr⟩
        rcases SMap.mem_insert hp with rfl | hp
        · show k < a
          omega
        · exact hk p hp

end Sys2Proof
end

