-- ==== Sys2Proof/Laws/State.lean ====
section
/-!
SUPPORT. What an update of the state, or of a core, leaves as it was: one lemma for each field.
-/
namespace Sys2Proof.Machine

/-! `updCl` -/

@[simp] theorem updCl_cur (s : State) (cl : Nat) (f : Cluster → Cluster) : (updCl s cl f).cur = s.cur := rfl
@[simp] theorem updCl_core (s : State) (cl : Nat) (f : Cluster → Cluster) : (updCl s cl f).core = s.core := rfl
@[simp] theorem updCl_others (s : State) (cl : Nat) (f : Cluster → Cluster) : (updCl s cl f).others = s.others := rfl
@[simp] theorem updCl_mem (s : State) (cl : Nat) (f : Cluster → Cluster) : (updCl s cl f).mem = s.mem := rfl
@[simp] theorem updCl_empties (s : State) (cl : Nat) (f : Cluster → Cluster) : (updCl s cl f).empties = s.empties := rfl
@[simp] theorem updCl_ltag (s : State) (cl : Nat) (f : Cluster → Cluster) : (updCl s cl f).ltag = s.ltag := rfl
@[simp] theorem updCl_ecc (s : State) (cl : Nat) (f : Cluster → Cluster) : (updCl s cl f).ecc = s.ecc := rfl
@[simp] theorem updCl_agenda (s : State) (cl : Nat) (f : Cluster → Cluster) : (updCl s cl f).agenda = s.agenda := rfl
@[simp] theorem updCl_cycle (s : State) (cl : Nat) (f : Cluster → Cluster) : (updCl s cl f).cycle = s.cycle := rfl
@[simp] theorem updCl_clock0 (s : State) (cl : Nat) (f : Cluster → Cluster) : (updCl s cl f).clock0 = s.clock0 := rfl
@[simp] theorem updCl_clock1 (s : State) (cl : Nat) (f : Cluster → Cluster) : (updCl s cl f).clock1 = s.clock1 := rfl
@[simp] theorem updCl_fresh (s : State) (cl : Nat) (f : Cluster → Cluster) : (updCl s cl f).fresh = s.fresh := rfl
@[simp] theorem updCl_ahead (s : State) (cl : Nat) (f : Cluster → Cluster) : (updCl s cl f).ahead = s.ahead := rfl
@[simp] theorem updCl_xcsrs (s : State) (cl : Nat) (f : Cluster → Cluster) : (updCl s cl f).xcsrs = s.xcsrs := rfl
@[simp] theorem updCl_ctxs (s : State) (cl : Nat) (f : Cluster → Cluster) : (updCl s cl f).ctxs = s.ctxs := rfl
@[simp] theorem updCl_tlb (s : State) (cl : Nat) (f : Cluster → Cluster) : (updCl s cl f).tlb = s.tlb := rfl
@[simp] theorem updCl_walks (s : State) (cl : Nat) (f : Cluster → Cluster) : (updCl s cl f).walks = s.walks := rfl
@[simp] theorem updCl_slices (s : State) (cl : Nat) (f : Cluster → Cluster) : (updCl s cl f).slices = s.slices := rfl
@[simp] theorem updCl_gangs (s : State) (cl : Nat) (f : Cluster → Cluster) : (updCl s cl f).gangs = s.gangs := rfl
@[simp] theorem updCl_grids (s : State) (cl : Nat) (f : Cluster → Cluster) : (updCl s cl f).grids = s.grids := rfl
@[simp] theorem updCl_nextId (s : State) (cl : Nat) (f : Cluster → Cluster) : (updCl s cl f).nextId = s.nextId := rfl
@[simp] theorem updCl_waits (s : State) (cl : Nat) (f : Cluster → Cluster) : (updCl s cl f).waits = s.waits := rfl
@[simp] theorem updCl_drops (s : State) (cl : Nat) (f : Cluster → Cluster) : (updCl s cl f).drops = s.drops := rfl
@[simp] theorem updCl_bqes (s : State) (cl : Nat) (f : Cluster → Cluster) : (updCl s cl f).bqes = s.bqes := rfl
@[simp] theorem updCl_feq (s : State) (cl : Nat) (f : Cluster → Cluster) : (updCl s cl f).feq = s.feq := rfl
@[simp] theorem updCl_bards (s : State) (cl : Nat) (f : Cluster → Cluster) : (updCl s cl f).bards = s.bards := rfl
@[simp] theorem updCl_xsts (s : State) (cl : Nat) (f : Cluster → Cluster) : (updCl s cl f).xsts = s.xsts := rfl
@[simp] theorem updCl_dirtyHeld (s : State) (cl : Nat) (f : Cluster → Cluster) : (updCl s cl f).dirtyHeld = s.dirtyHeld := rfl
@[simp] theorem updCl_evHeld (s : State) (cl : Nat) (f : Cluster → Cluster) : (updCl s cl f).evHeld = s.evHeld := rfl
@[simp] theorem updCl_fbatchh (s : State) (cl : Nat) (f : Cluster → Cluster) : (updCl s cl f).fbatchh = s.fbatchh := rfl
@[simp] theorem updCl_ctxtab (s : State) (cl : Nat) (f : Cluster → Cluster) : (updCl s cl f).ctxtab = s.ctxtab := rfl
@[simp] theorem updCl_trpause (s : State) (cl : Nat) (f : Cluster → Cluster) : (updCl s cl f).trpause = s.trpause := rfl
@[simp] theorem updCl_keys (s : State) (cl : Nat) (f : Cluster → Cluster) : (updCl s cl f).keys = s.keys := rfl
@[simp] theorem updCl_parts (s : State) (cl : Nat) (f : Cluster → Cluster) : (updCl s cl f).parts = s.parts := rfl
@[simp] theorem updCl_fab (s : State) (cl : Nat) (f : Cluster → Cluster) : (updCl s cl f).fab = s.fab := rfl
@[simp] theorem updCl_trc (s : State) (cl : Nat) (f : Cluster → Cluster) : (updCl s cl f).trc = s.trc := rfl
@[simp] theorem updCl_mgmt (s : State) (cl : Nat) (f : Cluster → Cluster) : (updCl s cl f).mgmt = s.mgmt := rfl
@[simp] theorem updCl_busy (s : State) (cl : Nat) (f : Cluster → Cluster) : (updCl s cl f).busy = s.busy := rfl
@[simp] theorem updCl_estall (s : State) (cl : Nat) (f : Cluster → Cluster) : (updCl s cl f).estall = s.estall := rfl

/-! `updCtx` -/

@[simp] theorem updCtx_cur (s : State) (ctx : Nat) (f : Ctx → Ctx) : (updCtx s ctx f).cur = s.cur := rfl
@[simp] theorem updCtx_core (s : State) (ctx : Nat) (f : Ctx → Ctx) : (updCtx s ctx f).core = s.core := rfl
@[simp] theorem updCtx_others (s : State) (ctx : Nat) (f : Ctx → Ctx) : (updCtx s ctx f).others = s.others := rfl
@[simp] theorem updCtx_mem (s : State) (ctx : Nat) (f : Ctx → Ctx) : (updCtx s ctx f).mem = s.mem := rfl
@[simp] theorem updCtx_empties (s : State) (ctx : Nat) (f : Ctx → Ctx) : (updCtx s ctx f).empties = s.empties := rfl
@[simp] theorem updCtx_ltag (s : State) (ctx : Nat) (f : Ctx → Ctx) : (updCtx s ctx f).ltag = s.ltag := rfl
@[simp] theorem updCtx_ecc (s : State) (ctx : Nat) (f : Ctx → Ctx) : (updCtx s ctx f).ecc = s.ecc := rfl
@[simp] theorem updCtx_agenda (s : State) (ctx : Nat) (f : Ctx → Ctx) : (updCtx s ctx f).agenda = s.agenda := rfl
@[simp] theorem updCtx_cycle (s : State) (ctx : Nat) (f : Ctx → Ctx) : (updCtx s ctx f).cycle = s.cycle := rfl
@[simp] theorem updCtx_clock0 (s : State) (ctx : Nat) (f : Ctx → Ctx) : (updCtx s ctx f).clock0 = s.clock0 := rfl
@[simp] theorem updCtx_clock1 (s : State) (ctx : Nat) (f : Ctx → Ctx) : (updCtx s ctx f).clock1 = s.clock1 := rfl
@[simp] theorem updCtx_fresh (s : State) (ctx : Nat) (f : Ctx → Ctx) : (updCtx s ctx f).fresh = s.fresh := rfl
@[simp] theorem updCtx_ahead (s : State) (ctx : Nat) (f : Ctx → Ctx) : (updCtx s ctx f).ahead = s.ahead := rfl
@[simp] theorem updCtx_clusters (s : State) (ctx : Nat) (f : Ctx → Ctx) : (updCtx s ctx f).clusters = s.clusters := rfl
@[simp] theorem updCtx_xcsrs (s : State) (ctx : Nat) (f : Ctx → Ctx) : (updCtx s ctx f).xcsrs = s.xcsrs := rfl
@[simp] theorem updCtx_tlb (s : State) (ctx : Nat) (f : Ctx → Ctx) : (updCtx s ctx f).tlb = s.tlb := rfl
@[simp] theorem updCtx_walks (s : State) (ctx : Nat) (f : Ctx → Ctx) : (updCtx s ctx f).walks = s.walks := rfl
@[simp] theorem updCtx_slices (s : State) (ctx : Nat) (f : Ctx → Ctx) : (updCtx s ctx f).slices = s.slices := rfl
@[simp] theorem updCtx_gangs (s : State) (ctx : Nat) (f : Ctx → Ctx) : (updCtx s ctx f).gangs = s.gangs := rfl
@[simp] theorem updCtx_grids (s : State) (ctx : Nat) (f : Ctx → Ctx) : (updCtx s ctx f).grids = s.grids := rfl
@[simp] theorem updCtx_nextId (s : State) (ctx : Nat) (f : Ctx → Ctx) : (updCtx s ctx f).nextId = s.nextId := rfl
@[simp] theorem updCtx_waits (s : State) (ctx : Nat) (f : Ctx → Ctx) : (updCtx s ctx f).waits = s.waits := rfl
@[simp] theorem updCtx_drops (s : State) (ctx : Nat) (f : Ctx → Ctx) : (updCtx s ctx f).drops = s.drops := rfl
@[simp] theorem updCtx_bqes (s : State) (ctx : Nat) (f : Ctx → Ctx) : (updCtx s ctx f).bqes = s.bqes := rfl
@[simp] theorem updCtx_feq (s : State) (ctx : Nat) (f : Ctx → Ctx) : (updCtx s ctx f).feq = s.feq := rfl
@[simp] theorem updCtx_bards (s : State) (ctx : Nat) (f : Ctx → Ctx) : (updCtx s ctx f).bards = s.bards := rfl
@[simp] theorem updCtx_xsts (s : State) (ctx : Nat) (f : Ctx → Ctx) : (updCtx s ctx f).xsts = s.xsts := rfl
@[simp] theorem updCtx_dirtyHeld (s : State) (ctx : Nat) (f : Ctx → Ctx) : (updCtx s ctx f).dirtyHeld = s.dirtyHeld := rfl
@[simp] theorem updCtx_evHeld (s : State) (ctx : Nat) (f : Ctx → Ctx) : (updCtx s ctx f).evHeld = s.evHeld := rfl
@[simp] theorem updCtx_fbatchh (s : State) (ctx : Nat) (f : Ctx → Ctx) : (updCtx s ctx f).fbatchh = s.fbatchh := rfl
@[simp] theorem updCtx_ctxtab (s : State) (ctx : Nat) (f : Ctx → Ctx) : (updCtx s ctx f).ctxtab = s.ctxtab := rfl
@[simp] theorem updCtx_trpause (s : State) (ctx : Nat) (f : Ctx → Ctx) : (updCtx s ctx f).trpause = s.trpause := rfl
@[simp] theorem updCtx_keys (s : State) (ctx : Nat) (f : Ctx → Ctx) : (updCtx s ctx f).keys = s.keys := rfl
@[simp] theorem updCtx_parts (s : State) (ctx : Nat) (f : Ctx → Ctx) : (updCtx s ctx f).parts = s.parts := rfl
@[simp] theorem updCtx_fab (s : State) (ctx : Nat) (f : Ctx → Ctx) : (updCtx s ctx f).fab = s.fab := rfl
@[simp] theorem updCtx_trc (s : State) (ctx : Nat) (f : Ctx → Ctx) : (updCtx s ctx f).trc = s.trc := rfl
@[simp] theorem updCtx_mgmt (s : State) (ctx : Nat) (f : Ctx → Ctx) : (updCtx s ctx f).mgmt = s.mgmt := rfl
@[simp] theorem updCtx_busy (s : State) (ctx : Nat) (f : Ctx → Ctx) : (updCtx s ctx f).busy = s.busy := rfl
@[simp] theorem updCtx_estall (s : State) (ctx : Nat) (f : Ctx → Ctx) : (updCtx s ctx f).estall = s.estall := rfl

/-! `updX` -/

@[simp] theorem updX_cur (s : State) (ctx cl : Nat) (f : XCsr → XCsr) : (updX s ctx cl f).cur = s.cur := rfl
@[simp] theorem updX_core (s : State) (ctx cl : Nat) (f : XCsr → XCsr) : (updX s ctx cl f).core = s.core := rfl
@[simp] theorem updX_others (s : State) (ctx cl : Nat) (f : XCsr → XCsr) : (updX s ctx cl f).others = s.others := rfl
@[simp] theorem updX_mem (s : State) (ctx cl : Nat) (f : XCsr → XCsr) : (updX s ctx cl f).mem = s.mem := rfl
@[simp] theorem updX_empties (s : State) (ctx cl : Nat) (f : XCsr → XCsr) : (updX s ctx cl f).empties = s.empties := rfl
@[simp] theorem updX_ltag (s : State) (ctx cl : Nat) (f : XCsr → XCsr) : (updX s ctx cl f).ltag = s.ltag := rfl
@[simp] theorem updX_ecc (s : State) (ctx cl : Nat) (f : XCsr → XCsr) : (updX s ctx cl f).ecc = s.ecc := rfl
@[simp] theorem updX_agenda (s : State) (ctx cl : Nat) (f : XCsr → XCsr) : (updX s ctx cl f).agenda = s.agenda := rfl
@[simp] theorem updX_cycle (s : State) (ctx cl : Nat) (f : XCsr → XCsr) : (updX s ctx cl f).cycle = s.cycle := rfl
@[simp] theorem updX_clock0 (s : State) (ctx cl : Nat) (f : XCsr → XCsr) : (updX s ctx cl f).clock0 = s.clock0 := rfl
@[simp] theorem updX_clock1 (s : State) (ctx cl : Nat) (f : XCsr → XCsr) : (updX s ctx cl f).clock1 = s.clock1 := rfl
@[simp] theorem updX_fresh (s : State) (ctx cl : Nat) (f : XCsr → XCsr) : (updX s ctx cl f).fresh = s.fresh := rfl
@[simp] theorem updX_ahead (s : State) (ctx cl : Nat) (f : XCsr → XCsr) : (updX s ctx cl f).ahead = s.ahead := rfl
@[simp] theorem updX_clusters (s : State) (ctx cl : Nat) (f : XCsr → XCsr) : (updX s ctx cl f).clusters = s.clusters := rfl
@[simp] theorem updX_ctxs (s : State) (ctx cl : Nat) (f : XCsr → XCsr) : (updX s ctx cl f).ctxs = s.ctxs := rfl
@[simp] theorem updX_tlb (s : State) (ctx cl : Nat) (f : XCsr → XCsr) : (updX s ctx cl f).tlb = s.tlb := rfl
@[simp] theorem updX_walks (s : State) (ctx cl : Nat) (f : XCsr → XCsr) : (updX s ctx cl f).walks = s.walks := rfl
@[simp] theorem updX_slices (s : State) (ctx cl : Nat) (f : XCsr → XCsr) : (updX s ctx cl f).slices = s.slices := rfl
@[simp] theorem updX_gangs (s : State) (ctx cl : Nat) (f : XCsr → XCsr) : (updX s ctx cl f).gangs = s.gangs := rfl
@[simp] theorem updX_grids (s : State) (ctx cl : Nat) (f : XCsr → XCsr) : (updX s ctx cl f).grids = s.grids := rfl
@[simp] theorem updX_nextId (s : State) (ctx cl : Nat) (f : XCsr → XCsr) : (updX s ctx cl f).nextId = s.nextId := rfl
@[simp] theorem updX_waits (s : State) (ctx cl : Nat) (f : XCsr → XCsr) : (updX s ctx cl f).waits = s.waits := rfl
@[simp] theorem updX_drops (s : State) (ctx cl : Nat) (f : XCsr → XCsr) : (updX s ctx cl f).drops = s.drops := rfl
@[simp] theorem updX_bqes (s : State) (ctx cl : Nat) (f : XCsr → XCsr) : (updX s ctx cl f).bqes = s.bqes := rfl
@[simp] theorem updX_feq (s : State) (ctx cl : Nat) (f : XCsr → XCsr) : (updX s ctx cl f).feq = s.feq := rfl
@[simp] theorem updX_bards (s : State) (ctx cl : Nat) (f : XCsr → XCsr) : (updX s ctx cl f).bards = s.bards := rfl
@[simp] theorem updX_xsts (s : State) (ctx cl : Nat) (f : XCsr → XCsr) : (updX s ctx cl f).xsts = s.xsts := rfl
@[simp] theorem updX_dirtyHeld (s : State) (ctx cl : Nat) (f : XCsr → XCsr) : (updX s ctx cl f).dirtyHeld = s.dirtyHeld := rfl
@[simp] theorem updX_evHeld (s : State) (ctx cl : Nat) (f : XCsr → XCsr) : (updX s ctx cl f).evHeld = s.evHeld := rfl
@[simp] theorem updX_fbatchh (s : State) (ctx cl : Nat) (f : XCsr → XCsr) : (updX s ctx cl f).fbatchh = s.fbatchh := rfl
@[simp] theorem updX_ctxtab (s : State) (ctx cl : Nat) (f : XCsr → XCsr) : (updX s ctx cl f).ctxtab = s.ctxtab := rfl
@[simp] theorem updX_trpause (s : State) (ctx cl : Nat) (f : XCsr → XCsr) : (updX s ctx cl f).trpause = s.trpause := rfl
@[simp] theorem updX_keys (s : State) (ctx cl : Nat) (f : XCsr → XCsr) : (updX s ctx cl f).keys = s.keys := rfl
@[simp] theorem updX_parts (s : State) (ctx cl : Nat) (f : XCsr → XCsr) : (updX s ctx cl f).parts = s.parts := rfl
@[simp] theorem updX_fab (s : State) (ctx cl : Nat) (f : XCsr → XCsr) : (updX s ctx cl f).fab = s.fab := rfl
@[simp] theorem updX_trc (s : State) (ctx cl : Nat) (f : XCsr → XCsr) : (updX s ctx cl f).trc = s.trc := rfl
@[simp] theorem updX_mgmt (s : State) (ctx cl : Nat) (f : XCsr → XCsr) : (updX s ctx cl f).mgmt = s.mgmt := rfl
@[simp] theorem updX_busy (s : State) (ctx cl : Nat) (f : XCsr → XCsr) : (updX s ctx cl f).busy = s.busy := rfl
@[simp] theorem updX_estall (s : State) (ctx cl : Nat) (f : XCsr → XCsr) : (updX s ctx cl f).estall = s.estall := rfl

/-! `updGang` -/

@[simp] theorem updGang_cur (s : State) (gid : Nat) (f : Gang → Gang) : (updGang s gid f).cur = s.cur := rfl
@[simp] theorem updGang_core (s : State) (gid : Nat) (f : Gang → Gang) : (updGang s gid f).core = s.core := rfl
@[simp] theorem updGang_others (s : State) (gid : Nat) (f : Gang → Gang) : (updGang s gid f).others = s.others := rfl
@[simp] theorem updGang_mem (s : State) (gid : Nat) (f : Gang → Gang) : (updGang s gid f).mem = s.mem := rfl
@[simp] theorem updGang_empties (s : State) (gid : Nat) (f : Gang → Gang) : (updGang s gid f).empties = s.empties := rfl
@[simp] theorem updGang_ltag (s : State) (gid : Nat) (f : Gang → Gang) : (updGang s gid f).ltag = s.ltag := rfl
@[simp] theorem updGang_ecc (s : State) (gid : Nat) (f : Gang → Gang) : (updGang s gid f).ecc = s.ecc := rfl
@[simp] theorem updGang_agenda (s : State) (gid : Nat) (f : Gang → Gang) : (updGang s gid f).agenda = s.agenda := rfl
@[simp] theorem updGang_cycle (s : State) (gid : Nat) (f : Gang → Gang) : (updGang s gid f).cycle = s.cycle := rfl
@[simp] theorem updGang_clock0 (s : State) (gid : Nat) (f : Gang → Gang) : (updGang s gid f).clock0 = s.clock0 := rfl
@[simp] theorem updGang_clock1 (s : State) (gid : Nat) (f : Gang → Gang) : (updGang s gid f).clock1 = s.clock1 := rfl
@[simp] theorem updGang_fresh (s : State) (gid : Nat) (f : Gang → Gang) : (updGang s gid f).fresh = s.fresh := rfl
@[simp] theorem updGang_ahead (s : State) (gid : Nat) (f : Gang → Gang) : (updGang s gid f).ahead = s.ahead := rfl
@[simp] theorem updGang_clusters (s : State) (gid : Nat) (f : Gang → Gang) : (updGang s gid f).clusters = s.clusters := rfl
@[simp] theorem updGang_xcsrs (s : State) (gid : Nat) (f : Gang → Gang) : (updGang s gid f).xcsrs = s.xcsrs := rfl
@[simp] theorem updGang_ctxs (s : State) (gid : Nat) (f : Gang → Gang) : (updGang s gid f).ctxs = s.ctxs := rfl
@[simp] theorem updGang_tlb (s : State) (gid : Nat) (f : Gang → Gang) : (updGang s gid f).tlb = s.tlb := rfl
@[simp] theorem updGang_walks (s : State) (gid : Nat) (f : Gang → Gang) : (updGang s gid f).walks = s.walks := rfl
@[simp] theorem updGang_slices (s : State) (gid : Nat) (f : Gang → Gang) : (updGang s gid f).slices = s.slices := rfl
@[simp] theorem updGang_grids (s : State) (gid : Nat) (f : Gang → Gang) : (updGang s gid f).grids = s.grids := rfl
@[simp] theorem updGang_nextId (s : State) (gid : Nat) (f : Gang → Gang) : (updGang s gid f).nextId = s.nextId := rfl
@[simp] theorem updGang_waits (s : State) (gid : Nat) (f : Gang → Gang) : (updGang s gid f).waits = s.waits := rfl
@[simp] theorem updGang_drops (s : State) (gid : Nat) (f : Gang → Gang) : (updGang s gid f).drops = s.drops := rfl
@[simp] theorem updGang_bqes (s : State) (gid : Nat) (f : Gang → Gang) : (updGang s gid f).bqes = s.bqes := rfl
@[simp] theorem updGang_feq (s : State) (gid : Nat) (f : Gang → Gang) : (updGang s gid f).feq = s.feq := rfl
@[simp] theorem updGang_bards (s : State) (gid : Nat) (f : Gang → Gang) : (updGang s gid f).bards = s.bards := rfl
@[simp] theorem updGang_xsts (s : State) (gid : Nat) (f : Gang → Gang) : (updGang s gid f).xsts = s.xsts := rfl
@[simp] theorem updGang_dirtyHeld (s : State) (gid : Nat) (f : Gang → Gang) : (updGang s gid f).dirtyHeld = s.dirtyHeld := rfl
@[simp] theorem updGang_evHeld (s : State) (gid : Nat) (f : Gang → Gang) : (updGang s gid f).evHeld = s.evHeld := rfl
@[simp] theorem updGang_fbatchh (s : State) (gid : Nat) (f : Gang → Gang) : (updGang s gid f).fbatchh = s.fbatchh := rfl
@[simp] theorem updGang_ctxtab (s : State) (gid : Nat) (f : Gang → Gang) : (updGang s gid f).ctxtab = s.ctxtab := rfl
@[simp] theorem updGang_trpause (s : State) (gid : Nat) (f : Gang → Gang) : (updGang s gid f).trpause = s.trpause := rfl
@[simp] theorem updGang_keys (s : State) (gid : Nat) (f : Gang → Gang) : (updGang s gid f).keys = s.keys := rfl
@[simp] theorem updGang_parts (s : State) (gid : Nat) (f : Gang → Gang) : (updGang s gid f).parts = s.parts := rfl
@[simp] theorem updGang_fab (s : State) (gid : Nat) (f : Gang → Gang) : (updGang s gid f).fab = s.fab := rfl
@[simp] theorem updGang_trc (s : State) (gid : Nat) (f : Gang → Gang) : (updGang s gid f).trc = s.trc := rfl
@[simp] theorem updGang_mgmt (s : State) (gid : Nat) (f : Gang → Gang) : (updGang s gid f).mgmt = s.mgmt := rfl
@[simp] theorem updGang_busy (s : State) (gid : Nat) (f : Gang → Gang) : (updGang s gid f).busy = s.busy := rfl
@[simp] theorem updGang_estall (s : State) (gid : Nat) (f : Gang → Gang) : (updGang s gid f).estall = s.estall := rfl

/-! `updGrid` -/

@[simp] theorem updGrid_cur (s : State) (id : Nat) (f : Grid → Grid) : (updGrid s id f).cur = s.cur := rfl
@[simp] theorem updGrid_core (s : State) (id : Nat) (f : Grid → Grid) : (updGrid s id f).core = s.core := rfl
@[simp] theorem updGrid_others (s : State) (id : Nat) (f : Grid → Grid) : (updGrid s id f).others = s.others := rfl
@[simp] theorem updGrid_mem (s : State) (id : Nat) (f : Grid → Grid) : (updGrid s id f).mem = s.mem := rfl
@[simp] theorem updGrid_empties (s : State) (id : Nat) (f : Grid → Grid) : (updGrid s id f).empties = s.empties := rfl
@[simp] theorem updGrid_ltag (s : State) (id : Nat) (f : Grid → Grid) : (updGrid s id f).ltag = s.ltag := rfl
@[simp] theorem updGrid_ecc (s : State) (id : Nat) (f : Grid → Grid) : (updGrid s id f).ecc = s.ecc := rfl
@[simp] theorem updGrid_agenda (s : State) (id : Nat) (f : Grid → Grid) : (updGrid s id f).agenda = s.agenda := rfl
@[simp] theorem updGrid_cycle (s : State) (id : Nat) (f : Grid → Grid) : (updGrid s id f).cycle = s.cycle := rfl
@[simp] theorem updGrid_clock0 (s : State) (id : Nat) (f : Grid → Grid) : (updGrid s id f).clock0 = s.clock0 := rfl
@[simp] theorem updGrid_clock1 (s : State) (id : Nat) (f : Grid → Grid) : (updGrid s id f).clock1 = s.clock1 := rfl
@[simp] theorem updGrid_fresh (s : State) (id : Nat) (f : Grid → Grid) : (updGrid s id f).fresh = s.fresh := rfl
@[simp] theorem updGrid_ahead (s : State) (id : Nat) (f : Grid → Grid) : (updGrid s id f).ahead = s.ahead := rfl
@[simp] theorem updGrid_clusters (s : State) (id : Nat) (f : Grid → Grid) : (updGrid s id f).clusters = s.clusters := rfl
@[simp] theorem updGrid_xcsrs (s : State) (id : Nat) (f : Grid → Grid) : (updGrid s id f).xcsrs = s.xcsrs := rfl
@[simp] theorem updGrid_ctxs (s : State) (id : Nat) (f : Grid → Grid) : (updGrid s id f).ctxs = s.ctxs := rfl
@[simp] theorem updGrid_tlb (s : State) (id : Nat) (f : Grid → Grid) : (updGrid s id f).tlb = s.tlb := rfl
@[simp] theorem updGrid_walks (s : State) (id : Nat) (f : Grid → Grid) : (updGrid s id f).walks = s.walks := rfl
@[simp] theorem updGrid_slices (s : State) (id : Nat) (f : Grid → Grid) : (updGrid s id f).slices = s.slices := rfl
@[simp] theorem updGrid_gangs (s : State) (id : Nat) (f : Grid → Grid) : (updGrid s id f).gangs = s.gangs := rfl
@[simp] theorem updGrid_nextId (s : State) (id : Nat) (f : Grid → Grid) : (updGrid s id f).nextId = s.nextId := rfl
@[simp] theorem updGrid_waits (s : State) (id : Nat) (f : Grid → Grid) : (updGrid s id f).waits = s.waits := rfl
@[simp] theorem updGrid_drops (s : State) (id : Nat) (f : Grid → Grid) : (updGrid s id f).drops = s.drops := rfl
@[simp] theorem updGrid_bqes (s : State) (id : Nat) (f : Grid → Grid) : (updGrid s id f).bqes = s.bqes := rfl
@[simp] theorem updGrid_feq (s : State) (id : Nat) (f : Grid → Grid) : (updGrid s id f).feq = s.feq := rfl
@[simp] theorem updGrid_bards (s : State) (id : Nat) (f : Grid → Grid) : (updGrid s id f).bards = s.bards := rfl
@[simp] theorem updGrid_xsts (s : State) (id : Nat) (f : Grid → Grid) : (updGrid s id f).xsts = s.xsts := rfl
@[simp] theorem updGrid_dirtyHeld (s : State) (id : Nat) (f : Grid → Grid) : (updGrid s id f).dirtyHeld = s.dirtyHeld := rfl
@[simp] theorem updGrid_evHeld (s : State) (id : Nat) (f : Grid → Grid) : (updGrid s id f).evHeld = s.evHeld := rfl
@[simp] theorem updGrid_fbatchh (s : State) (id : Nat) (f : Grid → Grid) : (updGrid s id f).fbatchh = s.fbatchh := rfl
@[simp] theorem updGrid_ctxtab (s : State) (id : Nat) (f : Grid → Grid) : (updGrid s id f).ctxtab = s.ctxtab := rfl
@[simp] theorem updGrid_trpause (s : State) (id : Nat) (f : Grid → Grid) : (updGrid s id f).trpause = s.trpause := rfl
@[simp] theorem updGrid_keys (s : State) (id : Nat) (f : Grid → Grid) : (updGrid s id f).keys = s.keys := rfl
@[simp] theorem updGrid_parts (s : State) (id : Nat) (f : Grid → Grid) : (updGrid s id f).parts = s.parts := rfl
@[simp] theorem updGrid_fab (s : State) (id : Nat) (f : Grid → Grid) : (updGrid s id f).fab = s.fab := rfl
@[simp] theorem updGrid_trc (s : State) (id : Nat) (f : Grid → Grid) : (updGrid s id f).trc = s.trc := rfl
@[simp] theorem updGrid_mgmt (s : State) (id : Nat) (f : Grid → Grid) : (updGrid s id f).mgmt = s.mgmt := rfl
@[simp] theorem updGrid_busy (s : State) (id : Nat) (f : Grid → Grid) : (updGrid s id f).busy = s.busy := rfl
@[simp] theorem updGrid_estall (s : State) (id : Nat) (f : Grid → Grid) : (updGrid s id f).estall = s.estall := rfl

/-! `updBqe` -/

@[simp] theorem updBqe_cur (s : State) (q : Nat) (f : Bqe → Bqe) : (updBqe s q f).cur = s.cur := rfl
@[simp] theorem updBqe_core (s : State) (q : Nat) (f : Bqe → Bqe) : (updBqe s q f).core = s.core := rfl
@[simp] theorem updBqe_others (s : State) (q : Nat) (f : Bqe → Bqe) : (updBqe s q f).others = s.others := rfl
@[simp] theorem updBqe_mem (s : State) (q : Nat) (f : Bqe → Bqe) : (updBqe s q f).mem = s.mem := rfl
@[simp] theorem updBqe_empties (s : State) (q : Nat) (f : Bqe → Bqe) : (updBqe s q f).empties = s.empties := rfl
@[simp] theorem updBqe_ltag (s : State) (q : Nat) (f : Bqe → Bqe) : (updBqe s q f).ltag = s.ltag := rfl
@[simp] theorem updBqe_ecc (s : State) (q : Nat) (f : Bqe → Bqe) : (updBqe s q f).ecc = s.ecc := rfl
@[simp] theorem updBqe_agenda (s : State) (q : Nat) (f : Bqe → Bqe) : (updBqe s q f).agenda = s.agenda := rfl
@[simp] theorem updBqe_cycle (s : State) (q : Nat) (f : Bqe → Bqe) : (updBqe s q f).cycle = s.cycle := rfl
@[simp] theorem updBqe_clock0 (s : State) (q : Nat) (f : Bqe → Bqe) : (updBqe s q f).clock0 = s.clock0 := rfl
@[simp] theorem updBqe_clock1 (s : State) (q : Nat) (f : Bqe → Bqe) : (updBqe s q f).clock1 = s.clock1 := rfl
@[simp] theorem updBqe_fresh (s : State) (q : Nat) (f : Bqe → Bqe) : (updBqe s q f).fresh = s.fresh := rfl
@[simp] theorem updBqe_ahead (s : State) (q : Nat) (f : Bqe → Bqe) : (updBqe s q f).ahead = s.ahead := rfl
@[simp] theorem updBqe_clusters (s : State) (q : Nat) (f : Bqe → Bqe) : (updBqe s q f).clusters = s.clusters := rfl
@[simp] theorem updBqe_xcsrs (s : State) (q : Nat) (f : Bqe → Bqe) : (updBqe s q f).xcsrs = s.xcsrs := rfl
@[simp] theorem updBqe_ctxs (s : State) (q : Nat) (f : Bqe → Bqe) : (updBqe s q f).ctxs = s.ctxs := rfl
@[simp] theorem updBqe_tlb (s : State) (q : Nat) (f : Bqe → Bqe) : (updBqe s q f).tlb = s.tlb := rfl
@[simp] theorem updBqe_walks (s : State) (q : Nat) (f : Bqe → Bqe) : (updBqe s q f).walks = s.walks := rfl
@[simp] theorem updBqe_slices (s : State) (q : Nat) (f : Bqe → Bqe) : (updBqe s q f).slices = s.slices := rfl
@[simp] theorem updBqe_gangs (s : State) (q : Nat) (f : Bqe → Bqe) : (updBqe s q f).gangs = s.gangs := rfl
@[simp] theorem updBqe_grids (s : State) (q : Nat) (f : Bqe → Bqe) : (updBqe s q f).grids = s.grids := rfl
@[simp] theorem updBqe_nextId (s : State) (q : Nat) (f : Bqe → Bqe) : (updBqe s q f).nextId = s.nextId := rfl
@[simp] theorem updBqe_waits (s : State) (q : Nat) (f : Bqe → Bqe) : (updBqe s q f).waits = s.waits := rfl
@[simp] theorem updBqe_drops (s : State) (q : Nat) (f : Bqe → Bqe) : (updBqe s q f).drops = s.drops := rfl
@[simp] theorem updBqe_feq (s : State) (q : Nat) (f : Bqe → Bqe) : (updBqe s q f).feq = s.feq := rfl
@[simp] theorem updBqe_bards (s : State) (q : Nat) (f : Bqe → Bqe) : (updBqe s q f).bards = s.bards := rfl
@[simp] theorem updBqe_xsts (s : State) (q : Nat) (f : Bqe → Bqe) : (updBqe s q f).xsts = s.xsts := rfl
@[simp] theorem updBqe_dirtyHeld (s : State) (q : Nat) (f : Bqe → Bqe) : (updBqe s q f).dirtyHeld = s.dirtyHeld := rfl
@[simp] theorem updBqe_evHeld (s : State) (q : Nat) (f : Bqe → Bqe) : (updBqe s q f).evHeld = s.evHeld := rfl
@[simp] theorem updBqe_fbatchh (s : State) (q : Nat) (f : Bqe → Bqe) : (updBqe s q f).fbatchh = s.fbatchh := rfl
@[simp] theorem updBqe_ctxtab (s : State) (q : Nat) (f : Bqe → Bqe) : (updBqe s q f).ctxtab = s.ctxtab := rfl
@[simp] theorem updBqe_trpause (s : State) (q : Nat) (f : Bqe → Bqe) : (updBqe s q f).trpause = s.trpause := rfl
@[simp] theorem updBqe_keys (s : State) (q : Nat) (f : Bqe → Bqe) : (updBqe s q f).keys = s.keys := rfl
@[simp] theorem updBqe_parts (s : State) (q : Nat) (f : Bqe → Bqe) : (updBqe s q f).parts = s.parts := rfl
@[simp] theorem updBqe_fab (s : State) (q : Nat) (f : Bqe → Bqe) : (updBqe s q f).fab = s.fab := rfl
@[simp] theorem updBqe_trc (s : State) (q : Nat) (f : Bqe → Bqe) : (updBqe s q f).trc = s.trc := rfl
@[simp] theorem updBqe_mgmt (s : State) (q : Nat) (f : Bqe → Bqe) : (updBqe s q f).mgmt = s.mgmt := rfl
@[simp] theorem updBqe_busy (s : State) (q : Nat) (f : Bqe → Bqe) : (updBqe s q f).busy = s.busy := rfl
@[simp] theorem updBqe_estall (s : State) (q : Nat) (f : Bqe → Bqe) : (updBqe s q f).estall = s.estall := rfl

/-! `updEntry` -/

@[simp] theorem updEntry_cur (s : State) (cl slot : Nat) (f : Entry → Entry) : (updEntry s cl slot f).cur = s.cur := rfl
@[simp] theorem updEntry_core (s : State) (cl slot : Nat) (f : Entry → Entry) : (updEntry s cl slot f).core = s.core := rfl
@[simp] theorem updEntry_others (s : State) (cl slot : Nat) (f : Entry → Entry) : (updEntry s cl slot f).others = s.others := rfl
@[simp] theorem updEntry_mem (s : State) (cl slot : Nat) (f : Entry → Entry) : (updEntry s cl slot f).mem = s.mem := rfl
@[simp] theorem updEntry_empties (s : State) (cl slot : Nat) (f : Entry → Entry) : (updEntry s cl slot f).empties = s.empties := rfl
@[simp] theorem updEntry_ltag (s : State) (cl slot : Nat) (f : Entry → Entry) : (updEntry s cl slot f).ltag = s.ltag := rfl
@[simp] theorem updEntry_ecc (s : State) (cl slot : Nat) (f : Entry → Entry) : (updEntry s cl slot f).ecc = s.ecc := rfl
@[simp] theorem updEntry_agenda (s : State) (cl slot : Nat) (f : Entry → Entry) : (updEntry s cl slot f).agenda = s.agenda := rfl
@[simp] theorem updEntry_cycle (s : State) (cl slot : Nat) (f : Entry → Entry) : (updEntry s cl slot f).cycle = s.cycle := rfl
@[simp] theorem updEntry_clock0 (s : State) (cl slot : Nat) (f : Entry → Entry) : (updEntry s cl slot f).clock0 = s.clock0 := rfl
@[simp] theorem updEntry_clock1 (s : State) (cl slot : Nat) (f : Entry → Entry) : (updEntry s cl slot f).clock1 = s.clock1 := rfl
@[simp] theorem updEntry_fresh (s : State) (cl slot : Nat) (f : Entry → Entry) : (updEntry s cl slot f).fresh = s.fresh := rfl
@[simp] theorem updEntry_ahead (s : State) (cl slot : Nat) (f : Entry → Entry) : (updEntry s cl slot f).ahead = s.ahead := rfl
@[simp] theorem updEntry_xcsrs (s : State) (cl slot : Nat) (f : Entry → Entry) : (updEntry s cl slot f).xcsrs = s.xcsrs := rfl
@[simp] theorem updEntry_ctxs (s : State) (cl slot : Nat) (f : Entry → Entry) : (updEntry s cl slot f).ctxs = s.ctxs := rfl
@[simp] theorem updEntry_tlb (s : State) (cl slot : Nat) (f : Entry → Entry) : (updEntry s cl slot f).tlb = s.tlb := rfl
@[simp] theorem updEntry_walks (s : State) (cl slot : Nat) (f : Entry → Entry) : (updEntry s cl slot f).walks = s.walks := rfl
@[simp] theorem updEntry_slices (s : State) (cl slot : Nat) (f : Entry → Entry) : (updEntry s cl slot f).slices = s.slices := rfl
@[simp] theorem updEntry_gangs (s : State) (cl slot : Nat) (f : Entry → Entry) : (updEntry s cl slot f).gangs = s.gangs := rfl
@[simp] theorem updEntry_grids (s : State) (cl slot : Nat) (f : Entry → Entry) : (updEntry s cl slot f).grids = s.grids := rfl
@[simp] theorem updEntry_nextId (s : State) (cl slot : Nat) (f : Entry → Entry) : (updEntry s cl slot f).nextId = s.nextId := rfl
@[simp] theorem updEntry_waits (s : State) (cl slot : Nat) (f : Entry → Entry) : (updEntry s cl slot f).waits = s.waits := rfl
@[simp] theorem updEntry_drops (s : State) (cl slot : Nat) (f : Entry → Entry) : (updEntry s cl slot f).drops = s.drops := rfl
@[simp] theorem updEntry_bqes (s : State) (cl slot : Nat) (f : Entry → Entry) : (updEntry s cl slot f).bqes = s.bqes := rfl
@[simp] theorem updEntry_feq (s : State) (cl slot : Nat) (f : Entry → Entry) : (updEntry s cl slot f).feq = s.feq := rfl
@[simp] theorem updEntry_bards (s : State) (cl slot : Nat) (f : Entry → Entry) : (updEntry s cl slot f).bards = s.bards := rfl
@[simp] theorem updEntry_xsts (s : State) (cl slot : Nat) (f : Entry → Entry) : (updEntry s cl slot f).xsts = s.xsts := rfl
@[simp] theorem updEntry_dirtyHeld (s : State) (cl slot : Nat) (f : Entry → Entry) : (updEntry s cl slot f).dirtyHeld = s.dirtyHeld := rfl
@[simp] theorem updEntry_evHeld (s : State) (cl slot : Nat) (f : Entry → Entry) : (updEntry s cl slot f).evHeld = s.evHeld := rfl
@[simp] theorem updEntry_fbatchh (s : State) (cl slot : Nat) (f : Entry → Entry) : (updEntry s cl slot f).fbatchh = s.fbatchh := rfl
@[simp] theorem updEntry_ctxtab (s : State) (cl slot : Nat) (f : Entry → Entry) : (updEntry s cl slot f).ctxtab = s.ctxtab := rfl
@[simp] theorem updEntry_trpause (s : State) (cl slot : Nat) (f : Entry → Entry) : (updEntry s cl slot f).trpause = s.trpause := rfl
@[simp] theorem updEntry_keys (s : State) (cl slot : Nat) (f : Entry → Entry) : (updEntry s cl slot f).keys = s.keys := rfl
@[simp] theorem updEntry_parts (s : State) (cl slot : Nat) (f : Entry → Entry) : (updEntry s cl slot f).parts = s.parts := rfl
@[simp] theorem updEntry_fab (s : State) (cl slot : Nat) (f : Entry → Entry) : (updEntry s cl slot f).fab = s.fab := rfl
@[simp] theorem updEntry_trc (s : State) (cl slot : Nat) (f : Entry → Entry) : (updEntry s cl slot f).trc = s.trc := rfl
@[simp] theorem updEntry_mgmt (s : State) (cl slot : Nat) (f : Entry → Entry) : (updEntry s cl slot f).mgmt = s.mgmt := rfl
@[simp] theorem updEntry_busy (s : State) (cl slot : Nat) (f : Entry → Entry) : (updEntry s cl slot f).busy = s.busy := rfl
@[simp] theorem updEntry_estall (s : State) (cl slot : Nat) (f : Entry → Entry) : (updEntry s cl slot f).estall = s.estall := rfl

/-! `setOwner` -/

@[simp] theorem setOwner_cur (s : State) (cl t o : Nat) : (setOwner s cl t o).cur = s.cur := rfl
@[simp] theorem setOwner_core (s : State) (cl t o : Nat) : (setOwner s cl t o).core = s.core := rfl
@[simp] theorem setOwner_others (s : State) (cl t o : Nat) : (setOwner s cl t o).others = s.others := rfl
@[simp] theorem setOwner_mem (s : State) (cl t o : Nat) : (setOwner s cl t o).mem = s.mem := rfl
@[simp] theorem setOwner_empties (s : State) (cl t o : Nat) : (setOwner s cl t o).empties = s.empties := rfl
@[simp] theorem setOwner_ltag (s : State) (cl t o : Nat) : (setOwner s cl t o).ltag = s.ltag := rfl
@[simp] theorem setOwner_ecc (s : State) (cl t o : Nat) : (setOwner s cl t o).ecc = s.ecc := rfl
@[simp] theorem setOwner_agenda (s : State) (cl t o : Nat) : (setOwner s cl t o).agenda = s.agenda := rfl
@[simp] theorem setOwner_cycle (s : State) (cl t o : Nat) : (setOwner s cl t o).cycle = s.cycle := rfl
@[simp] theorem setOwner_clock0 (s : State) (cl t o : Nat) : (setOwner s cl t o).clock0 = s.clock0 := rfl
@[simp] theorem setOwner_clock1 (s : State) (cl t o : Nat) : (setOwner s cl t o).clock1 = s.clock1 := rfl
@[simp] theorem setOwner_fresh (s : State) (cl t o : Nat) : (setOwner s cl t o).fresh = s.fresh := rfl
@[simp] theorem setOwner_ahead (s : State) (cl t o : Nat) : (setOwner s cl t o).ahead = s.ahead := rfl
@[simp] theorem setOwner_xcsrs (s : State) (cl t o : Nat) : (setOwner s cl t o).xcsrs = s.xcsrs := rfl
@[simp] theorem setOwner_ctxs (s : State) (cl t o : Nat) : (setOwner s cl t o).ctxs = s.ctxs := rfl
@[simp] theorem setOwner_tlb (s : State) (cl t o : Nat) : (setOwner s cl t o).tlb = s.tlb := rfl
@[simp] theorem setOwner_walks (s : State) (cl t o : Nat) : (setOwner s cl t o).walks = s.walks := rfl
@[simp] theorem setOwner_slices (s : State) (cl t o : Nat) : (setOwner s cl t o).slices = s.slices := rfl
@[simp] theorem setOwner_gangs (s : State) (cl t o : Nat) : (setOwner s cl t o).gangs = s.gangs := rfl
@[simp] theorem setOwner_grids (s : State) (cl t o : Nat) : (setOwner s cl t o).grids = s.grids := rfl
@[simp] theorem setOwner_nextId (s : State) (cl t o : Nat) : (setOwner s cl t o).nextId = s.nextId := rfl
@[simp] theorem setOwner_waits (s : State) (cl t o : Nat) : (setOwner s cl t o).waits = s.waits := rfl
@[simp] theorem setOwner_drops (s : State) (cl t o : Nat) : (setOwner s cl t o).drops = s.drops := rfl
@[simp] theorem setOwner_bqes (s : State) (cl t o : Nat) : (setOwner s cl t o).bqes = s.bqes := rfl
@[simp] theorem setOwner_feq (s : State) (cl t o : Nat) : (setOwner s cl t o).feq = s.feq := rfl
@[simp] theorem setOwner_bards (s : State) (cl t o : Nat) : (setOwner s cl t o).bards = s.bards := rfl
@[simp] theorem setOwner_xsts (s : State) (cl t o : Nat) : (setOwner s cl t o).xsts = s.xsts := rfl
@[simp] theorem setOwner_dirtyHeld (s : State) (cl t o : Nat) : (setOwner s cl t o).dirtyHeld = s.dirtyHeld := rfl
@[simp] theorem setOwner_evHeld (s : State) (cl t o : Nat) : (setOwner s cl t o).evHeld = s.evHeld := rfl
@[simp] theorem setOwner_fbatchh (s : State) (cl t o : Nat) : (setOwner s cl t o).fbatchh = s.fbatchh := rfl
@[simp] theorem setOwner_ctxtab (s : State) (cl t o : Nat) : (setOwner s cl t o).ctxtab = s.ctxtab := rfl
@[simp] theorem setOwner_trpause (s : State) (cl t o : Nat) : (setOwner s cl t o).trpause = s.trpause := rfl
@[simp] theorem setOwner_keys (s : State) (cl t o : Nat) : (setOwner s cl t o).keys = s.keys := rfl
@[simp] theorem setOwner_parts (s : State) (cl t o : Nat) : (setOwner s cl t o).parts = s.parts := rfl
@[simp] theorem setOwner_fab (s : State) (cl t o : Nat) : (setOwner s cl t o).fab = s.fab := rfl
@[simp] theorem setOwner_trc (s : State) (cl t o : Nat) : (setOwner s cl t o).trc = s.trc := rfl
@[simp] theorem setOwner_mgmt (s : State) (cl t o : Nat) : (setOwner s cl t o).mgmt = s.mgmt := rfl
@[simp] theorem setOwner_busy (s : State) (cl t o : Nat) : (setOwner s cl t o).busy = s.busy := rfl
@[simp] theorem setOwner_estall (s : State) (cl t o : Nat) : (setOwner s cl t o).estall = s.estall := rfl

/-! `setDesc` -/

@[simp] theorem setDesc_cur (s : State) (cl t : Nat) (d : Option TileArg) : (setDesc s cl t d).cur = s.cur := rfl
@[simp] theorem setDesc_core (s : State) (cl t : Nat) (d : Option TileArg) : (setDesc s cl t d).core = s.core := rfl
@[simp] theorem setDesc_others (s : State) (cl t : Nat) (d : Option TileArg) : (setDesc s cl t d).others = s.others := rfl
@[simp] theorem setDesc_mem (s : State) (cl t : Nat) (d : Option TileArg) : (setDesc s cl t d).mem = s.mem := rfl
@[simp] theorem setDesc_empties (s : State) (cl t : Nat) (d : Option TileArg) : (setDesc s cl t d).empties = s.empties := rfl
@[simp] theorem setDesc_ltag (s : State) (cl t : Nat) (d : Option TileArg) : (setDesc s cl t d).ltag = s.ltag := rfl
@[simp] theorem setDesc_ecc (s : State) (cl t : Nat) (d : Option TileArg) : (setDesc s cl t d).ecc = s.ecc := rfl
@[simp] theorem setDesc_agenda (s : State) (cl t : Nat) (d : Option TileArg) : (setDesc s cl t d).agenda = s.agenda := rfl
@[simp] theorem setDesc_cycle (s : State) (cl t : Nat) (d : Option TileArg) : (setDesc s cl t d).cycle = s.cycle := rfl
@[simp] theorem setDesc_clock0 (s : State) (cl t : Nat) (d : Option TileArg) : (setDesc s cl t d).clock0 = s.clock0 := rfl
@[simp] theorem setDesc_clock1 (s : State) (cl t : Nat) (d : Option TileArg) : (setDesc s cl t d).clock1 = s.clock1 := rfl
@[simp] theorem setDesc_fresh (s : State) (cl t : Nat) (d : Option TileArg) : (setDesc s cl t d).fresh = s.fresh := rfl
@[simp] theorem setDesc_ahead (s : State) (cl t : Nat) (d : Option TileArg) : (setDesc s cl t d).ahead = s.ahead := rfl
@[simp] theorem setDesc_xcsrs (s : State) (cl t : Nat) (d : Option TileArg) : (setDesc s cl t d).xcsrs = s.xcsrs := rfl
@[simp] theorem setDesc_ctxs (s : State) (cl t : Nat) (d : Option TileArg) : (setDesc s cl t d).ctxs = s.ctxs := rfl
@[simp] theorem setDesc_tlb (s : State) (cl t : Nat) (d : Option TileArg) : (setDesc s cl t d).tlb = s.tlb := rfl
@[simp] theorem setDesc_walks (s : State) (cl t : Nat) (d : Option TileArg) : (setDesc s cl t d).walks = s.walks := rfl
@[simp] theorem setDesc_slices (s : State) (cl t : Nat) (d : Option TileArg) : (setDesc s cl t d).slices = s.slices := rfl
@[simp] theorem setDesc_gangs (s : State) (cl t : Nat) (d : Option TileArg) : (setDesc s cl t d).gangs = s.gangs := rfl
@[simp] theorem setDesc_grids (s : State) (cl t : Nat) (d : Option TileArg) : (setDesc s cl t d).grids = s.grids := rfl
@[simp] theorem setDesc_nextId (s : State) (cl t : Nat) (d : Option TileArg) : (setDesc s cl t d).nextId = s.nextId := rfl
@[simp] theorem setDesc_waits (s : State) (cl t : Nat) (d : Option TileArg) : (setDesc s cl t d).waits = s.waits := rfl
@[simp] theorem setDesc_drops (s : State) (cl t : Nat) (d : Option TileArg) : (setDesc s cl t d).drops = s.drops := rfl
@[simp] theorem setDesc_bqes (s : State) (cl t : Nat) (d : Option TileArg) : (setDesc s cl t d).bqes = s.bqes := rfl
@[simp] theorem setDesc_feq (s : State) (cl t : Nat) (d : Option TileArg) : (setDesc s cl t d).feq = s.feq := rfl
@[simp] theorem setDesc_bards (s : State) (cl t : Nat) (d : Option TileArg) : (setDesc s cl t d).bards = s.bards := rfl
@[simp] theorem setDesc_xsts (s : State) (cl t : Nat) (d : Option TileArg) : (setDesc s cl t d).xsts = s.xsts := rfl
@[simp] theorem setDesc_dirtyHeld (s : State) (cl t : Nat) (d : Option TileArg) : (setDesc s cl t d).dirtyHeld = s.dirtyHeld := rfl
@[simp] theorem setDesc_evHeld (s : State) (cl t : Nat) (d : Option TileArg) : (setDesc s cl t d).evHeld = s.evHeld := rfl
@[simp] theorem setDesc_fbatchh (s : State) (cl t : Nat) (d : Option TileArg) : (setDesc s cl t d).fbatchh = s.fbatchh := rfl
@[simp] theorem setDesc_ctxtab (s : State) (cl t : Nat) (d : Option TileArg) : (setDesc s cl t d).ctxtab = s.ctxtab := rfl
@[simp] theorem setDesc_trpause (s : State) (cl t : Nat) (d : Option TileArg) : (setDesc s cl t d).trpause = s.trpause := rfl
@[simp] theorem setDesc_keys (s : State) (cl t : Nat) (d : Option TileArg) : (setDesc s cl t d).keys = s.keys := rfl
@[simp] theorem setDesc_parts (s : State) (cl t : Nat) (d : Option TileArg) : (setDesc s cl t d).parts = s.parts := rfl
@[simp] theorem setDesc_fab (s : State) (cl t : Nat) (d : Option TileArg) : (setDesc s cl t d).fab = s.fab := rfl
@[simp] theorem setDesc_trc (s : State) (cl t : Nat) (d : Option TileArg) : (setDesc s cl t d).trc = s.trc := rfl
@[simp] theorem setDesc_mgmt (s : State) (cl t : Nat) (d : Option TileArg) : (setDesc s cl t d).mgmt = s.mgmt := rfl
@[simp] theorem setDesc_busy (s : State) (cl t : Nat) (d : Option TileArg) : (setDesc s cl t d).busy = s.busy := rfl
@[simp] theorem setDesc_estall (s : State) (cl t : Nat) (d : Option TileArg) : (setDesc s cl t d).estall = s.estall := rfl

/-! `addWaiter` -/

@[simp] theorem addWaiter_cur (h : Word) (ref : Nat) (s : State) : (addWaiter h ref s).cur = s.cur := rfl
@[simp] theorem addWaiter_core (h : Word) (ref : Nat) (s : State) : (addWaiter h ref s).core = s.core := rfl
@[simp] theorem addWaiter_others (h : Word) (ref : Nat) (s : State) : (addWaiter h ref s).others = s.others := rfl
@[simp] theorem addWaiter_mem (h : Word) (ref : Nat) (s : State) : (addWaiter h ref s).mem = s.mem := rfl
@[simp] theorem addWaiter_empties (h : Word) (ref : Nat) (s : State) : (addWaiter h ref s).empties = s.empties := rfl
@[simp] theorem addWaiter_ltag (h : Word) (ref : Nat) (s : State) : (addWaiter h ref s).ltag = s.ltag := rfl
@[simp] theorem addWaiter_ecc (h : Word) (ref : Nat) (s : State) : (addWaiter h ref s).ecc = s.ecc := rfl
@[simp] theorem addWaiter_agenda (h : Word) (ref : Nat) (s : State) : (addWaiter h ref s).agenda = s.agenda := rfl
@[simp] theorem addWaiter_cycle (h : Word) (ref : Nat) (s : State) : (addWaiter h ref s).cycle = s.cycle := rfl
@[simp] theorem addWaiter_clock0 (h : Word) (ref : Nat) (s : State) : (addWaiter h ref s).clock0 = s.clock0 := rfl
@[simp] theorem addWaiter_clock1 (h : Word) (ref : Nat) (s : State) : (addWaiter h ref s).clock1 = s.clock1 := rfl
@[simp] theorem addWaiter_fresh (h : Word) (ref : Nat) (s : State) : (addWaiter h ref s).fresh = s.fresh := rfl
@[simp] theorem addWaiter_ahead (h : Word) (ref : Nat) (s : State) : (addWaiter h ref s).ahead = s.ahead := rfl
@[simp] theorem addWaiter_clusters (h : Word) (ref : Nat) (s : State) : (addWaiter h ref s).clusters = s.clusters := rfl
@[simp] theorem addWaiter_xcsrs (h : Word) (ref : Nat) (s : State) : (addWaiter h ref s).xcsrs = s.xcsrs := rfl
@[simp] theorem addWaiter_ctxs (h : Word) (ref : Nat) (s : State) : (addWaiter h ref s).ctxs = s.ctxs := rfl
@[simp] theorem addWaiter_tlb (h : Word) (ref : Nat) (s : State) : (addWaiter h ref s).tlb = s.tlb := rfl
@[simp] theorem addWaiter_walks (h : Word) (ref : Nat) (s : State) : (addWaiter h ref s).walks = s.walks := rfl
@[simp] theorem addWaiter_slices (h : Word) (ref : Nat) (s : State) : (addWaiter h ref s).slices = s.slices := rfl
@[simp] theorem addWaiter_gangs (h : Word) (ref : Nat) (s : State) : (addWaiter h ref s).gangs = s.gangs := rfl
@[simp] theorem addWaiter_grids (h : Word) (ref : Nat) (s : State) : (addWaiter h ref s).grids = s.grids := rfl
@[simp] theorem addWaiter_nextId (h : Word) (ref : Nat) (s : State) : (addWaiter h ref s).nextId = s.nextId := rfl
@[simp] theorem addWaiter_drops (h : Word) (ref : Nat) (s : State) : (addWaiter h ref s).drops = s.drops := rfl
@[simp] theorem addWaiter_bqes (h : Word) (ref : Nat) (s : State) : (addWaiter h ref s).bqes = s.bqes := rfl
@[simp] theorem addWaiter_feq (h : Word) (ref : Nat) (s : State) : (addWaiter h ref s).feq = s.feq := rfl
@[simp] theorem addWaiter_bards (h : Word) (ref : Nat) (s : State) : (addWaiter h ref s).bards = s.bards := rfl
@[simp] theorem addWaiter_xsts (h : Word) (ref : Nat) (s : State) : (addWaiter h ref s).xsts = s.xsts := rfl
@[simp] theorem addWaiter_dirtyHeld (h : Word) (ref : Nat) (s : State) : (addWaiter h ref s).dirtyHeld = s.dirtyHeld := rfl
@[simp] theorem addWaiter_evHeld (h : Word) (ref : Nat) (s : State) : (addWaiter h ref s).evHeld = s.evHeld := rfl
@[simp] theorem addWaiter_fbatchh (h : Word) (ref : Nat) (s : State) : (addWaiter h ref s).fbatchh = s.fbatchh := rfl
@[simp] theorem addWaiter_ctxtab (h : Word) (ref : Nat) (s : State) : (addWaiter h ref s).ctxtab = s.ctxtab := rfl
@[simp] theorem addWaiter_trpause (h : Word) (ref : Nat) (s : State) : (addWaiter h ref s).trpause = s.trpause := rfl
@[simp] theorem addWaiter_keys (h : Word) (ref : Nat) (s : State) : (addWaiter h ref s).keys = s.keys := rfl
@[simp] theorem addWaiter_parts (h : Word) (ref : Nat) (s : State) : (addWaiter h ref s).parts = s.parts := rfl
@[simp] theorem addWaiter_fab (h : Word) (ref : Nat) (s : State) : (addWaiter h ref s).fab = s.fab := rfl
@[simp] theorem addWaiter_trc (h : Word) (ref : Nat) (s : State) : (addWaiter h ref s).trc = s.trc := rfl
@[simp] theorem addWaiter_mgmt (h : Word) (ref : Nat) (s : State) : (addWaiter h ref s).mgmt = s.mgmt := rfl
@[simp] theorem addWaiter_busy (h : Word) (ref : Nat) (s : State) : (addWaiter h ref s).busy = s.busy := rfl
@[simp] theorem addWaiter_estall (h : Word) (ref : Nat) (s : State) : (addWaiter h ref s).estall = s.estall := rfl

/-! `modFab` -/

@[simp] theorem modFab_cur (s : State) (f : Fabric → Fabric) : (modFab s f).cur = s.cur := rfl
@[simp] theorem modFab_core (s : State) (f : Fabric → Fabric) : (modFab s f).core = s.core := rfl
@[simp] theorem modFab_others (s : State) (f : Fabric → Fabric) : (modFab s f).others = s.others := rfl
@[simp] theorem modFab_mem (s : State) (f : Fabric → Fabric) : (modFab s f).mem = s.mem := rfl
@[simp] theorem modFab_empties (s : State) (f : Fabric → Fabric) : (modFab s f).empties = s.empties := rfl
@[simp] theorem modFab_ltag (s : State) (f : Fabric → Fabric) : (modFab s f).ltag = s.ltag := rfl
@[simp] theorem modFab_ecc (s : State) (f : Fabric → Fabric) : (modFab s f).ecc = s.ecc := rfl
@[simp] theorem modFab_agenda (s : State) (f : Fabric → Fabric) : (modFab s f).agenda = s.agenda := rfl
@[simp] theorem modFab_cycle (s : State) (f : Fabric → Fabric) : (modFab s f).cycle = s.cycle := rfl
@[simp] theorem modFab_clock0 (s : State) (f : Fabric → Fabric) : (modFab s f).clock0 = s.clock0 := rfl
@[simp] theorem modFab_clock1 (s : State) (f : Fabric → Fabric) : (modFab s f).clock1 = s.clock1 := rfl
@[simp] theorem modFab_fresh (s : State) (f : Fabric → Fabric) : (modFab s f).fresh = s.fresh := rfl
@[simp] theorem modFab_ahead (s : State) (f : Fabric → Fabric) : (modFab s f).ahead = s.ahead := rfl
@[simp] theorem modFab_clusters (s : State) (f : Fabric → Fabric) : (modFab s f).clusters = s.clusters := rfl
@[simp] theorem modFab_xcsrs (s : State) (f : Fabric → Fabric) : (modFab s f).xcsrs = s.xcsrs := rfl
@[simp] theorem modFab_ctxs (s : State) (f : Fabric → Fabric) : (modFab s f).ctxs = s.ctxs := rfl
@[simp] theorem modFab_tlb (s : State) (f : Fabric → Fabric) : (modFab s f).tlb = s.tlb := rfl
@[simp] theorem modFab_walks (s : State) (f : Fabric → Fabric) : (modFab s f).walks = s.walks := rfl
@[simp] theorem modFab_slices (s : State) (f : Fabric → Fabric) : (modFab s f).slices = s.slices := rfl
@[simp] theorem modFab_gangs (s : State) (f : Fabric → Fabric) : (modFab s f).gangs = s.gangs := rfl
@[simp] theorem modFab_grids (s : State) (f : Fabric → Fabric) : (modFab s f).grids = s.grids := rfl
@[simp] theorem modFab_nextId (s : State) (f : Fabric → Fabric) : (modFab s f).nextId = s.nextId := rfl
@[simp] theorem modFab_waits (s : State) (f : Fabric → Fabric) : (modFab s f).waits = s.waits := rfl
@[simp] theorem modFab_drops (s : State) (f : Fabric → Fabric) : (modFab s f).drops = s.drops := rfl
@[simp] theorem modFab_bqes (s : State) (f : Fabric → Fabric) : (modFab s f).bqes = s.bqes := rfl
@[simp] theorem modFab_feq (s : State) (f : Fabric → Fabric) : (modFab s f).feq = s.feq := rfl
@[simp] theorem modFab_bards (s : State) (f : Fabric → Fabric) : (modFab s f).bards = s.bards := rfl
@[simp] theorem modFab_xsts (s : State) (f : Fabric → Fabric) : (modFab s f).xsts = s.xsts := rfl
@[simp] theorem modFab_dirtyHeld (s : State) (f : Fabric → Fabric) : (modFab s f).dirtyHeld = s.dirtyHeld := rfl
@[simp] theorem modFab_evHeld (s : State) (f : Fabric → Fabric) : (modFab s f).evHeld = s.evHeld := rfl
@[simp] theorem modFab_fbatchh (s : State) (f : Fabric → Fabric) : (modFab s f).fbatchh = s.fbatchh := rfl
@[simp] theorem modFab_ctxtab (s : State) (f : Fabric → Fabric) : (modFab s f).ctxtab = s.ctxtab := rfl
@[simp] theorem modFab_trpause (s : State) (f : Fabric → Fabric) : (modFab s f).trpause = s.trpause := rfl
@[simp] theorem modFab_keys (s : State) (f : Fabric → Fabric) : (modFab s f).keys = s.keys := rfl
@[simp] theorem modFab_parts (s : State) (f : Fabric → Fabric) : (modFab s f).parts = s.parts := rfl
@[simp] theorem modFab_trc (s : State) (f : Fabric → Fabric) : (modFab s f).trc = s.trc := rfl
@[simp] theorem modFab_mgmt (s : State) (f : Fabric → Fabric) : (modFab s f).mgmt = s.mgmt := rfl
@[simp] theorem modFab_busy (s : State) (f : Fabric → Fabric) : (modFab s f).busy = s.busy := rfl
@[simp] theorem modFab_estall (s : State) (f : Fabric → Fabric) : (modFab s f).estall = s.estall := rfl

/-! `updPort` -/

@[simp] theorem updPort_cur (s : State) (n : Nat) (f : Port → Port) : (updPort s n f).cur = s.cur := rfl
@[simp] theorem updPort_core (s : State) (n : Nat) (f : Port → Port) : (updPort s n f).core = s.core := rfl
@[simp] theorem updPort_others (s : State) (n : Nat) (f : Port → Port) : (updPort s n f).others = s.others := rfl
@[simp] theorem updPort_mem (s : State) (n : Nat) (f : Port → Port) : (updPort s n f).mem = s.mem := rfl
@[simp] theorem updPort_empties (s : State) (n : Nat) (f : Port → Port) : (updPort s n f).empties = s.empties := rfl
@[simp] theorem updPort_ltag (s : State) (n : Nat) (f : Port → Port) : (updPort s n f).ltag = s.ltag := rfl
@[simp] theorem updPort_ecc (s : State) (n : Nat) (f : Port → Port) : (updPort s n f).ecc = s.ecc := rfl
@[simp] theorem updPort_agenda (s : State) (n : Nat) (f : Port → Port) : (updPort s n f).agenda = s.agenda := rfl
@[simp] theorem updPort_cycle (s : State) (n : Nat) (f : Port → Port) : (updPort s n f).cycle = s.cycle := rfl
@[simp] theorem updPort_clock0 (s : State) (n : Nat) (f : Port → Port) : (updPort s n f).clock0 = s.clock0 := rfl
@[simp] theorem updPort_clock1 (s : State) (n : Nat) (f : Port → Port) : (updPort s n f).clock1 = s.clock1 := rfl
@[simp] theorem updPort_fresh (s : State) (n : Nat) (f : Port → Port) : (updPort s n f).fresh = s.fresh := rfl
@[simp] theorem updPort_ahead (s : State) (n : Nat) (f : Port → Port) : (updPort s n f).ahead = s.ahead := rfl
@[simp] theorem updPort_clusters (s : State) (n : Nat) (f : Port → Port) : (updPort s n f).clusters = s.clusters := rfl
@[simp] theorem updPort_xcsrs (s : State) (n : Nat) (f : Port → Port) : (updPort s n f).xcsrs = s.xcsrs := rfl
@[simp] theorem updPort_ctxs (s : State) (n : Nat) (f : Port → Port) : (updPort s n f).ctxs = s.ctxs := rfl
@[simp] theorem updPort_tlb (s : State) (n : Nat) (f : Port → Port) : (updPort s n f).tlb = s.tlb := rfl
@[simp] theorem updPort_walks (s : State) (n : Nat) (f : Port → Port) : (updPort s n f).walks = s.walks := rfl
@[simp] theorem updPort_slices (s : State) (n : Nat) (f : Port → Port) : (updPort s n f).slices = s.slices := rfl
@[simp] theorem updPort_gangs (s : State) (n : Nat) (f : Port → Port) : (updPort s n f).gangs = s.gangs := rfl
@[simp] theorem updPort_grids (s : State) (n : Nat) (f : Port → Port) : (updPort s n f).grids = s.grids := rfl
@[simp] theorem updPort_nextId (s : State) (n : Nat) (f : Port → Port) : (updPort s n f).nextId = s.nextId := rfl
@[simp] theorem updPort_waits (s : State) (n : Nat) (f : Port → Port) : (updPort s n f).waits = s.waits := rfl
@[simp] theorem updPort_drops (s : State) (n : Nat) (f : Port → Port) : (updPort s n f).drops = s.drops := rfl
@[simp] theorem updPort_bqes (s : State) (n : Nat) (f : Port → Port) : (updPort s n f).bqes = s.bqes := rfl
@[simp] theorem updPort_feq (s : State) (n : Nat) (f : Port → Port) : (updPort s n f).feq = s.feq := rfl
@[simp] theorem updPort_bards (s : State) (n : Nat) (f : Port → Port) : (updPort s n f).bards = s.bards := rfl
@[simp] theorem updPort_xsts (s : State) (n : Nat) (f : Port → Port) : (updPort s n f).xsts = s.xsts := rfl
@[simp] theorem updPort_dirtyHeld (s : State) (n : Nat) (f : Port → Port) : (updPort s n f).dirtyHeld = s.dirtyHeld := rfl
@[simp] theorem updPort_evHeld (s : State) (n : Nat) (f : Port → Port) : (updPort s n f).evHeld = s.evHeld := rfl
@[simp] theorem updPort_fbatchh (s : State) (n : Nat) (f : Port → Port) : (updPort s n f).fbatchh = s.fbatchh := rfl
@[simp] theorem updPort_ctxtab (s : State) (n : Nat) (f : Port → Port) : (updPort s n f).ctxtab = s.ctxtab := rfl
@[simp] theorem updPort_trpause (s : State) (n : Nat) (f : Port → Port) : (updPort s n f).trpause = s.trpause := rfl
@[simp] theorem updPort_keys (s : State) (n : Nat) (f : Port → Port) : (updPort s n f).keys = s.keys := rfl
@[simp] theorem updPort_parts (s : State) (n : Nat) (f : Port → Port) : (updPort s n f).parts = s.parts := rfl
@[simp] theorem updPort_trc (s : State) (n : Nat) (f : Port → Port) : (updPort s n f).trc = s.trc := rfl
@[simp] theorem updPort_mgmt (s : State) (n : Nat) (f : Port → Port) : (updPort s n f).mgmt = s.mgmt := rfl
@[simp] theorem updPort_busy (s : State) (n : Nat) (f : Port → Port) : (updPort s n f).busy = s.busy := rfl
@[simp] theorem updPort_estall (s : State) (n : Nat) (f : Port → Port) : (updPort s n f).estall = s.estall := rfl

/-! `post` -/

@[simp] theorem post_cur (s : State) (p : Packet) : (post s p).cur = s.cur := rfl
@[simp] theorem post_core (s : State) (p : Packet) : (post s p).core = s.core := rfl
@[simp] theorem post_others (s : State) (p : Packet) : (post s p).others = s.others := rfl
@[simp] theorem post_mem (s : State) (p : Packet) : (post s p).mem = s.mem := rfl
@[simp] theorem post_empties (s : State) (p : Packet) : (post s p).empties = s.empties := rfl
@[simp] theorem post_ltag (s : State) (p : Packet) : (post s p).ltag = s.ltag := rfl
@[simp] theorem post_ecc (s : State) (p : Packet) : (post s p).ecc = s.ecc := rfl
@[simp] theorem post_agenda (s : State) (p : Packet) : (post s p).agenda = s.agenda := rfl
@[simp] theorem post_cycle (s : State) (p : Packet) : (post s p).cycle = s.cycle := rfl
@[simp] theorem post_clock0 (s : State) (p : Packet) : (post s p).clock0 = s.clock0 := rfl
@[simp] theorem post_clock1 (s : State) (p : Packet) : (post s p).clock1 = s.clock1 := rfl
@[simp] theorem post_fresh (s : State) (p : Packet) : (post s p).fresh = s.fresh := rfl
@[simp] theorem post_ahead (s : State) (p : Packet) : (post s p).ahead = s.ahead := rfl
@[simp] theorem post_clusters (s : State) (p : Packet) : (post s p).clusters = s.clusters := rfl
@[simp] theorem post_xcsrs (s : State) (p : Packet) : (post s p).xcsrs = s.xcsrs := rfl
@[simp] theorem post_ctxs (s : State) (p : Packet) : (post s p).ctxs = s.ctxs := rfl
@[simp] theorem post_tlb (s : State) (p : Packet) : (post s p).tlb = s.tlb := rfl
@[simp] theorem post_walks (s : State) (p : Packet) : (post s p).walks = s.walks := rfl
@[simp] theorem post_slices (s : State) (p : Packet) : (post s p).slices = s.slices := rfl
@[simp] theorem post_gangs (s : State) (p : Packet) : (post s p).gangs = s.gangs := rfl
@[simp] theorem post_grids (s : State) (p : Packet) : (post s p).grids = s.grids := rfl
@[simp] theorem post_nextId (s : State) (p : Packet) : (post s p).nextId = s.nextId := rfl
@[simp] theorem post_waits (s : State) (p : Packet) : (post s p).waits = s.waits := rfl
@[simp] theorem post_drops (s : State) (p : Packet) : (post s p).drops = s.drops := rfl
@[simp] theorem post_bqes (s : State) (p : Packet) : (post s p).bqes = s.bqes := rfl
@[simp] theorem post_feq (s : State) (p : Packet) : (post s p).feq = s.feq := rfl
@[simp] theorem post_bards (s : State) (p : Packet) : (post s p).bards = s.bards := rfl
@[simp] theorem post_xsts (s : State) (p : Packet) : (post s p).xsts = s.xsts := rfl
@[simp] theorem post_dirtyHeld (s : State) (p : Packet) : (post s p).dirtyHeld = s.dirtyHeld := rfl
@[simp] theorem post_evHeld (s : State) (p : Packet) : (post s p).evHeld = s.evHeld := rfl
@[simp] theorem post_fbatchh (s : State) (p : Packet) : (post s p).fbatchh = s.fbatchh := rfl
@[simp] theorem post_ctxtab (s : State) (p : Packet) : (post s p).ctxtab = s.ctxtab := rfl
@[simp] theorem post_trpause (s : State) (p : Packet) : (post s p).trpause = s.trpause := rfl
@[simp] theorem post_keys (s : State) (p : Packet) : (post s p).keys = s.keys := rfl
@[simp] theorem post_parts (s : State) (p : Packet) : (post s p).parts = s.parts := rfl
@[simp] theorem post_trc (s : State) (p : Packet) : (post s p).trc = s.trc := rfl
@[simp] theorem post_mgmt (s : State) (p : Packet) : (post s p).mgmt = s.mgmt := rfl
@[simp] theorem post_busy (s : State) (p : Packet) : (post s p).busy = s.busy := rfl
@[simp] theorem post_estall (s : State) (p : Packet) : (post s p).estall = s.estall := rfl

/-! `modMgmt` -/

@[simp] theorem modMgmt_cur (s : State) (f : Mgmt → Mgmt) : (modMgmt s f).cur = s.cur := rfl
@[simp] theorem modMgmt_core (s : State) (f : Mgmt → Mgmt) : (modMgmt s f).core = s.core := rfl
@[simp] theorem modMgmt_others (s : State) (f : Mgmt → Mgmt) : (modMgmt s f).others = s.others := rfl
@[simp] theorem modMgmt_mem (s : State) (f : Mgmt → Mgmt) : (modMgmt s f).mem = s.mem := rfl
@[simp] theorem modMgmt_empties (s : State) (f : Mgmt → Mgmt) : (modMgmt s f).empties = s.empties := rfl
@[simp] theorem modMgmt_ltag (s : State) (f : Mgmt → Mgmt) : (modMgmt s f).ltag = s.ltag := rfl
@[simp] theorem modMgmt_ecc (s : State) (f : Mgmt → Mgmt) : (modMgmt s f).ecc = s.ecc := rfl
@[simp] theorem modMgmt_agenda (s : State) (f : Mgmt → Mgmt) : (modMgmt s f).agenda = s.agenda := rfl
@[simp] theorem modMgmt_cycle (s : State) (f : Mgmt → Mgmt) : (modMgmt s f).cycle = s.cycle := rfl
@[simp] theorem modMgmt_clock0 (s : State) (f : Mgmt → Mgmt) : (modMgmt s f).clock0 = s.clock0 := rfl
@[simp] theorem modMgmt_clock1 (s : State) (f : Mgmt → Mgmt) : (modMgmt s f).clock1 = s.clock1 := rfl
@[simp] theorem modMgmt_fresh (s : State) (f : Mgmt → Mgmt) : (modMgmt s f).fresh = s.fresh := rfl
@[simp] theorem modMgmt_ahead (s : State) (f : Mgmt → Mgmt) : (modMgmt s f).ahead = s.ahead := rfl
@[simp] theorem modMgmt_clusters (s : State) (f : Mgmt → Mgmt) : (modMgmt s f).clusters = s.clusters := rfl
@[simp] theorem modMgmt_xcsrs (s : State) (f : Mgmt → Mgmt) : (modMgmt s f).xcsrs = s.xcsrs := rfl
@[simp] theorem modMgmt_ctxs (s : State) (f : Mgmt → Mgmt) : (modMgmt s f).ctxs = s.ctxs := rfl
@[simp] theorem modMgmt_tlb (s : State) (f : Mgmt → Mgmt) : (modMgmt s f).tlb = s.tlb := rfl
@[simp] theorem modMgmt_walks (s : State) (f : Mgmt → Mgmt) : (modMgmt s f).walks = s.walks := rfl
@[simp] theorem modMgmt_slices (s : State) (f : Mgmt → Mgmt) : (modMgmt s f).slices = s.slices := rfl
@[simp] theorem modMgmt_gangs (s : State) (f : Mgmt → Mgmt) : (modMgmt s f).gangs = s.gangs := rfl
@[simp] theorem modMgmt_grids (s : State) (f : Mgmt → Mgmt) : (modMgmt s f).grids = s.grids := rfl
@[simp] theorem modMgmt_nextId (s : State) (f : Mgmt → Mgmt) : (modMgmt s f).nextId = s.nextId := rfl
@[simp] theorem modMgmt_waits (s : State) (f : Mgmt → Mgmt) : (modMgmt s f).waits = s.waits := rfl
@[simp] theorem modMgmt_drops (s : State) (f : Mgmt → Mgmt) : (modMgmt s f).drops = s.drops := rfl
@[simp] theorem modMgmt_bqes (s : State) (f : Mgmt → Mgmt) : (modMgmt s f).bqes = s.bqes := rfl
@[simp] theorem modMgmt_feq (s : State) (f : Mgmt → Mgmt) : (modMgmt s f).feq = s.feq := rfl
@[simp] theorem modMgmt_bards (s : State) (f : Mgmt → Mgmt) : (modMgmt s f).bards = s.bards := rfl
@[simp] theorem modMgmt_xsts (s : State) (f : Mgmt → Mgmt) : (modMgmt s f).xsts = s.xsts := rfl
@[simp] theorem modMgmt_dirtyHeld (s : State) (f : Mgmt → Mgmt) : (modMgmt s f).dirtyHeld = s.dirtyHeld := rfl
@[simp] theorem modMgmt_evHeld (s : State) (f : Mgmt → Mgmt) : (modMgmt s f).evHeld = s.evHeld := rfl
@[simp] theorem modMgmt_fbatchh (s : State) (f : Mgmt → Mgmt) : (modMgmt s f).fbatchh = s.fbatchh := rfl
@[simp] theorem modMgmt_ctxtab (s : State) (f : Mgmt → Mgmt) : (modMgmt s f).ctxtab = s.ctxtab := rfl
@[simp] theorem modMgmt_trpause (s : State) (f : Mgmt → Mgmt) : (modMgmt s f).trpause = s.trpause := rfl
@[simp] theorem modMgmt_keys (s : State) (f : Mgmt → Mgmt) : (modMgmt s f).keys = s.keys := rfl
@[simp] theorem modMgmt_parts (s : State) (f : Mgmt → Mgmt) : (modMgmt s f).parts = s.parts := rfl
@[simp] theorem modMgmt_fab (s : State) (f : Mgmt → Mgmt) : (modMgmt s f).fab = s.fab := rfl
@[simp] theorem modMgmt_trc (s : State) (f : Mgmt → Mgmt) : (modMgmt s f).trc = s.trc := rfl
@[simp] theorem modMgmt_busy (s : State) (f : Mgmt → Mgmt) : (modMgmt s f).busy = s.busy := rfl
@[simp] theorem modMgmt_estall (s : State) (f : Mgmt → Mgmt) : (modMgmt s f).estall = s.estall := rfl

/-! `updMonitor` -/

@[simp] theorem updMonitor_cur (s : State) (n : Nat) (f : Monitor → Monitor) : (updMonitor s n f).cur = s.cur := rfl
@[simp] theorem updMonitor_core (s : State) (n : Nat) (f : Monitor → Monitor) : (updMonitor s n f).core = s.core := rfl
@[simp] theorem updMonitor_others (s : State) (n : Nat) (f : Monitor → Monitor) : (updMonitor s n f).others = s.others := rfl
@[simp] theorem updMonitor_mem (s : State) (n : Nat) (f : Monitor → Monitor) : (updMonitor s n f).mem = s.mem := rfl
@[simp] theorem updMonitor_empties (s : State) (n : Nat) (f : Monitor → Monitor) : (updMonitor s n f).empties = s.empties := rfl
@[simp] theorem updMonitor_ltag (s : State) (n : Nat) (f : Monitor → Monitor) : (updMonitor s n f).ltag = s.ltag := rfl
@[simp] theorem updMonitor_ecc (s : State) (n : Nat) (f : Monitor → Monitor) : (updMonitor s n f).ecc = s.ecc := rfl
@[simp] theorem updMonitor_agenda (s : State) (n : Nat) (f : Monitor → Monitor) : (updMonitor s n f).agenda = s.agenda := rfl
@[simp] theorem updMonitor_cycle (s : State) (n : Nat) (f : Monitor → Monitor) : (updMonitor s n f).cycle = s.cycle := rfl
@[simp] theorem updMonitor_clock0 (s : State) (n : Nat) (f : Monitor → Monitor) : (updMonitor s n f).clock0 = s.clock0 := rfl
@[simp] theorem updMonitor_clock1 (s : State) (n : Nat) (f : Monitor → Monitor) : (updMonitor s n f).clock1 = s.clock1 := rfl
@[simp] theorem updMonitor_fresh (s : State) (n : Nat) (f : Monitor → Monitor) : (updMonitor s n f).fresh = s.fresh := rfl
@[simp] theorem updMonitor_ahead (s : State) (n : Nat) (f : Monitor → Monitor) : (updMonitor s n f).ahead = s.ahead := rfl
@[simp] theorem updMonitor_clusters (s : State) (n : Nat) (f : Monitor → Monitor) : (updMonitor s n f).clusters = s.clusters := rfl
@[simp] theorem updMonitor_xcsrs (s : State) (n : Nat) (f : Monitor → Monitor) : (updMonitor s n f).xcsrs = s.xcsrs := rfl
@[simp] theorem updMonitor_ctxs (s : State) (n : Nat) (f : Monitor → Monitor) : (updMonitor s n f).ctxs = s.ctxs := rfl
@[simp] theorem updMonitor_tlb (s : State) (n : Nat) (f : Monitor → Monitor) : (updMonitor s n f).tlb = s.tlb := rfl
@[simp] theorem updMonitor_walks (s : State) (n : Nat) (f : Monitor → Monitor) : (updMonitor s n f).walks = s.walks := rfl
@[simp] theorem updMonitor_slices (s : State) (n : Nat) (f : Monitor → Monitor) : (updMonitor s n f).slices = s.slices := rfl
@[simp] theorem updMonitor_gangs (s : State) (n : Nat) (f : Monitor → Monitor) : (updMonitor s n f).gangs = s.gangs := rfl
@[simp] theorem updMonitor_grids (s : State) (n : Nat) (f : Monitor → Monitor) : (updMonitor s n f).grids = s.grids := rfl
@[simp] theorem updMonitor_nextId (s : State) (n : Nat) (f : Monitor → Monitor) : (updMonitor s n f).nextId = s.nextId := rfl
@[simp] theorem updMonitor_waits (s : State) (n : Nat) (f : Monitor → Monitor) : (updMonitor s n f).waits = s.waits := rfl
@[simp] theorem updMonitor_drops (s : State) (n : Nat) (f : Monitor → Monitor) : (updMonitor s n f).drops = s.drops := rfl
@[simp] theorem updMonitor_bqes (s : State) (n : Nat) (f : Monitor → Monitor) : (updMonitor s n f).bqes = s.bqes := rfl
@[simp] theorem updMonitor_feq (s : State) (n : Nat) (f : Monitor → Monitor) : (updMonitor s n f).feq = s.feq := rfl
@[simp] theorem updMonitor_bards (s : State) (n : Nat) (f : Monitor → Monitor) : (updMonitor s n f).bards = s.bards := rfl
@[simp] theorem updMonitor_xsts (s : State) (n : Nat) (f : Monitor → Monitor) : (updMonitor s n f).xsts = s.xsts := rfl
@[simp] theorem updMonitor_dirtyHeld (s : State) (n : Nat) (f : Monitor → Monitor) : (updMonitor s n f).dirtyHeld = s.dirtyHeld := rfl
@[simp] theorem updMonitor_evHeld (s : State) (n : Nat) (f : Monitor → Monitor) : (updMonitor s n f).evHeld = s.evHeld := rfl
@[simp] theorem updMonitor_fbatchh (s : State) (n : Nat) (f : Monitor → Monitor) : (updMonitor s n f).fbatchh = s.fbatchh := rfl
@[simp] theorem updMonitor_ctxtab (s : State) (n : Nat) (f : Monitor → Monitor) : (updMonitor s n f).ctxtab = s.ctxtab := rfl
@[simp] theorem updMonitor_trpause (s : State) (n : Nat) (f : Monitor → Monitor) : (updMonitor s n f).trpause = s.trpause := rfl
@[simp] theorem updMonitor_keys (s : State) (n : Nat) (f : Monitor → Monitor) : (updMonitor s n f).keys = s.keys := rfl
@[simp] theorem updMonitor_parts (s : State) (n : Nat) (f : Monitor → Monitor) : (updMonitor s n f).parts = s.parts := rfl
@[simp] theorem updMonitor_fab (s : State) (n : Nat) (f : Monitor → Monitor) : (updMonitor s n f).fab = s.fab := rfl
@[simp] theorem updMonitor_trc (s : State) (n : Nat) (f : Monitor → Monitor) : (updMonitor s n f).trc = s.trc := rfl
@[simp] theorem updMonitor_busy (s : State) (n : Nat) (f : Monitor → Monitor) : (updMonitor s n f).busy = s.busy := rfl
@[simp] theorem updMonitor_estall (s : State) (n : Nat) (f : Monitor → Monitor) : (updMonitor s n f).estall = s.estall := rfl

/-! `noteAll` -/

@[simp] theorem noteAll_cur (s : State) (w : Option Nat) (kv a : Nat) (bs : List Byte) : (noteAll s w kv a bs).cur = s.cur := rfl
@[simp] theorem noteAll_mem (s : State) (w : Option Nat) (kv a : Nat) (bs : List Byte) : (noteAll s w kv a bs).mem = s.mem := rfl
@[simp] theorem noteAll_empties (s : State) (w : Option Nat) (kv a : Nat) (bs : List Byte) : (noteAll s w kv a bs).empties = s.empties := rfl
@[simp] theorem noteAll_ltag (s : State) (w : Option Nat) (kv a : Nat) (bs : List Byte) : (noteAll s w kv a bs).ltag = s.ltag := rfl
@[simp] theorem noteAll_ecc (s : State) (w : Option Nat) (kv a : Nat) (bs : List Byte) : (noteAll s w kv a bs).ecc = s.ecc := rfl
@[simp] theorem noteAll_agenda (s : State) (w : Option Nat) (kv a : Nat) (bs : List Byte) : (noteAll s w kv a bs).agenda = s.agenda := rfl
@[simp] theorem noteAll_cycle (s : State) (w : Option Nat) (kv a : Nat) (bs : List Byte) : (noteAll s w kv a bs).cycle = s.cycle := rfl
@[simp] theorem noteAll_clock0 (s : State) (w : Option Nat) (kv a : Nat) (bs : List Byte) : (noteAll s w kv a bs).clock0 = s.clock0 := rfl
@[simp] theorem noteAll_clock1 (s : State) (w : Option Nat) (kv a : Nat) (bs : List Byte) : (noteAll s w kv a bs).clock1 = s.clock1 := rfl
@[simp] theorem noteAll_fresh (s : State) (w : Option Nat) (kv a : Nat) (bs : List Byte) : (noteAll s w kv a bs).fresh = s.fresh := rfl
@[simp] theorem noteAll_ahead (s : State) (w : Option Nat) (kv a : Nat) (bs : List Byte) : (noteAll s w kv a bs).ahead = s.ahead := rfl
@[simp] theorem noteAll_clusters (s : State) (w : Option Nat) (kv a : Nat) (bs : List Byte) : (noteAll s w kv a bs).clusters = s.clusters := rfl
@[simp] theorem noteAll_xcsrs (s : State) (w : Option Nat) (kv a : Nat) (bs : List Byte) : (noteAll s w kv a bs).xcsrs = s.xcsrs := rfl
@[simp] theorem noteAll_ctxs (s : State) (w : Option Nat) (kv a : Nat) (bs : List Byte) : (noteAll s w kv a bs).ctxs = s.ctxs := rfl
@[simp] theorem noteAll_tlb (s : State) (w : Option Nat) (kv a : Nat) (bs : List Byte) : (noteAll s w kv a bs).tlb = s.tlb := rfl
@[simp] theorem noteAll_walks (s : State) (w : Option Nat) (kv a : Nat) (bs : List Byte) : (noteAll s w kv a bs).walks = s.walks := rfl
@[simp] theorem noteAll_slices (s : State) (w : Option Nat) (kv a : Nat) (bs : List Byte) : (noteAll s w kv a bs).slices = s.slices := rfl
@[simp] theorem noteAll_gangs (s : State) (w : Option Nat) (kv a : Nat) (bs : List Byte) : (noteAll s w kv a bs).gangs = s.gangs := rfl
@[simp] theorem noteAll_grids (s : State) (w : Option Nat) (kv a : Nat) (bs : List Byte) : (noteAll s w kv a bs).grids = s.grids := rfl
@[simp] theorem noteAll_nextId (s : State) (w : Option Nat) (kv a : Nat) (bs : List Byte) : (noteAll s w kv a bs).nextId = s.nextId := rfl
@[simp] theorem noteAll_waits (s : State) (w : Option Nat) (kv a : Nat) (bs : List Byte) : (noteAll s w kv a bs).waits = s.waits := rfl
@[simp] theorem noteAll_drops (s : State) (w : Option Nat) (kv a : Nat) (bs : List Byte) : (noteAll s w kv a bs).drops = s.drops := rfl
@[simp] theorem noteAll_bqes (s : State) (w : Option Nat) (kv a : Nat) (bs : List Byte) : (noteAll s w kv a bs).bqes = s.bqes := rfl
@[simp] theorem noteAll_feq (s : State) (w : Option Nat) (kv a : Nat) (bs : List Byte) : (noteAll s w kv a bs).feq = s.feq := rfl
@[simp] theorem noteAll_bards (s : State) (w : Option Nat) (kv a : Nat) (bs : List Byte) : (noteAll s w kv a bs).bards = s.bards := rfl
@[simp] theorem noteAll_xsts (s : State) (w : Option Nat) (kv a : Nat) (bs : List Byte) : (noteAll s w kv a bs).xsts = s.xsts := rfl
@[simp] theorem noteAll_dirtyHeld (s : State) (w : Option Nat) (kv a : Nat) (bs : List Byte) : (noteAll s w kv a bs).dirtyHeld = s.dirtyHeld := rfl
@[simp] theorem noteAll_evHeld (s : State) (w : Option Nat) (kv a : Nat) (bs : List Byte) : (noteAll s w kv a bs).evHeld = s.evHeld := rfl
@[simp] theorem noteAll_fbatchh (s : State) (w : Option Nat) (kv a : Nat) (bs : List Byte) : (noteAll s w kv a bs).fbatchh = s.fbatchh := rfl
@[simp] theorem noteAll_ctxtab (s : State) (w : Option Nat) (kv a : Nat) (bs : List Byte) : (noteAll s w kv a bs).ctxtab = s.ctxtab := rfl
@[simp] theorem noteAll_trpause (s : State) (w : Option Nat) (kv a : Nat) (bs : List Byte) : (noteAll s w kv a bs).trpause = s.trpause := rfl
@[simp] theorem noteAll_keys (s : State) (w : Option Nat) (kv a : Nat) (bs : List Byte) : (noteAll s w kv a bs).keys = s.keys := rfl
@[simp] theorem noteAll_parts (s : State) (w : Option Nat) (kv a : Nat) (bs : List Byte) : (noteAll s w kv a bs).parts = s.parts := rfl
@[simp] theorem noteAll_fab (s : State) (w : Option Nat) (kv a : Nat) (bs : List Byte) : (noteAll s w kv a bs).fab = s.fab := rfl
@[simp] theorem noteAll_trc (s : State) (w : Option Nat) (kv a : Nat) (bs : List Byte) : (noteAll s w kv a bs).trc = s.trc := rfl
@[simp] theorem noteAll_mgmt (s : State) (w : Option Nat) (kv a : Nat) (bs : List Byte) : (noteAll s w kv a bs).mgmt = s.mgmt := rfl
@[simp] theorem noteAll_busy (s : State) (w : Option Nat) (kv a : Nat) (bs : List Byte) : (noteAll s w kv a bs).busy = s.busy := rfl
@[simp] theorem noteAll_estall (s : State) (w : Option Nat) (kv a : Nat) (bs : List Byte) : (noteAll s w kv a bs).estall = s.estall := rfl

/-! `setFull` -/

@[simp] theorem setFull_cur (s : State) (a : Nat) (b : Bool) : (setFull s a b).cur = s.cur := rfl
@[simp] theorem setFull_core (s : State) (a : Nat) (b : Bool) : (setFull s a b).core = s.core := rfl
@[simp] theorem setFull_others (s : State) (a : Nat) (b : Bool) : (setFull s a b).others = s.others := rfl
@[simp] theorem setFull_mem (s : State) (a : Nat) (b : Bool) : (setFull s a b).mem = s.mem := rfl
@[simp] theorem setFull_ltag (s : State) (a : Nat) (b : Bool) : (setFull s a b).ltag = s.ltag := rfl
@[simp] theorem setFull_ecc (s : State) (a : Nat) (b : Bool) : (setFull s a b).ecc = s.ecc := rfl
@[simp] theorem setFull_agenda (s : State) (a : Nat) (b : Bool) : (setFull s a b).agenda = s.agenda := rfl
@[simp] theorem setFull_cycle (s : State) (a : Nat) (b : Bool) : (setFull s a b).cycle = s.cycle := rfl
@[simp] theorem setFull_clock0 (s : State) (a : Nat) (b : Bool) : (setFull s a b).clock0 = s.clock0 := rfl
@[simp] theorem setFull_clock1 (s : State) (a : Nat) (b : Bool) : (setFull s a b).clock1 = s.clock1 := rfl
@[simp] theorem setFull_fresh (s : State) (a : Nat) (b : Bool) : (setFull s a b).fresh = s.fresh := rfl
@[simp] theorem setFull_ahead (s : State) (a : Nat) (b : Bool) : (setFull s a b).ahead = s.ahead := rfl
@[simp] theorem setFull_clusters (s : State) (a : Nat) (b : Bool) : (setFull s a b).clusters = s.clusters := rfl
@[simp] theorem setFull_xcsrs (s : State) (a : Nat) (b : Bool) : (setFull s a b).xcsrs = s.xcsrs := rfl
@[simp] theorem setFull_ctxs (s : State) (a : Nat) (b : Bool) : (setFull s a b).ctxs = s.ctxs := rfl
@[simp] theorem setFull_tlb (s : State) (a : Nat) (b : Bool) : (setFull s a b).tlb = s.tlb := rfl
@[simp] theorem setFull_walks (s : State) (a : Nat) (b : Bool) : (setFull s a b).walks = s.walks := rfl
@[simp] theorem setFull_slices (s : State) (a : Nat) (b : Bool) : (setFull s a b).slices = s.slices := rfl
@[simp] theorem setFull_gangs (s : State) (a : Nat) (b : Bool) : (setFull s a b).gangs = s.gangs := rfl
@[simp] theorem setFull_grids (s : State) (a : Nat) (b : Bool) : (setFull s a b).grids = s.grids := rfl
@[simp] theorem setFull_nextId (s : State) (a : Nat) (b : Bool) : (setFull s a b).nextId = s.nextId := rfl
@[simp] theorem setFull_waits (s : State) (a : Nat) (b : Bool) : (setFull s a b).waits = s.waits := rfl
@[simp] theorem setFull_drops (s : State) (a : Nat) (b : Bool) : (setFull s a b).drops = s.drops := rfl
@[simp] theorem setFull_bqes (s : State) (a : Nat) (b : Bool) : (setFull s a b).bqes = s.bqes := rfl
@[simp] theorem setFull_feq (s : State) (a : Nat) (b : Bool) : (setFull s a b).feq = s.feq := rfl
@[simp] theorem setFull_bards (s : State) (a : Nat) (b : Bool) : (setFull s a b).bards = s.bards := rfl
@[simp] theorem setFull_xsts (s : State) (a : Nat) (b : Bool) : (setFull s a b).xsts = s.xsts := rfl
@[simp] theorem setFull_dirtyHeld (s : State) (a : Nat) (b : Bool) : (setFull s a b).dirtyHeld = s.dirtyHeld := rfl
@[simp] theorem setFull_evHeld (s : State) (a : Nat) (b : Bool) : (setFull s a b).evHeld = s.evHeld := rfl
@[simp] theorem setFull_fbatchh (s : State) (a : Nat) (b : Bool) : (setFull s a b).fbatchh = s.fbatchh := rfl
@[simp] theorem setFull_ctxtab (s : State) (a : Nat) (b : Bool) : (setFull s a b).ctxtab = s.ctxtab := rfl
@[simp] theorem setFull_trpause (s : State) (a : Nat) (b : Bool) : (setFull s a b).trpause = s.trpause := rfl
@[simp] theorem setFull_keys (s : State) (a : Nat) (b : Bool) : (setFull s a b).keys = s.keys := rfl
@[simp] theorem setFull_parts (s : State) (a : Nat) (b : Bool) : (setFull s a b).parts = s.parts := rfl
@[simp] theorem setFull_fab (s : State) (a : Nat) (b : Bool) : (setFull s a b).fab = s.fab := rfl
@[simp] theorem setFull_trc (s : State) (a : Nat) (b : Bool) : (setFull s a b).trc = s.trc := rfl
@[simp] theorem setFull_mgmt (s : State) (a : Nat) (b : Bool) : (setFull s a b).mgmt = s.mgmt := rfl
@[simp] theorem setFull_busy (s : State) (a : Nat) (b : Bool) : (setFull s a b).busy = s.busy := rfl
@[simp] theorem setFull_estall (s : State) (a : Nat) (b : Bool) : (setFull s a b).estall = s.estall := rfl

/-! `setCore` -/

@[simp] theorem setCore_cur (s : State) (v : Nat) (c : Core) : (setCore s v c).cur = s.cur := by unfold setCore; split <;> rfl
@[simp] theorem setCore_mem (s : State) (v : Nat) (c : Core) : (setCore s v c).mem = s.mem := by unfold setCore; split <;> rfl
@[simp] theorem setCore_empties (s : State) (v : Nat) (c : Core) : (setCore s v c).empties = s.empties := by unfold setCore; split <;> rfl
@[simp] theorem setCore_ltag (s : State) (v : Nat) (c : Core) : (setCore s v c).ltag = s.ltag := by unfold setCore; split <;> rfl
@[simp] theorem setCore_ecc (s : State) (v : Nat) (c : Core) : (setCore s v c).ecc = s.ecc := by unfold setCore; split <;> rfl
@[simp] theorem setCore_agenda (s : State) (v : Nat) (c : Core) : (setCore s v c).agenda = s.agenda := by unfold setCore; split <;> rfl
@[simp] theorem setCore_cycle (s : State) (v : Nat) (c : Core) : (setCore s v c).cycle = s.cycle := by unfold setCore; split <;> rfl
@[simp] theorem setCore_clock0 (s : State) (v : Nat) (c : Core) : (setCore s v c).clock0 = s.clock0 := by unfold setCore; split <;> rfl
@[simp] theorem setCore_clock1 (s : State) (v : Nat) (c : Core) : (setCore s v c).clock1 = s.clock1 := by unfold setCore; split <;> rfl
@[simp] theorem setCore_fresh (s : State) (v : Nat) (c : Core) : (setCore s v c).fresh = s.fresh := by unfold setCore; split <;> rfl
@[simp] theorem setCore_ahead (s : State) (v : Nat) (c : Core) : (setCore s v c).ahead = s.ahead := by unfold setCore; split <;> rfl
@[simp] theorem setCore_clusters (s : State) (v : Nat) (c : Core) : (setCore s v c).clusters = s.clusters := by unfold setCore; split <;> rfl
@[simp] theorem setCore_xcsrs (s : State) (v : Nat) (c : Core) : (setCore s v c).xcsrs = s.xcsrs := by unfold setCore; split <;> rfl
@[simp] theorem setCore_ctxs (s : State) (v : Nat) (c : Core) : (setCore s v c).ctxs = s.ctxs := by unfold setCore; split <;> rfl
@[simp] theorem setCore_tlb (s : State) (v : Nat) (c : Core) : (setCore s v c).tlb = s.tlb := by unfold setCore; split <;> rfl
@[simp] theorem setCore_walks (s : State) (v : Nat) (c : Core) : (setCore s v c).walks = s.walks := by unfold setCore; split <;> rfl
@[simp] theorem setCore_slices (s : State) (v : Nat) (c : Core) : (setCore s v c).slices = s.slices := by unfold setCore; split <;> rfl
@[simp] theorem setCore_gangs (s : State) (v : Nat) (c : Core) : (setCore s v c).gangs = s.gangs := by unfold setCore; split <;> rfl
@[simp] theorem setCore_grids (s : State) (v : Nat) (c : Core) : (setCore s v c).grids = s.grids := by unfold setCore; split <;> rfl
@[simp] theorem setCore_nextId (s : State) (v : Nat) (c : Core) : (setCore s v c).nextId = s.nextId := by unfold setCore; split <;> rfl
@[simp] theorem setCore_waits (s : State) (v : Nat) (c : Core) : (setCore s v c).waits = s.waits := by unfold setCore; split <;> rfl
@[simp] theorem setCore_drops (s : State) (v : Nat) (c : Core) : (setCore s v c).drops = s.drops := by unfold setCore; split <;> rfl
@[simp] theorem setCore_bqes (s : State) (v : Nat) (c : Core) : (setCore s v c).bqes = s.bqes := by unfold setCore; split <;> rfl
@[simp] theorem setCore_feq (s : State) (v : Nat) (c : Core) : (setCore s v c).feq = s.feq := by unfold setCore; split <;> rfl
@[simp] theorem setCore_bards (s : State) (v : Nat) (c : Core) : (setCore s v c).bards = s.bards := by unfold setCore; split <;> rfl
@[simp] theorem setCore_xsts (s : State) (v : Nat) (c : Core) : (setCore s v c).xsts = s.xsts := by unfold setCore; split <;> rfl
@[simp] theorem setCore_dirtyHeld (s : State) (v : Nat) (c : Core) : (setCore s v c).dirtyHeld = s.dirtyHeld := by unfold setCore; split <;> rfl
@[simp] theorem setCore_evHeld (s : State) (v : Nat) (c : Core) : (setCore s v c).evHeld = s.evHeld := by unfold setCore; split <;> rfl
@[simp] theorem setCore_fbatchh (s : State) (v : Nat) (c : Core) : (setCore s v c).fbatchh = s.fbatchh := by unfold setCore; split <;> rfl
@[simp] theorem setCore_ctxtab (s : State) (v : Nat) (c : Core) : (setCore s v c).ctxtab = s.ctxtab := by unfold setCore; split <;> rfl
@[simp] theorem setCore_trpause (s : State) (v : Nat) (c : Core) : (setCore s v c).trpause = s.trpause := by unfold setCore; split <;> rfl
@[simp] theorem setCore_keys (s : State) (v : Nat) (c : Core) : (setCore s v c).keys = s.keys := by unfold setCore; split <;> rfl
@[simp] theorem setCore_parts (s : State) (v : Nat) (c : Core) : (setCore s v c).parts = s.parts := by unfold setCore; split <;> rfl
@[simp] theorem setCore_fab (s : State) (v : Nat) (c : Core) : (setCore s v c).fab = s.fab := by unfold setCore; split <;> rfl
@[simp] theorem setCore_trc (s : State) (v : Nat) (c : Core) : (setCore s v c).trc = s.trc := by unfold setCore; split <;> rfl
@[simp] theorem setCore_mgmt (s : State) (v : Nat) (c : Core) : (setCore s v c).mgmt = s.mgmt := by unfold setCore; split <;> rfl
@[simp] theorem setCore_busy (s : State) (v : Nat) (c : Core) : (setCore s v c).busy = s.busy := by unfold setCore; split <;> rfl
@[simp] theorem setCore_estall (s : State) (v : Nat) (c : Core) : (setCore s v c).estall = s.estall := by unfold setCore; split <;> rfl

/-! `updCore` -/

@[simp] theorem updCore_cur (s : State) (v : Nat) (f : Core → Core) : (updCore s v f).cur = s.cur := by unfold updCore; simp
@[simp] theorem updCore_mem (s : State) (v : Nat) (f : Core → Core) : (updCore s v f).mem = s.mem := by unfold updCore; simp
@[simp] theorem updCore_empties (s : State) (v : Nat) (f : Core → Core) : (updCore s v f).empties = s.empties := by unfold updCore; simp
@[simp] theorem updCore_ltag (s : State) (v : Nat) (f : Core → Core) : (updCore s v f).ltag = s.ltag := by unfold updCore; simp
@[simp] theorem updCore_ecc (s : State) (v : Nat) (f : Core → Core) : (updCore s v f).ecc = s.ecc := by unfold updCore; simp
@[simp] theorem updCore_agenda (s : State) (v : Nat) (f : Core → Core) : (updCore s v f).agenda = s.agenda := by unfold updCore; simp
@[simp] theorem updCore_cycle (s : State) (v : Nat) (f : Core → Core) : (updCore s v f).cycle = s.cycle := by unfold updCore; simp
@[simp] theorem updCore_clock0 (s : State) (v : Nat) (f : Core → Core) : (updCore s v f).clock0 = s.clock0 := by unfold updCore; simp
@[simp] theorem updCore_clock1 (s : State) (v : Nat) (f : Core → Core) : (updCore s v f).clock1 = s.clock1 := by unfold updCore; simp
@[simp] theorem updCore_fresh (s : State) (v : Nat) (f : Core → Core) : (updCore s v f).fresh = s.fresh := by unfold updCore; simp
@[simp] theorem updCore_ahead (s : State) (v : Nat) (f : Core → Core) : (updCore s v f).ahead = s.ahead := by unfold updCore; simp
@[simp] theorem updCore_clusters (s : State) (v : Nat) (f : Core → Core) : (updCore s v f).clusters = s.clusters := by unfold updCore; simp
@[simp] theorem updCore_xcsrs (s : State) (v : Nat) (f : Core → Core) : (updCore s v f).xcsrs = s.xcsrs := by unfold updCore; simp
@[simp] theorem updCore_ctxs (s : State) (v : Nat) (f : Core → Core) : (updCore s v f).ctxs = s.ctxs := by unfold updCore; simp
@[simp] theorem updCore_tlb (s : State) (v : Nat) (f : Core → Core) : (updCore s v f).tlb = s.tlb := by unfold updCore; simp
@[simp] theorem updCore_walks (s : State) (v : Nat) (f : Core → Core) : (updCore s v f).walks = s.walks := by unfold updCore; simp
@[simp] theorem updCore_slices (s : State) (v : Nat) (f : Core → Core) : (updCore s v f).slices = s.slices := by unfold updCore; simp
@[simp] theorem updCore_gangs (s : State) (v : Nat) (f : Core → Core) : (updCore s v f).gangs = s.gangs := by unfold updCore; simp
@[simp] theorem updCore_grids (s : State) (v : Nat) (f : Core → Core) : (updCore s v f).grids = s.grids := by unfold updCore; simp
@[simp] theorem updCore_nextId (s : State) (v : Nat) (f : Core → Core) : (updCore s v f).nextId = s.nextId := by unfold updCore; simp
@[simp] theorem updCore_waits (s : State) (v : Nat) (f : Core → Core) : (updCore s v f).waits = s.waits := by unfold updCore; simp
@[simp] theorem updCore_drops (s : State) (v : Nat) (f : Core → Core) : (updCore s v f).drops = s.drops := by unfold updCore; simp
@[simp] theorem updCore_bqes (s : State) (v : Nat) (f : Core → Core) : (updCore s v f).bqes = s.bqes := by unfold updCore; simp
@[simp] theorem updCore_feq (s : State) (v : Nat) (f : Core → Core) : (updCore s v f).feq = s.feq := by unfold updCore; simp
@[simp] theorem updCore_bards (s : State) (v : Nat) (f : Core → Core) : (updCore s v f).bards = s.bards := by unfold updCore; simp
@[simp] theorem updCore_xsts (s : State) (v : Nat) (f : Core → Core) : (updCore s v f).xsts = s.xsts := by unfold updCore; simp
@[simp] theorem updCore_dirtyHeld (s : State) (v : Nat) (f : Core → Core) : (updCore s v f).dirtyHeld = s.dirtyHeld := by unfold updCore; simp
@[simp] theorem updCore_evHeld (s : State) (v : Nat) (f : Core → Core) : (updCore s v f).evHeld = s.evHeld := by unfold updCore; simp
@[simp] theorem updCore_fbatchh (s : State) (v : Nat) (f : Core → Core) : (updCore s v f).fbatchh = s.fbatchh := by unfold updCore; simp
@[simp] theorem updCore_ctxtab (s : State) (v : Nat) (f : Core → Core) : (updCore s v f).ctxtab = s.ctxtab := by unfold updCore; simp
@[simp] theorem updCore_trpause (s : State) (v : Nat) (f : Core → Core) : (updCore s v f).trpause = s.trpause := by unfold updCore; simp
@[simp] theorem updCore_keys (s : State) (v : Nat) (f : Core → Core) : (updCore s v f).keys = s.keys := by unfold updCore; simp
@[simp] theorem updCore_parts (s : State) (v : Nat) (f : Core → Core) : (updCore s v f).parts = s.parts := by unfold updCore; simp
@[simp] theorem updCore_fab (s : State) (v : Nat) (f : Core → Core) : (updCore s v f).fab = s.fab := by unfold updCore; simp
@[simp] theorem updCore_trc (s : State) (v : Nat) (f : Core → Core) : (updCore s v f).trc = s.trc := by unfold updCore; simp
@[simp] theorem updCore_mgmt (s : State) (v : Nat) (f : Core → Core) : (updCore s v f).mgmt = s.mgmt := by unfold updCore; simp
@[simp] theorem updCore_busy (s : State) (v : Nat) (f : Core → Core) : (updCore s v f).busy = s.busy := by unfold updCore; simp
@[simp] theorem updCore_estall (s : State) (v : Nat) (f : Core → Core) : (updCore s v f).estall = s.estall := by unfold updCore; simp

/-! `postIntr` -/

@[simp] theorem postIntr_cur (s : State) (v : Nat) (i : Intr) : (postIntr s v i).cur = s.cur := by unfold postIntr; simp
@[simp] theorem postIntr_mem (s : State) (v : Nat) (i : Intr) : (postIntr s v i).mem = s.mem := by unfold postIntr; simp
@[simp] theorem postIntr_empties (s : State) (v : Nat) (i : Intr) : (postIntr s v i).empties = s.empties := by unfold postIntr; simp
@[simp] theorem postIntr_ltag (s : State) (v : Nat) (i : Intr) : (postIntr s v i).ltag = s.ltag := by unfold postIntr; simp
@[simp] theorem postIntr_ecc (s : State) (v : Nat) (i : Intr) : (postIntr s v i).ecc = s.ecc := by unfold postIntr; simp
@[simp] theorem postIntr_agenda (s : State) (v : Nat) (i : Intr) : (postIntr s v i).agenda = s.agenda := by unfold postIntr; simp
@[simp] theorem postIntr_cycle (s : State) (v : Nat) (i : Intr) : (postIntr s v i).cycle = s.cycle := by unfold postIntr; simp
@[simp] theorem postIntr_clock0 (s : State) (v : Nat) (i : Intr) : (postIntr s v i).clock0 = s.clock0 := by unfold postIntr; simp
@[simp] theorem postIntr_clock1 (s : State) (v : Nat) (i : Intr) : (postIntr s v i).clock1 = s.clock1 := by unfold postIntr; simp
@[simp] theorem postIntr_fresh (s : State) (v : Nat) (i : Intr) : (postIntr s v i).fresh = s.fresh := by unfold postIntr; simp
@[simp] theorem postIntr_ahead (s : State) (v : Nat) (i : Intr) : (postIntr s v i).ahead = s.ahead := by unfold postIntr; simp
@[simp] theorem postIntr_clusters (s : State) (v : Nat) (i : Intr) : (postIntr s v i).clusters = s.clusters := by unfold postIntr; simp
@[simp] theorem postIntr_xcsrs (s : State) (v : Nat) (i : Intr) : (postIntr s v i).xcsrs = s.xcsrs := by unfold postIntr; simp
@[simp] theorem postIntr_ctxs (s : State) (v : Nat) (i : Intr) : (postIntr s v i).ctxs = s.ctxs := by unfold postIntr; simp
@[simp] theorem postIntr_tlb (s : State) (v : Nat) (i : Intr) : (postIntr s v i).tlb = s.tlb := by unfold postIntr; simp
@[simp] theorem postIntr_walks (s : State) (v : Nat) (i : Intr) : (postIntr s v i).walks = s.walks := by unfold postIntr; simp
@[simp] theorem postIntr_slices (s : State) (v : Nat) (i : Intr) : (postIntr s v i).slices = s.slices := by unfold postIntr; simp
@[simp] theorem postIntr_gangs (s : State) (v : Nat) (i : Intr) : (postIntr s v i).gangs = s.gangs := by unfold postIntr; simp
@[simp] theorem postIntr_grids (s : State) (v : Nat) (i : Intr) : (postIntr s v i).grids = s.grids := by unfold postIntr; simp
@[simp] theorem postIntr_nextId (s : State) (v : Nat) (i : Intr) : (postIntr s v i).nextId = s.nextId := by unfold postIntr; simp
@[simp] theorem postIntr_waits (s : State) (v : Nat) (i : Intr) : (postIntr s v i).waits = s.waits := by unfold postIntr; simp
@[simp] theorem postIntr_drops (s : State) (v : Nat) (i : Intr) : (postIntr s v i).drops = s.drops := by unfold postIntr; simp
@[simp] theorem postIntr_bqes (s : State) (v : Nat) (i : Intr) : (postIntr s v i).bqes = s.bqes := by unfold postIntr; simp
@[simp] theorem postIntr_feq (s : State) (v : Nat) (i : Intr) : (postIntr s v i).feq = s.feq := by unfold postIntr; simp
@[simp] theorem postIntr_bards (s : State) (v : Nat) (i : Intr) : (postIntr s v i).bards = s.bards := by unfold postIntr; simp
@[simp] theorem postIntr_xsts (s : State) (v : Nat) (i : Intr) : (postIntr s v i).xsts = s.xsts := by unfold postIntr; simp
@[simp] theorem postIntr_dirtyHeld (s : State) (v : Nat) (i : Intr) : (postIntr s v i).dirtyHeld = s.dirtyHeld := by unfold postIntr; simp
@[simp] theorem postIntr_evHeld (s : State) (v : Nat) (i : Intr) : (postIntr s v i).evHeld = s.evHeld := by unfold postIntr; simp
@[simp] theorem postIntr_fbatchh (s : State) (v : Nat) (i : Intr) : (postIntr s v i).fbatchh = s.fbatchh := by unfold postIntr; simp
@[simp] theorem postIntr_ctxtab (s : State) (v : Nat) (i : Intr) : (postIntr s v i).ctxtab = s.ctxtab := by unfold postIntr; simp
@[simp] theorem postIntr_trpause (s : State) (v : Nat) (i : Intr) : (postIntr s v i).trpause = s.trpause := by unfold postIntr; simp
@[simp] theorem postIntr_keys (s : State) (v : Nat) (i : Intr) : (postIntr s v i).keys = s.keys := by unfold postIntr; simp
@[simp] theorem postIntr_parts (s : State) (v : Nat) (i : Intr) : (postIntr s v i).parts = s.parts := by unfold postIntr; simp
@[simp] theorem postIntr_fab (s : State) (v : Nat) (i : Intr) : (postIntr s v i).fab = s.fab := by unfold postIntr; simp
@[simp] theorem postIntr_trc (s : State) (v : Nat) (i : Intr) : (postIntr s v i).trc = s.trc := by unfold postIntr; simp
@[simp] theorem postIntr_mgmt (s : State) (v : Nat) (i : Intr) : (postIntr s v i).mgmt = s.mgmt := by unfold postIntr; simp
@[simp] theorem postIntr_busy (s : State) (v : Nat) (i : Intr) : (postIntr s v i).busy = s.busy := by unfold postIntr; simp
@[simp] theorem postIntr_estall (s : State) (v : Nat) (i : Intr) : (postIntr s v i).estall = s.estall := by unfold postIntr; simp

/-! `postDeferred` -/

@[simp] theorem postDeferred_cur (s : State) (v sub : Nat) (tv : Word) (ctx : Nat) : (postDeferred s v sub tv ctx).cur = s.cur := by unfold postDeferred; simp
@[simp] theorem postDeferred_mem (s : State) (v sub : Nat) (tv : Word) (ctx : Nat) : (postDeferred s v sub tv ctx).mem = s.mem := by unfold postDeferred; simp
@[simp] theorem postDeferred_empties (s : State) (v sub : Nat) (tv : Word) (ctx : Nat) : (postDeferred s v sub tv ctx).empties = s.empties := by unfold postDeferred; simp
@[simp] theorem postDeferred_ltag (s : State) (v sub : Nat) (tv : Word) (ctx : Nat) : (postDeferred s v sub tv ctx).ltag = s.ltag := by unfold postDeferred; simp
@[simp] theorem postDeferred_ecc (s : State) (v sub : Nat) (tv : Word) (ctx : Nat) : (postDeferred s v sub tv ctx).ecc = s.ecc := by unfold postDeferred; simp
@[simp] theorem postDeferred_agenda (s : State) (v sub : Nat) (tv : Word) (ctx : Nat) : (postDeferred s v sub tv ctx).agenda = s.agenda := by unfold postDeferred; simp
@[simp] theorem postDeferred_cycle (s : State) (v sub : Nat) (tv : Word) (ctx : Nat) : (postDeferred s v sub tv ctx).cycle = s.cycle := by unfold postDeferred; simp
@[simp] theorem postDeferred_clock0 (s : State) (v sub : Nat) (tv : Word) (ctx : Nat) : (postDeferred s v sub tv ctx).clock0 = s.clock0 := by unfold postDeferred; simp
@[simp] theorem postDeferred_clock1 (s : State) (v sub : Nat) (tv : Word) (ctx : Nat) : (postDeferred s v sub tv ctx).clock1 = s.clock1 := by unfold postDeferred; simp
@[simp] theorem postDeferred_fresh (s : State) (v sub : Nat) (tv : Word) (ctx : Nat) : (postDeferred s v sub tv ctx).fresh = s.fresh := by unfold postDeferred; simp
@[simp] theorem postDeferred_ahead (s : State) (v sub : Nat) (tv : Word) (ctx : Nat) : (postDeferred s v sub tv ctx).ahead = s.ahead := by unfold postDeferred; simp
@[simp] theorem postDeferred_clusters (s : State) (v sub : Nat) (tv : Word) (ctx : Nat) : (postDeferred s v sub tv ctx).clusters = s.clusters := by unfold postDeferred; simp
@[simp] theorem postDeferred_xcsrs (s : State) (v sub : Nat) (tv : Word) (ctx : Nat) : (postDeferred s v sub tv ctx).xcsrs = s.xcsrs := by unfold postDeferred; simp
@[simp] theorem postDeferred_ctxs (s : State) (v sub : Nat) (tv : Word) (ctx : Nat) : (postDeferred s v sub tv ctx).ctxs = s.ctxs := by unfold postDeferred; simp
@[simp] theorem postDeferred_tlb (s : State) (v sub : Nat) (tv : Word) (ctx : Nat) : (postDeferred s v sub tv ctx).tlb = s.tlb := by unfold postDeferred; simp
@[simp] theorem postDeferred_walks (s : State) (v sub : Nat) (tv : Word) (ctx : Nat) : (postDeferred s v sub tv ctx).walks = s.walks := by unfold postDeferred; simp
@[simp] theorem postDeferred_slices (s : State) (v sub : Nat) (tv : Word) (ctx : Nat) : (postDeferred s v sub tv ctx).slices = s.slices := by unfold postDeferred; simp
@[simp] theorem postDeferred_gangs (s : State) (v sub : Nat) (tv : Word) (ctx : Nat) : (postDeferred s v sub tv ctx).gangs = s.gangs := by unfold postDeferred; simp
@[simp] theorem postDeferred_grids (s : State) (v sub : Nat) (tv : Word) (ctx : Nat) : (postDeferred s v sub tv ctx).grids = s.grids := by unfold postDeferred; simp
@[simp] theorem postDeferred_nextId (s : State) (v sub : Nat) (tv : Word) (ctx : Nat) : (postDeferred s v sub tv ctx).nextId = s.nextId := by unfold postDeferred; simp
@[simp] theorem postDeferred_waits (s : State) (v sub : Nat) (tv : Word) (ctx : Nat) : (postDeferred s v sub tv ctx).waits = s.waits := by unfold postDeferred; simp
@[simp] theorem postDeferred_drops (s : State) (v sub : Nat) (tv : Word) (ctx : Nat) : (postDeferred s v sub tv ctx).drops = s.drops := by unfold postDeferred; simp
@[simp] theorem postDeferred_bqes (s : State) (v sub : Nat) (tv : Word) (ctx : Nat) : (postDeferred s v sub tv ctx).bqes = s.bqes := by unfold postDeferred; simp
@[simp] theorem postDeferred_feq (s : State) (v sub : Nat) (tv : Word) (ctx : Nat) : (postDeferred s v sub tv ctx).feq = s.feq := by unfold postDeferred; simp
@[simp] theorem postDeferred_bards (s : State) (v sub : Nat) (tv : Word) (ctx : Nat) : (postDeferred s v sub tv ctx).bards = s.bards := by unfold postDeferred; simp
@[simp] theorem postDeferred_xsts (s : State) (v sub : Nat) (tv : Word) (ctx : Nat) : (postDeferred s v sub tv ctx).xsts = s.xsts := by unfold postDeferred; simp
@[simp] theorem postDeferred_dirtyHeld (s : State) (v sub : Nat) (tv : Word) (ctx : Nat) : (postDeferred s v sub tv ctx).dirtyHeld = s.dirtyHeld := by unfold postDeferred; simp
@[simp] theorem postDeferred_evHeld (s : State) (v sub : Nat) (tv : Word) (ctx : Nat) : (postDeferred s v sub tv ctx).evHeld = s.evHeld := by unfold postDeferred; simp
@[simp] theorem postDeferred_fbatchh (s : State) (v sub : Nat) (tv : Word) (ctx : Nat) : (postDeferred s v sub tv ctx).fbatchh = s.fbatchh := by unfold postDeferred; simp
@[simp] theorem postDeferred_ctxtab (s : State) (v sub : Nat) (tv : Word) (ctx : Nat) : (postDeferred s v sub tv ctx).ctxtab = s.ctxtab := by unfold postDeferred; simp
@[simp] theorem postDeferred_trpause (s : State) (v sub : Nat) (tv : Word) (ctx : Nat) : (postDeferred s v sub tv ctx).trpause = s.trpause := by unfold postDeferred; simp
@[simp] theorem postDeferred_keys (s : State) (v sub : Nat) (tv : Word) (ctx : Nat) : (postDeferred s v sub tv ctx).keys = s.keys := by unfold postDeferred; simp
@[simp] theorem postDeferred_parts (s : State) (v sub : Nat) (tv : Word) (ctx : Nat) : (postDeferred s v sub tv ctx).parts = s.parts := by unfold postDeferred; simp
@[simp] theorem postDeferred_fab (s : State) (v sub : Nat) (tv : Word) (ctx : Nat) : (postDeferred s v sub tv ctx).fab = s.fab := by unfold postDeferred; simp
@[simp] theorem postDeferred_trc (s : State) (v sub : Nat) (tv : Word) (ctx : Nat) : (postDeferred s v sub tv ctx).trc = s.trc := by unfold postDeferred; simp
@[simp] theorem postDeferred_mgmt (s : State) (v sub : Nat) (tv : Word) (ctx : Nat) : (postDeferred s v sub tv ctx).mgmt = s.mgmt := by unfold postDeferred; simp
@[simp] theorem postDeferred_busy (s : State) (v sub : Nat) (tv : Word) (ctx : Nat) : (postDeferred s v sub tv ctx).busy = s.busy := by unfold postDeferred; simp
@[simp] theorem postDeferred_estall (s : State) (v sub : Nat) (tv : Word) (ctx : Nat) : (postDeferred s v sub tv ctx).estall = s.estall := by unfold postDeferred; simp

/-! `Core.setG` -/

@[simp] theorem Core.setG_mode (c : Core) (n : Nat) (w : Word) : (c.setG n w).mode = c.mode := by unfold Core.setG; split <;> rfl
@[simp] theorem Core.setG_pc (c : Core) (n : Nat) (w : Word) : (c.setG n w).pc = c.pc := by unfold Core.setG; split <;> rfl
@[simp] theorem Core.setG_v (c : Core) (n : Nat) (w : Word) : (c.setG n w).v = c.v := by unfold Core.setG; split <;> rfl
@[simp] theorem Core.setG_k (c : Core) (n : Nat) (w : Word) : (c.setG n w).k = c.k := by unfold Core.setG; split <;> rfl
@[simp] theorem Core.setG_fflags (c : Core) (n : Nat) (w : Word) : (c.setG n w).fflags = c.fflags := by unfold Core.setG; split <;> rfl
@[simp] theorem Core.setG_fenable (c : Core) (n : Nat) (w : Word) : (c.setG n w).fenable = c.fenable := by unfold Core.setG; split <;> rfl
@[simp] theorem Core.setG_rep (c : Core) (n : Nat) (w : Word) : (c.setG n w).rep = c.rep := by unfold Core.setG; split <;> rfl
@[simp] theorem Core.setG_sgen (c : Core) (n : Nat) (w : Word) : (c.setG n w).sgen = c.sgen := by unfold Core.setG; split <;> rfl
@[simp] theorem Core.setG_ssbthr (c : Core) (n : Nat) (w : Word) : (c.setG n w).ssbthr = c.ssbthr := by unfold Core.setG; split <;> rfl
@[simp] theorem Core.setG_ssbpol (c : Core) (n : Nat) (w : Word) : (c.setG n w).ssbpol = c.ssbpol := by unfold Core.setG; split <;> rfl
@[simp] theorem Core.setG_rstack (c : Core) (n : Nat) (w : Word) : (c.setG n w).rstack = c.rstack := by unfold Core.setG; split <;> rfl
@[simp] theorem Core.setG_rsp (c : Core) (n : Nat) (w : Word) : (c.setG n w).rsp = c.rsp := by unfold Core.setG; split <;> rfl
@[simp] theorem Core.setG_spilled (c : Core) (n : Nat) (w : Word) : (c.setG n w).spilled = c.spilled := by unfold Core.setG; split <;> rfl
@[simp] theorem Core.setG_ctx (c : Core) (n : Nat) (w : Word) : (c.setG n w).ctx = c.ctx := by unfold Core.setG; split <;> rfl
@[simp] theorem Core.setG_priv (c : Core) (n : Nat) (w : Word) : (c.setG n w).priv = c.priv := by unfold Core.setG; split <;> rfl
@[simp] theorem Core.setG_status (c : Core) (n : Nat) (w : Word) : (c.setG n w).status = c.status := by unfold Core.setG; split <;> rfl
@[simp] theorem Core.setG_epc (c : Core) (n : Nat) (w : Word) : (c.setG n w).epc = c.epc := by unfold Core.setG; split <;> rfl
@[simp] theorem Core.setG_cause (c : Core) (n : Nat) (w : Word) : (c.setG n w).cause = c.cause := by unfold Core.setG; split <;> rfl
@[simp] theorem Core.setG_tval (c : Core) (n : Nat) (w : Word) : (c.setG n w).tval = c.tval := by unfold Core.setG; split <;> rfl
@[simp] theorem Core.setG_tveck (c : Core) (n : Nat) (w : Word) : (c.setG n w).tveck = c.tveck := by unfold Core.setG; split <;> rfl
@[simp] theorem Core.setG_scratchk (c : Core) (n : Nat) (w : Word) : (c.setG n w).scratchk = c.scratchk := by unfold Core.setG; split <;> rfl
@[simp] theorem Core.setG_tvech (c : Core) (n : Nat) (w : Word) : (c.setG n w).tvech = c.tvech := by unfold Core.setG; split <;> rfl
@[simp] theorem Core.setG_scratchh (c : Core) (n : Nat) (w : Word) : (c.setG n w).scratchh = c.scratchh := by unfold Core.setG; split <;> rfl
@[simp] theorem Core.setG_epch (c : Core) (n : Nat) (w : Word) : (c.setG n w).epch = c.epch := by unfold Core.setG; split <;> rfl
@[simp] theorem Core.setG_causeh (c : Core) (n : Nat) (w : Word) : (c.setG n w).causeh = c.causeh := by unfold Core.setG; split <;> rfl
@[simp] theorem Core.setG_tvalh (c : Core) (n : Nat) (w : Word) : (c.setG n w).tvalh = c.tvalh := by unfold Core.setG; split <;> rfl
@[simp] theorem Core.setG_afterRett (c : Core) (n : Nat) (w : Word) : (c.setG n w).afterRett = c.afterRett := by unfold Core.setG; split <;> rfl
@[simp] theorem Core.setG_skipBkpt (c : Core) (n : Nat) (w : Word) : (c.setG n w).skipBkpt = c.skipBkpt := by unfold Core.setG; split <;> rfl
@[simp] theorem Core.setG_cont (c : Core) (n : Nat) (w : Word) : (c.setG n w).cont = c.cont := by unfold Core.setG; split <;> rfl
@[simp] theorem Core.setG_task (c : Core) (n : Nat) (w : Word) : (c.setG n w).task = c.task := by unfold Core.setG; split <;> rfl
@[simp] theorem Core.setG_wait (c : Core) (n : Nat) (w : Word) : (c.setG n w).wait = c.wait := by unfold Core.setG; split <;> rfl
@[simp] theorem Core.setG_asked (c : Core) (n : Nat) (w : Word) : (c.setG n w).asked = c.asked := by unfold Core.setG; split <;> rfl
@[simp] theorem Core.setG_halted (c : Core) (n : Nat) (w : Word) : (c.setG n w).halted = c.halted := by unfold Core.setG; split <;> rfl
@[simp] theorem Core.setG_retouch (c : Core) (n : Nat) (w : Word) : (c.setG n w).retouch = c.retouch := by unfold Core.setG; split <;> rfl
@[simp] theorem Core.setG_pend (c : Core) (n : Nat) (w : Word) : (c.setG n w).pend = c.pend := by unfold Core.setG; split <;> rfl
@[simp] theorem Core.setG_bar (c : Core) (n : Nat) (w : Word) : (c.setG n w).bar = c.bar := by unfold Core.setG; split <;> rfl
@[simp] theorem Core.setG_live (c : Core) (n : Nat) (w : Word) : (c.setG n w).live = c.live := by unfold Core.setG; split <;> rfl
@[simp] theorem Core.setG_arr (c : Core) (n : Nat) (w : Word) : (c.setG n w).arr = c.arr := by unfold Core.setG; split <;> rfl
@[simp] theorem Core.setG_ssb (c : Core) (n : Nat) (w : Word) : (c.setG n w).ssb = c.ssb := by unfold Core.setG; split <;> rfl
@[simp] theorem Core.setG_wins (c : Core) (n : Nat) (w : Word) : (c.setG n w).wins = c.wins := by unfold Core.setG; split <;> rfl
@[simp] theorem Core.setG_opening (c : Core) (n : Nat) (w : Word) : (c.setG n w).opening = c.opening := by unfold Core.setG; split <;> rfl
@[simp] theorem Core.setG_wbuf (c : Core) (n : Nat) (w : Word) : (c.setG n w).wbuf = c.wbuf := by unfold Core.setG; split <;> rfl
@[simp] theorem Core.setG_l1 (c : Core) (n : Nat) (w : Word) : (c.setG n w).l1 = c.l1 := by unfold Core.setG; split <;> rfl
@[simp] theorem Core.setG_fbuf (c : Core) (n : Nat) (w : Word) : (c.setG n w).fbuf = c.fbuf := by unfold Core.setG; split <;> rfl
@[simp] theorem Core.setG_holdCycles (c : Core) (n : Nat) (w : Word) : (c.setG n w).holdCycles = c.holdCycles := by unfold Core.setG; split <;> rfl
@[simp] theorem Core.setG_stallCycles (c : Core) (n : Nat) (w : Word) : (c.setG n w).stallCycles = c.stallCycles := by unfold Core.setG; split <;> rfl
@[simp] theorem Core.setG_stalls (c : Core) (n : Nat) (w : Word) : (c.setG n w).stalls = c.stalls := by unfold Core.setG; split <;> rfl
@[simp] theorem Core.setG_gave (c : Core) (n : Nat) (w : Word) : (c.setG n w).gave = c.gave := by unfold Core.setG; split <;> rfl
@[simp] theorem Core.setG_lastCtx (c : Core) (n : Nat) (w : Word) : (c.setG n w).lastCtx = c.lastCtx := by unfold Core.setG; split <;> rfl

/-! `Core.setV` -/

@[simp] theorem Core.setV_mode (c : Core) (n : Nat) (w : VReg) : (c.setV n w).mode = c.mode := rfl
@[simp] theorem Core.setV_pc (c : Core) (n : Nat) (w : VReg) : (c.setV n w).pc = c.pc := rfl
@[simp] theorem Core.setV_g (c : Core) (n : Nat) (w : VReg) : (c.setV n w).g = c.g := rfl
@[simp] theorem Core.setV_k (c : Core) (n : Nat) (w : VReg) : (c.setV n w).k = c.k := rfl
@[simp] theorem Core.setV_fflags (c : Core) (n : Nat) (w : VReg) : (c.setV n w).fflags = c.fflags := rfl
@[simp] theorem Core.setV_fenable (c : Core) (n : Nat) (w : VReg) : (c.setV n w).fenable = c.fenable := rfl
@[simp] theorem Core.setV_rep (c : Core) (n : Nat) (w : VReg) : (c.setV n w).rep = c.rep := rfl
@[simp] theorem Core.setV_sgen (c : Core) (n : Nat) (w : VReg) : (c.setV n w).sgen = c.sgen := rfl
@[simp] theorem Core.setV_ssbthr (c : Core) (n : Nat) (w : VReg) : (c.setV n w).ssbthr = c.ssbthr := rfl
@[simp] theorem Core.setV_ssbpol (c : Core) (n : Nat) (w : VReg) : (c.setV n w).ssbpol = c.ssbpol := rfl
@[simp] theorem Core.setV_rstack (c : Core) (n : Nat) (w : VReg) : (c.setV n w).rstack = c.rstack := rfl
@[simp] theorem Core.setV_rsp (c : Core) (n : Nat) (w : VReg) : (c.setV n w).rsp = c.rsp := rfl
@[simp] theorem Core.setV_spilled (c : Core) (n : Nat) (w : VReg) : (c.setV n w).spilled = c.spilled := rfl
@[simp] theorem Core.setV_ctx (c : Core) (n : Nat) (w : VReg) : (c.setV n w).ctx = c.ctx := rfl
@[simp] theorem Core.setV_priv (c : Core) (n : Nat) (w : VReg) : (c.setV n w).priv = c.priv := rfl
@[simp] theorem Core.setV_status (c : Core) (n : Nat) (w : VReg) : (c.setV n w).status = c.status := rfl
@[simp] theorem Core.setV_epc (c : Core) (n : Nat) (w : VReg) : (c.setV n w).epc = c.epc := rfl
@[simp] theorem Core.setV_cause (c : Core) (n : Nat) (w : VReg) : (c.setV n w).cause = c.cause := rfl
@[simp] theorem Core.setV_tval (c : Core) (n : Nat) (w : VReg) : (c.setV n w).tval = c.tval := rfl
@[simp] theorem Core.setV_tveck (c : Core) (n : Nat) (w : VReg) : (c.setV n w).tveck = c.tveck := rfl
@[simp] theorem Core.setV_scratchk (c : Core) (n : Nat) (w : VReg) : (c.setV n w).scratchk = c.scratchk := rfl
@[simp] theorem Core.setV_tvech (c : Core) (n : Nat) (w : VReg) : (c.setV n w).tvech = c.tvech := rfl
@[simp] theorem Core.setV_scratchh (c : Core) (n : Nat) (w : VReg) : (c.setV n w).scratchh = c.scratchh := rfl
@[simp] theorem Core.setV_epch (c : Core) (n : Nat) (w : VReg) : (c.setV n w).epch = c.epch := rfl
@[simp] theorem Core.setV_causeh (c : Core) (n : Nat) (w : VReg) : (c.setV n w).causeh = c.causeh := rfl
@[simp] theorem Core.setV_tvalh (c : Core) (n : Nat) (w : VReg) : (c.setV n w).tvalh = c.tvalh := rfl
@[simp] theorem Core.setV_afterRett (c : Core) (n : Nat) (w : VReg) : (c.setV n w).afterRett = c.afterRett := rfl
@[simp] theorem Core.setV_skipBkpt (c : Core) (n : Nat) (w : VReg) : (c.setV n w).skipBkpt = c.skipBkpt := rfl
@[simp] theorem Core.setV_cont (c : Core) (n : Nat) (w : VReg) : (c.setV n w).cont = c.cont := rfl
@[simp] theorem Core.setV_task (c : Core) (n : Nat) (w : VReg) : (c.setV n w).task = c.task := rfl
@[simp] theorem Core.setV_wait (c : Core) (n : Nat) (w : VReg) : (c.setV n w).wait = c.wait := rfl
@[simp] theorem Core.setV_asked (c : Core) (n : Nat) (w : VReg) : (c.setV n w).asked = c.asked := rfl
@[simp] theorem Core.setV_halted (c : Core) (n : Nat) (w : VReg) : (c.setV n w).halted = c.halted := rfl
@[simp] theorem Core.setV_retouch (c : Core) (n : Nat) (w : VReg) : (c.setV n w).retouch = c.retouch := rfl
@[simp] theorem Core.setV_pend (c : Core) (n : Nat) (w : VReg) : (c.setV n w).pend = c.pend := rfl
@[simp] theorem Core.setV_bar (c : Core) (n : Nat) (w : VReg) : (c.setV n w).bar = c.bar := rfl
@[simp] theorem Core.setV_live (c : Core) (n : Nat) (w : VReg) : (c.setV n w).live = c.live := rfl
@[simp] theorem Core.setV_arr (c : Core) (n : Nat) (w : VReg) : (c.setV n w).arr = c.arr := rfl
@[simp] theorem Core.setV_ssb (c : Core) (n : Nat) (w : VReg) : (c.setV n w).ssb = c.ssb := rfl
@[simp] theorem Core.setV_wins (c : Core) (n : Nat) (w : VReg) : (c.setV n w).wins = c.wins := rfl
@[simp] theorem Core.setV_opening (c : Core) (n : Nat) (w : VReg) : (c.setV n w).opening = c.opening := rfl
@[simp] theorem Core.setV_wbuf (c : Core) (n : Nat) (w : VReg) : (c.setV n w).wbuf = c.wbuf := rfl
@[simp] theorem Core.setV_l1 (c : Core) (n : Nat) (w : VReg) : (c.setV n w).l1 = c.l1 := rfl
@[simp] theorem Core.setV_fbuf (c : Core) (n : Nat) (w : VReg) : (c.setV n w).fbuf = c.fbuf := rfl
@[simp] theorem Core.setV_holdCycles (c : Core) (n : Nat) (w : VReg) : (c.setV n w).holdCycles = c.holdCycles := rfl
@[simp] theorem Core.setV_stallCycles (c : Core) (n : Nat) (w : VReg) : (c.setV n w).stallCycles = c.stallCycles := rfl
@[simp] theorem Core.setV_stalls (c : Core) (n : Nat) (w : VReg) : (c.setV n w).stalls = c.stalls := rfl
@[simp] theorem Core.setV_gave (c : Core) (n : Nat) (w : VReg) : (c.setV n w).gave = c.gave := rfl
@[simp] theorem Core.setV_lastCtx (c : Core) (n : Nat) (w : VReg) : (c.setV n w).lastCtx = c.lastCtx := rfl

/-! `Core.setK` -/

@[simp] theorem Core.setK_mode (c : Core) (n : Nat) (w : Word) : (c.setK n w).mode = c.mode := by unfold Core.setK; split <;> rfl
@[simp] theorem Core.setK_pc (c : Core) (n : Nat) (w : Word) : (c.setK n w).pc = c.pc := by unfold Core.setK; split <;> rfl
@[simp] theorem Core.setK_g (c : Core) (n : Nat) (w : Word) : (c.setK n w).g = c.g := by unfold Core.setK; split <;> rfl
@[simp] theorem Core.setK_v (c : Core) (n : Nat) (w : Word) : (c.setK n w).v = c.v := by unfold Core.setK; split <;> rfl
@[simp] theorem Core.setK_fflags (c : Core) (n : Nat) (w : Word) : (c.setK n w).fflags = c.fflags := by unfold Core.setK; split <;> rfl
@[simp] theorem Core.setK_fenable (c : Core) (n : Nat) (w : Word) : (c.setK n w).fenable = c.fenable := by unfold Core.setK; split <;> rfl
@[simp] theorem Core.setK_rep (c : Core) (n : Nat) (w : Word) : (c.setK n w).rep = c.rep := by unfold Core.setK; split <;> rfl
@[simp] theorem Core.setK_sgen (c : Core) (n : Nat) (w : Word) : (c.setK n w).sgen = c.sgen := by unfold Core.setK; split <;> rfl
@[simp] theorem Core.setK_ssbthr (c : Core) (n : Nat) (w : Word) : (c.setK n w).ssbthr = c.ssbthr := by unfold Core.setK; split <;> rfl
@[simp] theorem Core.setK_ssbpol (c : Core) (n : Nat) (w : Word) : (c.setK n w).ssbpol = c.ssbpol := by unfold Core.setK; split <;> rfl
@[simp] theorem Core.setK_rstack (c : Core) (n : Nat) (w : Word) : (c.setK n w).rstack = c.rstack := by unfold Core.setK; split <;> rfl
@[simp] theorem Core.setK_rsp (c : Core) (n : Nat) (w : Word) : (c.setK n w).rsp = c.rsp := by unfold Core.setK; split <;> rfl
@[simp] theorem Core.setK_spilled (c : Core) (n : Nat) (w : Word) : (c.setK n w).spilled = c.spilled := by unfold Core.setK; split <;> rfl
@[simp] theorem Core.setK_ctx (c : Core) (n : Nat) (w : Word) : (c.setK n w).ctx = c.ctx := by unfold Core.setK; split <;> rfl
@[simp] theorem Core.setK_priv (c : Core) (n : Nat) (w : Word) : (c.setK n w).priv = c.priv := by unfold Core.setK; split <;> rfl
@[simp] theorem Core.setK_status (c : Core) (n : Nat) (w : Word) : (c.setK n w).status = c.status := by unfold Core.setK; split <;> rfl
@[simp] theorem Core.setK_epc (c : Core) (n : Nat) (w : Word) : (c.setK n w).epc = c.epc := by unfold Core.setK; split <;> rfl
@[simp] theorem Core.setK_cause (c : Core) (n : Nat) (w : Word) : (c.setK n w).cause = c.cause := by unfold Core.setK; split <;> rfl
@[simp] theorem Core.setK_tval (c : Core) (n : Nat) (w : Word) : (c.setK n w).tval = c.tval := by unfold Core.setK; split <;> rfl
@[simp] theorem Core.setK_tveck (c : Core) (n : Nat) (w : Word) : (c.setK n w).tveck = c.tveck := by unfold Core.setK; split <;> rfl
@[simp] theorem Core.setK_scratchk (c : Core) (n : Nat) (w : Word) : (c.setK n w).scratchk = c.scratchk := by unfold Core.setK; split <;> rfl
@[simp] theorem Core.setK_tvech (c : Core) (n : Nat) (w : Word) : (c.setK n w).tvech = c.tvech := by unfold Core.setK; split <;> rfl
@[simp] theorem Core.setK_scratchh (c : Core) (n : Nat) (w : Word) : (c.setK n w).scratchh = c.scratchh := by unfold Core.setK; split <;> rfl
@[simp] theorem Core.setK_epch (c : Core) (n : Nat) (w : Word) : (c.setK n w).epch = c.epch := by unfold Core.setK; split <;> rfl
@[simp] theorem Core.setK_causeh (c : Core) (n : Nat) (w : Word) : (c.setK n w).causeh = c.causeh := by unfold Core.setK; split <;> rfl
@[simp] theorem Core.setK_tvalh (c : Core) (n : Nat) (w : Word) : (c.setK n w).tvalh = c.tvalh := by unfold Core.setK; split <;> rfl
@[simp] theorem Core.setK_afterRett (c : Core) (n : Nat) (w : Word) : (c.setK n w).afterRett = c.afterRett := by unfold Core.setK; split <;> rfl
@[simp] theorem Core.setK_skipBkpt (c : Core) (n : Nat) (w : Word) : (c.setK n w).skipBkpt = c.skipBkpt := by unfold Core.setK; split <;> rfl
@[simp] theorem Core.setK_cont (c : Core) (n : Nat) (w : Word) : (c.setK n w).cont = c.cont := by unfold Core.setK; split <;> rfl
@[simp] theorem Core.setK_task (c : Core) (n : Nat) (w : Word) : (c.setK n w).task = c.task := by unfold Core.setK; split <;> rfl
@[simp] theorem Core.setK_wait (c : Core) (n : Nat) (w : Word) : (c.setK n w).wait = c.wait := by unfold Core.setK; split <;> rfl
@[simp] theorem Core.setK_asked (c : Core) (n : Nat) (w : Word) : (c.setK n w).asked = c.asked := by unfold Core.setK; split <;> rfl
@[simp] theorem Core.setK_halted (c : Core) (n : Nat) (w : Word) : (c.setK n w).halted = c.halted := by unfold Core.setK; split <;> rfl
@[simp] theorem Core.setK_retouch (c : Core) (n : Nat) (w : Word) : (c.setK n w).retouch = c.retouch := by unfold Core.setK; split <;> rfl
@[simp] theorem Core.setK_pend (c : Core) (n : Nat) (w : Word) : (c.setK n w).pend = c.pend := by unfold Core.setK; split <;> rfl
@[simp] theorem Core.setK_bar (c : Core) (n : Nat) (w : Word) : (c.setK n w).bar = c.bar := by unfold Core.setK; split <;> rfl
@[simp] theorem Core.setK_live (c : Core) (n : Nat) (w : Word) : (c.setK n w).live = c.live := by unfold Core.setK; split <;> rfl
@[simp] theorem Core.setK_arr (c : Core) (n : Nat) (w : Word) : (c.setK n w).arr = c.arr := by unfold Core.setK; split <;> rfl
@[simp] theorem Core.setK_ssb (c : Core) (n : Nat) (w : Word) : (c.setK n w).ssb = c.ssb := by unfold Core.setK; split <;> rfl
@[simp] theorem Core.setK_wins (c : Core) (n : Nat) (w : Word) : (c.setK n w).wins = c.wins := by unfold Core.setK; split <;> rfl
@[simp] theorem Core.setK_opening (c : Core) (n : Nat) (w : Word) : (c.setK n w).opening = c.opening := by unfold Core.setK; split <;> rfl
@[simp] theorem Core.setK_wbuf (c : Core) (n : Nat) (w : Word) : (c.setK n w).wbuf = c.wbuf := by unfold Core.setK; split <;> rfl
@[simp] theorem Core.setK_l1 (c : Core) (n : Nat) (w : Word) : (c.setK n w).l1 = c.l1 := by unfold Core.setK; split <;> rfl
@[simp] theorem Core.setK_fbuf (c : Core) (n : Nat) (w : Word) : (c.setK n w).fbuf = c.fbuf := by unfold Core.setK; split <;> rfl
@[simp] theorem Core.setK_holdCycles (c : Core) (n : Nat) (w : Word) : (c.setK n w).holdCycles = c.holdCycles := by unfold Core.setK; split <;> rfl
@[simp] theorem Core.setK_stallCycles (c : Core) (n : Nat) (w : Word) : (c.setK n w).stallCycles = c.stallCycles := by unfold Core.setK; split <;> rfl
@[simp] theorem Core.setK_stalls (c : Core) (n : Nat) (w : Word) : (c.setK n w).stalls = c.stalls := by unfold Core.setK; split <;> rfl
@[simp] theorem Core.setK_gave (c : Core) (n : Nat) (w : Word) : (c.setK n w).gave = c.gave := by unfold Core.setK; split <;> rfl
@[simp] theorem Core.setK_lastCtx (c : Core) (n : Nat) (w : Word) : (c.setK n w).lastCtx = c.lastCtx := by unfold Core.setK; split <;> rfl

/-! `invalL1` -/

@[simp] theorem invalL1_mode (c : Core) : (invalL1 c).mode = c.mode := rfl
@[simp] theorem invalL1_pc (c : Core) : (invalL1 c).pc = c.pc := rfl
@[simp] theorem invalL1_g (c : Core) : (invalL1 c).g = c.g := rfl
@[simp] theorem invalL1_v (c : Core) : (invalL1 c).v = c.v := rfl
@[simp] theorem invalL1_k (c : Core) : (invalL1 c).k = c.k := rfl
@[simp] theorem invalL1_fflags (c : Core) : (invalL1 c).fflags = c.fflags := rfl
@[simp] theorem invalL1_fenable (c : Core) : (invalL1 c).fenable = c.fenable := rfl
@[simp] theorem invalL1_rep (c : Core) : (invalL1 c).rep = c.rep := rfl
@[simp] theorem invalL1_sgen (c : Core) : (invalL1 c).sgen = c.sgen := rfl
@[simp] theorem invalL1_ssbthr (c : Core) : (invalL1 c).ssbthr = c.ssbthr := rfl
@[simp] theorem invalL1_ssbpol (c : Core) : (invalL1 c).ssbpol = c.ssbpol := rfl
@[simp] theorem invalL1_rstack (c : Core) : (invalL1 c).rstack = c.rstack := rfl
@[simp] theorem invalL1_rsp (c : Core) : (invalL1 c).rsp = c.rsp := rfl
@[simp] theorem invalL1_spilled (c : Core) : (invalL1 c).spilled = c.spilled := rfl
@[simp] theorem invalL1_ctx (c : Core) : (invalL1 c).ctx = c.ctx := rfl
@[simp] theorem invalL1_priv (c : Core) : (invalL1 c).priv = c.priv := rfl
@[simp] theorem invalL1_status (c : Core) : (invalL1 c).status = c.status := rfl
@[simp] theorem invalL1_epc (c : Core) : (invalL1 c).epc = c.epc := rfl
@[simp] theorem invalL1_cause (c : Core) : (invalL1 c).cause = c.cause := rfl
@[simp] theorem invalL1_tval (c : Core) : (invalL1 c).tval = c.tval := rfl
@[simp] theorem invalL1_tveck (c : Core) : (invalL1 c).tveck = c.tveck := rfl
@[simp] theorem invalL1_scratchk (c : Core) : (invalL1 c).scratchk = c.scratchk := rfl
@[simp] theorem invalL1_tvech (c : Core) : (invalL1 c).tvech = c.tvech := rfl
@[simp] theorem invalL1_scratchh (c : Core) : (invalL1 c).scratchh = c.scratchh := rfl
@[simp] theorem invalL1_epch (c : Core) : (invalL1 c).epch = c.epch := rfl
@[simp] theorem invalL1_causeh (c : Core) : (invalL1 c).causeh = c.causeh := rfl
@[simp] theorem invalL1_tvalh (c : Core) : (invalL1 c).tvalh = c.tvalh := rfl
@[simp] theorem invalL1_afterRett (c : Core) : (invalL1 c).afterRett = c.afterRett := rfl
@[simp] theorem invalL1_skipBkpt (c : Core) : (invalL1 c).skipBkpt = c.skipBkpt := rfl
@[simp] theorem invalL1_cont (c : Core) : (invalL1 c).cont = c.cont := rfl
@[simp] theorem invalL1_task (c : Core) : (invalL1 c).task = c.task := rfl
@[simp] theorem invalL1_wait (c : Core) : (invalL1 c).wait = c.wait := rfl
@[simp] theorem invalL1_asked (c : Core) : (invalL1 c).asked = c.asked := rfl
@[simp] theorem invalL1_halted (c : Core) : (invalL1 c).halted = c.halted := rfl
@[simp] theorem invalL1_retouch (c : Core) : (invalL1 c).retouch = c.retouch := rfl
@[simp] theorem invalL1_pend (c : Core) : (invalL1 c).pend = c.pend := rfl
@[simp] theorem invalL1_bar (c : Core) : (invalL1 c).bar = c.bar := rfl
@[simp] theorem invalL1_live (c : Core) : (invalL1 c).live = c.live := rfl
@[simp] theorem invalL1_arr (c : Core) : (invalL1 c).arr = c.arr := rfl
@[simp] theorem invalL1_ssb (c : Core) : (invalL1 c).ssb = c.ssb := rfl
@[simp] theorem invalL1_wins (c : Core) : (invalL1 c).wins = c.wins := rfl
@[simp] theorem invalL1_opening (c : Core) : (invalL1 c).opening = c.opening := rfl
@[simp] theorem invalL1_wbuf (c : Core) : (invalL1 c).wbuf = c.wbuf := rfl
@[simp] theorem invalL1_fbuf (c : Core) : (invalL1 c).fbuf = c.fbuf := rfl
@[simp] theorem invalL1_holdCycles (c : Core) : (invalL1 c).holdCycles = c.holdCycles := rfl
@[simp] theorem invalL1_stallCycles (c : Core) : (invalL1 c).stallCycles = c.stallCycles := rfl
@[simp] theorem invalL1_stalls (c : Core) : (invalL1 c).stalls = c.stalls := rfl
@[simp] theorem invalL1_gave (c : Core) : (invalL1 c).gave = c.gave := rfl
@[simp] theorem invalL1_lastCtx (c : Core) : (invalL1 c).lastCtx = c.lastCtx := rfl

/-! Reads of registers after writes (08 R173; 07 R148) -/

theorem getD_setIfInBounds {α : Type} {n : Nat} (xs : Vector α n) (i j : Nat) (x d : α) (hj : j < n) :
    (xs.setIfInBounds i x).getD j d = if i = j then x else xs.getD j d := by
  have h1 : ∀ ys : Vector α n, ys.getD j d = ys[j] := fun ys => by simp [Vector.getD, hj]
  rw [h1, h1, Vector.getElem_setIfInBounds]

theorem getG_setG (c : Core) (n m : Nat) (w : Word) (hm : m < 64) :
    (c.setG n w).getG m = if m = 0 then 0 else if m = n then w else c.getG m := by
  unfold Core.setG Core.getG
  by_cases h0 : m = 0
  · simp [h0]
  · by_cases hn : n = 0
    · have : m ≠ n := by omega
      simp [hn, h0]
    · simp only [h0, hn, if_false, getD_setIfInBounds _ _ _ _ _ hm, eq_comm]

theorem getV_setV (c : Core) (n m : Nat) (w : VReg) (hm : m < 32) :
    (c.setV n w).getV m = if m = n then w else c.getV m := by
  simp only [Core.setV, Core.getV, getD_setIfInBounds _ _ _ _ _ hm, eq_comm]

theorem getK_setK (c : Core) (n m : Nat) (w : Word) (hm : m < 8) :
    (c.setK n w).getK m = if m = 0 then BitVec.allOnes 64 else if m = n then w else c.getK m := by
  unfold Core.setK Core.getK
  by_cases h0 : m = 0
  · simp [h0]
  · by_cases hn : n = 0
    · have : m ≠ n := by omega
      simp [hn, h0]
    · simp only [h0, hn, if_false, getD_setIfInBounds _ _ _ _ _ hm, eq_comm]

/-! A core after its update -/

@[simp] theorem getCore_setCore_self (s : State) (v : Nat) (c : Core) : getCore (setCore s v c) v = c := by
  unfold setCore getCore
  by_cases h : v = s.cur
  · simp [h]
  · simp [h, SMap.find?_insert_self]

theorem getCore_setCore_ne (s : State) (v w : Nat) (c : Core) (h : w ≠ v) : getCore (setCore s v c) w = getCore s w := by
  unfold setCore getCore
  by_cases hv : v = s.cur
  · subst hv
    simp [h, bootCore]
  · by_cases hw : w = s.cur
    · simp [hv, hw]
    · simp [hv, hw, SMap.find?_insert_ne _ _ h, bootCore]

@[simp] theorem getCore_updCore_self (s : State) (v : Nat) (f : Core → Core) : getCore (updCore s v f) v = f (getCore s v) := by
  simp [updCore]

theorem getCore_updCore_ne (s : State) (v w : Nat) (f : Core → Core) (h : w ≠ v) : getCore (updCore s v f) w = getCore s w :=
  getCore_setCore_ne s v w _ h

@[simp] theorem getCl_updCl_self (s : State) (cl : Nat) (f : Cluster → Cluster) : getCl (updCl s cl f) cl = f (getCl s cl) := by
  simp [getCl, updCl]

theorem getCl_updCl_ne (s : State) (cl c : Nat) (f : Cluster → Cluster) (h : c ≠ cl) : getCl (updCl s cl f) c = getCl s c := by
  simp [getCl, updCl, SMap.getD_insert_ne _ _ _ h]

@[simp] theorem getCtx_updCtx_self (s : State) (x : Nat) (f : Ctx → Ctx) : getCtx (updCtx s x f) x = f (getCtx s x) := by
  simp [getCtx, updCtx]

theorem getCtx_updCtx_ne (s : State) (x y : Nat) (f : Ctx → Ctx) (h : y ≠ x) : getCtx (updCtx s x f) y = getCtx s y := by
  simp [getCtx, updCtx, SMap.getD_insert_ne _ _ _ h]

@[simp] theorem getPort_updPort_self (s : State) (n : Nat) (f : Port → Port) : getPort (updPort s n f) n = f (getPort s n) := by
  simp [getPort, updPort, modFab]

theorem getPort_updPort_ne (s : State) (n m : Nat) (f : Port → Port) (h : m ≠ n) : getPort (updPort s n f) m = getPort s m := by
  simp [getPort, updPort, modFab, SMap.getD_insert_ne _ _ _ h]

end Sys2Proof.Machine
end

