-- ==== Sys2Proof/Laws/Memory.lean ====
section
/-!
SUPPORT. Memory: its one form, reads after writes, and that every operation that writes memory keeps the form.
-/
namespace Sys2Proof.Machine

/-! Cells -/

theorem wfFrom_le {m : List Host.Cell} {lo hi : Nat} (h : Memory.wfFrom hi m = true) (hl : lo ≤ hi) : Memory.wfFrom lo m = true := by
  cases m with
  | nil => rfl
  | cons p r =>
    obtain ⟨k, b⟩ := p
    simp only [Memory.wfFrom, Bool.and_eq_true, decide_eq_true_eq] at h ⊢
    exact ⟨⟨by omega, h.1.2⟩, h.2⟩

theorem memGet_below {m : List Host.Cell} {lo a : Nat} (h : Memory.wfFrom lo m = true) (ha : a < lo) : memGet m a = unlisted := by
  cases m with
  | nil => rfl
  | cons p r =>
    obtain ⟨k, b⟩ := p
    simp only [Memory.wfFrom, Bool.and_eq_true, decide_eq_true_eq] at h
    have h1 : a ≠ k := by omega
    have h2 : a < k := by omega
    simp [memGet, h1, h2]

theorem wfFrom_memPut {m : List Host.Cell} {lo a : Nat} (b : Byte) (h : Memory.wfFrom lo m = true) (ha : lo ≤ a) :
    Memory.wfFrom lo (memPut m a b) = true := by
  induction m generalizing lo with
  | nil =>
    by_cases hb : b = unlisted <;> simp [memPut, hb, Memory.wfFrom, ha]
  | cons p r ih =>
    obtain ⟨k, c⟩ := p
    have hw := h
    simp only [Memory.wfFrom, Bool.and_eq_true, decide_eq_true_eq, Bool.not_eq_true', beq_eq_false_iff_ne] at h
    by_cases h1 : a < k
    · by_cases hb : b = unlisted
      · simpa [memPut, h1, hb] using hw
      · have hr : Memory.wfFrom (a + 1) ((k, c) :: r) = true := by
          simp only [Memory.wfFrom, Bool.and_eq_true, decide_eq_true_eq, Bool.not_eq_true', beq_eq_false_iff_ne]
          exact ⟨⟨by omega, h.1.2⟩, h.2⟩
        simp only [memPut, h1, if_true, hb, if_false]
        simp only [Memory.wfFrom, Bool.and_eq_true, decide_eq_true_eq, Bool.not_eq_true', beq_eq_false_iff_ne]
        exact ⟨⟨ha, hb⟩, by simpa [Memory.wfFrom] using hr⟩
    · by_cases h2 : a = k
      · subst h2
        by_cases hb : b = unlisted
        · simpa [memPut, hb] using wfFrom_le h.2 (by omega : lo ≤ a + 1)
        · simp [memPut, hb, Memory.wfFrom, ha, h.2]
      · have := ih h.2 (by omega : k + 1 ≤ a)
        simp [memPut, h1, h2, Memory.wfFrom, h.1.1, h.1.2, this]

theorem memGet_memPut {m : List Host.Cell} {lo : Nat} (a : Nat) (b : Byte) (c : Nat) (h : Memory.wfFrom lo m = true) :
    memGet (memPut m a b) c = if c = a then b else memGet m c := by
  induction m generalizing lo with
  | nil =>
    by_cases hb : b = unlisted
    · simp [memPut, hb, memGet]
    · by_cases hc : c = a <;> simp [memPut, hb, memGet, hc]
  | cons p r ih =>
    obtain ⟨k, d⟩ := p
    simp only [Memory.wfFrom, Bool.and_eq_true, decide_eq_true_eq, Bool.not_eq_true', beq_eq_false_iff_ne] at h
    by_cases h1 : a < k
    · by_cases hb : b = unlisted
      · simp only [memPut, h1, if_true, hb]
        by_cases hc : c = a
        · have h2 : c ≠ k := by omega
          simp [hc ▸ h2, memGet, hc, h1]
        · simp [hc]
      · simp only [memPut, h1, if_true, hb, if_false]
        by_cases hc : c = a
        · simp [memGet, hc]
        · by_cases h2 : c < a
          · have h3 : c ≠ k := by omega
            have h4 : c < k := by omega
            simp [memGet, hc, h2, h3, h4]
          · simp [memGet, hc, h2]
    · by_cases h2 : a = k
      · subst h2
        by_cases hb : b = unlisted
        · simp only [memPut, h1, if_false, if_true, hb]
          by_cases hc : c = a
          · simpa [hc] using memGet_below h.2 (by omega : a < a + 1)
          · by_cases h3 : c < a
            · simpa [memGet, hc, h3] using memGet_below h.2 (by omega : c < a + 1)
            · simp [memGet, hc, h3]
        · by_cases hc : c = a <;> simp [memPut, hb, memGet, hc]
      · simp only [memPut, h1, h2, if_false, memGet, ih h.2]
        by_cases hc : c = a
        · have h3 : c ≠ k := by omega
          have h4 : ¬ c < k := by omega
          simp [hc ▸ h3, hc]
          omega
        · simp [hc]

/-! Runs of bytes -/

theorem memRead_length (m : List Host.Cell) (a n : Nat) : (memRead m a n).length = n := by
  induction n generalizing a with
  | zero => rfl
  | succ n ih => simp [memRead, ih]

theorem memRead_congr {m m' : List Host.Cell} {a n : Nat} (h : ∀ x, a ≤ x → x < a + n → memGet m x = memGet m' x) :
    memRead m a n = memRead m' a n := by
  induction n generalizing a with
  | zero => rfl
  | succ n ih =>
    simp only [memRead, h a (by omega) (by omega)]
    rw [ih (fun x h1 h2 => h x (by omega) (by omega))]

theorem memWrite_wf {m : List Host.Cell} (a : Nat) (bs : List Byte) (h : Memory.wf m = true) : Memory.wf (memWrite m a bs) = true := by
  induction bs generalizing m a with
  | nil => exact h
  | cons b r ih => exact ih (a + 1) (wfFrom_memPut b h (by omega))

/-- Bytes outside a write read as before. -/
theorem memGet_memWrite_out {m : List Host.Cell} {a : Nat} {bs : List Byte} (h : Memory.wf m = true) {c : Nat}
    (hc : c < a ∨ a + bs.length ≤ c) : memGet (memWrite m a bs) c = memGet m c := by
  induction bs generalizing m a with
  | nil => rfl
  | cons b r ih =>
    simp only [List.length_cons] at hc
    have h1 : c ≠ a := by omega
    rw [memWrite, ih (wfFrom_memPut b h (by omega)) (by omega), memGet_memPut _ _ _ h]
    simp [h1]

/-- A read of what has just been written gives the bytes written. -/
theorem memRead_memWrite {m : List Host.Cell} (a : Nat) (bs : List Byte) (h : Memory.wf m = true) :
    memRead (memWrite m a bs) a bs.length = bs := by
  induction bs generalizing m a with
  | nil => rfl
  | cons b r ih =>
    have hw := wfFrom_memPut b h (by omega : 0 ≤ a)
    simp only [List.length_cons, memRead, memWrite]
    rw [memGet_memWrite_out hw (by omega), memGet_memPut _ _ _ h, ih (a + 1) hw]
    simp

theorem memRead_memWrite_out {m : List Host.Cell} {a c n : Nat} {bs : List Byte} (h : Memory.wf m = true)
    (hc : c + n ≤ a ∨ a + bs.length ≤ c) : memRead (memWrite m a bs) c n = memRead m c n :=
  memRead_congr (fun x h1 h2 => memGet_memWrite_out h (by omega))

/-- Memories in the form that read alike are equal. -/
theorem wf_ext {m m' : List Host.Cell} {lo : Nat} (h : Memory.wfFrom lo m = true) (h' : Memory.wfFrom lo m' = true)
    (e : ∀ a, memGet m a = memGet m' a) : m = m' := by
  induction m generalizing lo m' with
  | nil =>
    cases m' with
    | nil => rfl
    | cons p r =>
      obtain ⟨k, b⟩ := p
      simp only [Memory.wfFrom, Bool.and_eq_true, decide_eq_true_eq, Bool.not_eq_true', beq_eq_false_iff_ne] at h'
      have := e k
      simp only [memGet, if_true] at this
      exact absurd this.symm h'.1.2
  | cons p r ih =>
    obtain ⟨k, b⟩ := p
    simp only [Memory.wfFrom, Bool.and_eq_true, decide_eq_true_eq, Bool.not_eq_true', beq_eq_false_iff_ne] at h
    cases m' with
    | nil =>
      have := e k
      simp only [memGet, if_true] at this
      exact absurd this h.1.2
    | cons q r' =>
      obtain ⟨j, c⟩ := q
      simp only [Memory.wfFrom, Bool.and_eq_true, decide_eq_true_eq, Bool.not_eq_true', beq_eq_false_iff_ne] at h'
      have hk := e k
      have hj := e j
      simp only [memGet, if_true] at hk hj
      have hkj : k = j := by
        rcases Nat.lt_trichotomy k j with g | g | g
        · have n1 : k ≠ j := by omega
          simp only [n1, if_false, g, if_true] at hk
          exact absurd hk h.1.2
        · exact g
        · have n1 : j ≠ k := by omega
          simp only [n1, if_false, g, if_true] at hj
          exact absurd hj.symm h'.1.2
      subst hkj
      simp only [if_true] at hk
      subst hk
      have : r = r' := ih h.2 h'.2 (fun a => by
        by_cases ha : a < k + 1
        · rw [memGet_below h.2 ha, memGet_below h'.2 ha]
        · have := e a
          have n1 : a ≠ k := by omega
          have n2 : ¬ a < k := by omega
          simpa [memGet, n1, n2] using this)
      rw [this]

theorem wfFrom_filter {m : List Host.Cell} {lo : Nat} (p : Host.Cell → Bool) (h : Memory.wfFrom lo m = true) :
    Memory.wfFrom lo (m.filter p) = true := by
  induction m generalizing lo with
  | nil => rfl
  | cons q r ih =>
    obtain ⟨k, b⟩ := q
    simp only [Memory.wfFrom, Bool.and_eq_true, decide_eq_true_eq] at h
    by_cases hp : p (k, b) = true
    · simp only [List.filter_cons, hp, if_true, Memory.wfFrom, Bool.and_eq_true, decide_eq_true_eq]
      exact ⟨h.1, ih h.2⟩
    · simp only [List.filter_cons, hp]
      exact wfFrom_le (ih h.2) (by omega)

/-! What the operations of the device do to memory -/

/-- What a write inside one line leaves as memory. -/
theorem writeLine_mem (s : State) (w : Option Nat) (kv a : Nat) (bs : List Byte) :
    (writeLine s w kv a bs).mem = memWrite s.mem a bs ∨
    ∃ l, (writeLine s w kv a bs).mem = memWrite (memWrite s.mem (a / 128 * 128) l) a bs ∧ l.length = 128 := by
  unfold writeLine
  dsimp only
  split
  · split
    · split
      · exact .inl rfl
      · refine .inr ⟨_, rfl, ?_⟩
        have : ∀ (t : State) (kv a n : Nat), (plainBytes t kv a n).length = n := by
          intro t kv a n
          induction n generalizing a with
          | zero => rfl
          | succ n ih => simp [plainBytes, ih]
        exact this _ _ _ _
    · exact .inl rfl
  · exact .inl rfl

theorem writeLine_wf (s : State) (w : Option Nat) (kv a : Nat) (bs : List Byte) (h : s.Inv) : (writeLine s w kv a bs).Inv := by
  rcases writeLine_mem s w kv a bs with e | ⟨l, e, -⟩
  · unfold State.Inv
    rw [e]
    exact memWrite_wf _ _ h
  · unfold State.Inv
    rw [e]
    exact memWrite_wf _ _ (memWrite_wf _ _ h)

theorem freshCtxs_mem (old s : State) : (freshCtxs old s).mem = s.mem := by
  unfold freshCtxs
  generalize List.range 64 = l
  suffices ∀ t : State, (l.foldl (fun st i => if !entryValid old i && entryValid st i then freshCtx st i else st) t).mem = t.mem from this s
  intro t
  induction l generalizing t with
  | nil => rfl
  | cons i r ih =>
    rw [List.foldl_cons, ih]
    split <;> rfl

theorem foldl_inv {α : Type} {f : State → α → State} (hf : ∀ s x, s.Inv → (f s x).Inv) (l : List α) (s : State) (h : s.Inv) : (l.foldl f s).Inv := by
  induction l generalizing s with
  | nil => exact h
  | cons x r ih => exact ih _ (hf s x h)

/-- A state whose memory is that of one that keeps the form keeps it. -/
theorem Inv.of_mem {s t : State} (h : s.Inv) (e : t.mem = s.mem) : t.Inv := by
  unfold State.Inv
  rw [e]
  exact h

theorem homeWrite_inv (s : State) (w : Option Nat) (kv a : Nat) (bs : List Byte) (h : s.Inv) : (homeWrite s w kv a bs).Inv := by
  have h1 := foldl_inv (f := fun st (p : Nat × Nat) => writeLine st w kv p.1 ((bs.drop (p.1 - a)).take p.2))
    (fun st p hs => writeLine_wf st w kv p.1 _ hs) (linePieces a bs.length) s h
  unfold homeWrite
  split
  · exact Inv.of_mem h1 (freshCtxs_mem _ _)
  · exact h1

theorem perform_inv (s : State) (v : Nat) (e : WbEnt) (h : s.Inv) : (perform s v e).Inv := by
  unfold perform
  dsimp only
  split
  · exact Inv.of_mem h (postDeferred_mem _ _ _ _ _)
  · split
    · exact Inv.of_mem h (postDeferred_mem _ _ _ _ _)
    · exact Inv.of_mem (homeWrite_inv s _ _ _ _ h) (updCore_mem _ _ _)

theorem drainCore_inv (s : State) (v : Nat) (h : s.Inv) : (drainCore s v).Inv := by
  unfold drainCore
  simp only
  split
  · exact h
  · exact foldl_inv (fun st e hs => perform_inv st v e hs) _ _ (Inv.of_mem h (setCore_mem _ _ _))

theorem drainSome_inv (s : State) (v : Nat) (p : WbEnt → Bool) (h : s.Inv) : (drainSome s v p).Inv := by
  unfold drainSome
  dsimp only
  split
  · exact foldl_inv (fun st e hs => perform_inv st v e hs) _ _ (Inv.of_mem h (setCore_mem _ _ _))
  · exact h

theorem drainAll_inv (s : State) (h : s.Inv) : (drainAll s).Inv := foldl_inv (fun st p hs => drainCore_inv st p.1 hs) _ _ h

theorem clearMem_inv (s : State) (lo hi : Nat) (h : s.Inv) : (clearMem s lo hi).Inv := wfFrom_filter _ h

theorem withFetchWord_inv (s : State) (nbits w : Nat) (h : s.Inv) : (s.withFetchWord nbits w).Inv := memWrite_wf _ _ h

theorem reset_inv : State.reset.Inv := rfl

theorem bringUp_mem (s : State) (b : BootInput) : (bringUp s b).mem = s.mem := by
  unfold bringUp
  dsimp only
  suffices ∀ (f : State → Nat × BitVec 16 → State) (l : List (Nat × BitVec 16)) (t : State), (∀ t e, (f t e).mem = t.mem) →
      (l.foldl f t).mem = t.mem from this _ _ _ (fun t e => rfl)
  intro f l
  induction l with
  | nil => intro t _; rfl
  | cons e r ih => intro t h; rw [List.foldl_cons, ih _ h, h]

theorem deviceReset_inv (b : BootInput) (s t : State) (h : s.Inv) (e : execDeviceReset b s = .next t) : t.Inv := by
  unfold execDeviceReset at e
  cases e
  split
  · exact Inv.of_mem h (bringUp_mem _ _)
  · exact h

theorem powerLoss_inv (torn : Bool) (s t : State) (e : execPowerLoss torn s = .next t) : t.Inv := by
  unfold execPowerLoss at e
  cases e
  rfl

/-! A write at a home that lies inside one line -/

theorem linePieces_one {a n : Nat} (hn : n ≠ 0) (h : a / 128 = (a + n - 1) / 128) : linePieces a n = [(a, n)] := by
  simp [linePieces, hn, h]

theorem homeWrite_mem (s : State) (w : Option Nat) (kv a : Nat) (bs : List Byte) (hn : bs ≠ []) (h : a / 128 = (a + bs.length - 1) / 128) :
    (homeWrite s w kv a bs).mem = (writeLine s w kv a bs).mem := by
  have hl : bs.length ≠ 0 := by simpa using hn
  unfold homeWrite
  rw [linePieces_one hl h]
  simp only [List.foldl_cons, List.foldl_nil, Nat.sub_self, List.drop_zero, List.take_length]
  split
  · exact freshCtxs_mem _ _
  · rfl

/-- Every byte outside the line that is written reads as before. -/
theorem homeWrite_out (s : State) (w : Option Nat) (kv a : Nat) (bs : List Byte) (hs : s.Inv) (h : a / 128 = (a + bs.length - 1) / 128) {c : Nat}
    (hc : c / 128 ≠ a / 128) : memGet (homeWrite s w kv a bs).mem c = memGet s.mem c := by
  by_cases hn : bs = []
  · subst hn
    unfold homeWrite
    simp only [List.length_nil, linePieces, if_true, List.foldl_nil]
    split
    · rw [freshCtxs_mem]
    · rfl
  · have hl : 0 < bs.length := List.length_pos_iff.mpr hn
    rw [homeWrite_mem s w kv a bs hn h]
    rcases writeLine_mem s w kv a bs with e | ⟨l, e, el⟩
    · rw [e]
      exact memGet_memWrite_out hs (by omega)
    · rw [e, memGet_memWrite_out (memWrite_wf _ _ hs) (by omega)]
      exact memGet_memWrite_out hs (by omega)

/-- What is read at a home after a write there, outside device memory. -/
theorem homeRead_homeWrite_sram (s : State) (w : Option Nat) (kv a : Nat) (bs : List Byte) (hs : s.Inv) (ha : isHbm a = false) (hn : bs ≠ [])
    (h : a / 128 = (a + bs.length - 1) / 128) : homeRead (homeWrite s w kv a bs) kv a bs.length = bs := by
  have e : (homeWrite s w kv a bs).mem = memWrite s.mem a bs := by
    rw [homeWrite_mem s w kv a bs hn h]
    simp [writeLine, ha, noteAll]
  simp only [homeRead, ha, Bool.false_eq_true, if_false, e]
  exact memRead_memWrite a bs hs

end Sys2Proof.Machine
end

