-- ==== Sys2Proof/Tests/Slice0.lean ====
section
/-!
SUPPORT. Small tests: ill-formed terms that the checks refuse, words written out from the encodings, a concrete state for the
hypotheses of every statement, and single steps with values worked out from the rules of spec/.
-/
namespace Sys2Proof.Tests

set_option Elab.async false

open Sys2Proof Sys2Proof.Machine

/-- A fact that evaluation decides. -/
theorem checked {p : Prop} (h : p := by decide +kernel) : p := h

/-! Small states. -/

/-- Cells of memory from `a` on that hold the doublewords `l`. -/
def putDw (m : List Host.Cell) (a : Nat) (l : List Nat) : List Host.Cell := memWrite m a (l.flatMap (leBytes 8))

/-- A valid key in slot 0. -/
def slot0 : KeySlot := ⟨7, true, 0, false, false⟩

/-- Context 1: its entry at 0x1040, its record at 0x2000, no stage 2, no heap. Stage 1 maps the first GiB plainly, the second as
sync pages and the third to node 3, all to level U. -/
def tables : List Host.Cell :=
  putDw (putDw (putDw (putDw [] 0x1040 [2 ^ 63 + 0x2000, 0, 0]) 0x2000 [0x3000, 0, 0, 0, 0, 0, 0, 0]) 0x3000 [0x4001])
    0x4000 [0x21F, 0x400002B7, 0x80000337 + 3 * 2 ^ 54]

/-- A core that runs a program of context 1 at level U. -/
def user : State := { State.reset with
  core := { State.reset.core with priv := .u, ctx := 1 }, mem := tables, ctxtab := 0x1000, keys := [(0, slot0)] }

/-- A core at level K of the same context. -/
def sup : State := { user with core := { user.core with priv := .k } }

def regs (s : State) (l : List (Nat × Nat)) : State :=
  { s with core := l.foldl (fun c p => c.setG p.1 (BitVec.ofNat 64 p.2)) s.core }

def vregs (s : State) (l : List (Nat × Nat)) : State :=
  { s with core := l.foldl (fun c p => c.setV p.1 (BitVec.ofNat 512 p.2)) s.core }

/-- The first iteration of an instruction without a repeat. -/
def once : Cont := ⟨0, 0, 0, false⟩

theorem issues {x : Ins} {s : State} {k : Cont} (h : s.core.wins = [] ∧ x.la = 0 ∧ iteration x s.core = some k)
    (q : s.xsts = [] ∧ s.core.ssb = none := by exact ⟨rfl, rfl⟩) : Issues x s k :=
  ⟨h.1, h.2.1, h.2.2, by unfold Sent; rw [q.1]; rfl, by rw [q.2]; simp⟩

/-- What an operation answers. -/
def ans {α : Type} (d : α) (r : Except Trap (α × State)) : α × State :=
  match r with
  | .ok p => p
  | .error _ => (d, State.reset)

def place0 : Loc := { at_ := 0, place := .store }


def isOk {α : Type} (r : Except Trap (α × State)) : Bool :=
  match r with
  | .ok _ => true
  | .error _ => false

theorem ok {α : Type} {d : α} {r : Except Trap (α × State)} (h : isOk r = true) : r = .ok (ans d r) := by
  cases r with
  | ok p => rfl
  | error t => cases h

theorem ok2 {α : Type} {d : α} {r : Except Trap (α × State)} (h : isOk r = true) : r = .ok ((ans d r).1, (ans d r).2) := ok h

theorem okU {r : Except Trap (Unit × State)} (h : isOk r = true) : r = .ok ((), (ans () r).2) := by
  cases r with
  | ok p => rfl
  | error t => cases h

/-- The trap of an operation that has none. -/
def err {α : Type} (r : Except Trap (α × State)) : Trap :=
  match r with
  | .ok _ => { code := 0 }
  | .error t => t

theorem bad {α : Type} {r : Except Trap (α × State)} (h : isOk r = false) : r = .error (err r) := by
  cases r with
  | ok p => cases h
  | error t => rfl

/-- Of an outcome's next state. -/
def after (r : Host.Outcome State Fault Refusal) : State :=
  match r with
  | .next s => s
  | _ => State.reset

/-- An operation that answers `true`. -/
theorem okT {r : Except Trap (Bool × State)} (h : (isOk r && (ans false r).1) = true) : r = .ok (true, (ans false r).2) := by
  cases r with
  | ok p =>
    obtain ⟨b, t⟩ := p
    cases b with
    | true => rfl
    | false => cases h
  | error t => cases h

/-! Ill-formed terms: one for each check of WellFormed. -/

theorem ill_rr : (Instr.wf (.add ⟨none, 16, 1, none⟩) = false ∧ Instr.wf (.add ⟨none, 1, 16, none⟩) = false) ∧
    Instr.wf (.clz ⟨none, 1, 2, some 3⟩) = false ∧ Instr.wf (.add ⟨some ⟨49, 1⟩, 15, 1, none⟩) = false ∧
    Instr.wf (.add ⟨some ⟨3, 4⟩, 1, 1, none⟩) = false := by decide

theorem ill_ri : Instr.wf (.addi ⟨none, false, 16, ⟨0, 0⟩⟩) = false ∧ Instr.wf (.addi ⟨none, false, 1, ⟨0, 256⟩⟩) = false ∧
    Instr.wf (.addi ⟨none, false, 1, ⟨5, 0⟩⟩) = false ∧ Instr.wf (.slli ⟨none, false, 1, ⟨1, 64⟩⟩) = false ∧
    Instr.wf (.li ⟨some ⟨0, 2⟩, false, 1, ⟨0, 1⟩⟩) = false ∧ Instr.wf (.addi ⟨some ⟨0, 0⟩, true, 1, ⟨3, 0⟩⟩) = false := by decide

theorem ill_mov : Instr.wf (.mov ⟨none, false, 16, 1⟩) = false ∧ Instr.wf (.mov ⟨none, false, 1, 32⟩) = false ∧
    Instr.wf (.mov ⟨some ⟨60, 1⟩, true, 4, 1⟩) = false := by decide

theorem ill_branch : Instr.wf (.j ⟨0, 2048⟩) = false ∧ Instr.wf (.call ⟨5, 0⟩) = false ∧ Instr.wf (.beqz ⟨1, ⟨0, 64⟩⟩) = false ∧
    Instr.wf (.beq ⟨1, 2, ⟨0, 64⟩⟩) = false ∧ Instr.wf (.blt ⟨1, 2, ⟨4, 0⟩⟩) = false := by decide

theorem ill_mem : Instr.wf (.ld ⟨none, false, 0, 16, 1, 3, 0, 0, ⟨0, 0⟩⟩) = false ∧ Instr.wf (.ld ⟨none, false, 0, 1, 1, 3, 0, 1, ⟨0, 0⟩⟩) = false ∧
    Instr.wf (.ld ⟨none, false, 0, 1, 1, 3, 3, 0, ⟨0, 0⟩⟩) = false ∧ Instr.wf (.lds ⟨none, false, 0, 1, 1, 3, 0, 0, ⟨0, 0⟩⟩) = false ∧
    Instr.wf (.st ⟨none, false, 0, 1, 1, 3, 1, 3, ⟨0, 0⟩⟩) = false := by decide

theorem ill_fullEmpty : Instr.wf (.ldWf ⟨none, false, 1, 1, 1, ⟨0, 0⟩⟩) = false ∧ Instr.wf (.stSf ⟨none, false, 0, 1, 16, ⟨0, 0⟩⟩) = false ∧
    Instr.wf (.feWithdraw 0) = false := by decide

theorem ill_vector : Instr.wf (.vfma ⟨none, none, 1, 2, none⟩) = false ∧ Instr.wf (.vadd ⟨none, none, 32, 2, some 1⟩) = false ∧
    Instr.wf (.vceq ⟨none, none, 8, 2, some 1⟩) = false ∧ Instr.wf (.vadd ⟨none, some ⟨1, false, 1⟩, 1, 2, none⟩) = false ∧
    Instr.wf (.vredadd ⟨none, some ⟨1, true, 0⟩, 1, 2, none⟩) = false ∧ Instr.wf (.vcvtBf16F32 ⟨none, some ⟨1, false, 5⟩, 1, 2, some 3⟩) = false ∧
    Instr.wf (.vcvtE4m3F32 ⟨none, none, 1, 2, some 4⟩) = false ∧ Instr.wf (.vceq ⟨some ⟨1, 1⟩, none, 1, 2, some 1⟩) = false := by decide

theorem ill_mask : Instr.wf (.kand ⟨8, 1, some 1⟩) = false ∧ Instr.wf (.kand ⟨1, 1, some 8⟩) = false ∧ Instr.wf (.knot ⟨1, 1, some 1⟩) = false := by decide

theorem ill_vectorMemory : Instr.wf (.vgath ⟨none, none, 0, 1, 2, none, 0, 0, ⟨0, 0⟩⟩) = false ∧
    Instr.wf (.vld ⟨none, none, 0, 1, 2, some 1, 0, 0, ⟨0, 0⟩⟩) = false ∧
    Instr.wf (.vlds ⟨some ⟨1, 4⟩, none, 0, 1, 2, some 1, 0, 0, ⟨0, 0⟩⟩) = false := by decide

theorem ill_atomic : Instr.wf (.acas ⟨0, 1, 2, false, 0, 0, 3, none⟩) = false ∧ Instr.wf (.aadd ⟨0, 1, 2, false, 0, 3, 3, none⟩) = false ∧
    Instr.wf (.afadd ⟨0, 1, 2, true, 0, 0, 3, none⟩) = false ∧ Instr.wf (.axread ⟨0, 1, 2, false, 0, 0, 3, none⟩) = false := by decide

theorem ill_array : Instr.wf (.mzero ⟨0, false, 16, true⟩) = false ∧ Instr.wf (.mzeroA ⟨0, false, 1, true⟩) = false ∧
    Instr.wf (.mdrain ⟨none, 0, 1, 2, true, 5, true⟩) = false ∧ Instr.wf (.mdrain ⟨some ⟨1, false, 0⟩, 0, 1, 2, true, 0, true⟩) = false ∧
    Instr.wf (.mdrain ⟨some ⟨0, false, 1⟩, 0, 1, 2, true, 1, true⟩) = false := by decide

theorem ill_engine : Instr.wf (.tread ⟨0, false, 16, 1, 0, 0, 0, 0, 0, 0⟩) = false ∧ Instr.wf (.tread ⟨0, false, 1, 1, 16, 0, 0, 0, 0, 0⟩) = false ∧
    Instr.wf (.sscan ⟨0, false, 1, 1, 1, 0, 0, 0, 0, 0⟩) = false ∧ Instr.wf (.tcopy ⟨0, false, 1, 1, 0, 1, 64, 0, 0, 0⟩) = false := by decide

theorem ill_task : Instr.wf (.spawn ⟨0, false, 1, 62, 1, 0⟩) = false ∧ Instr.wf (.spawn ⟨0, false, 1, 1, 1, 4⟩) = false ∧
    Instr.wf (.fnew ⟨0, false, 0, 0, 0, 0⟩) = false ∧ Instr.wf (.touch ⟨1, false, 1, 2, 0, 0⟩) = false ∧
    Instr.wf (.resolve ⟨0, false, 1, 2, 3, 0⟩) = false ∧ Instr.wf (.fnew ⟨0, false, 1, 1, 0, 0⟩) = false ∧
    Instr.wf (.town ⟨0, false, 1, 1, 1, 0⟩) = false := by decide

theorem ill_system : Instr.wf (.gbarAnd ⟨1, false, 1, 2, 0⟩) = false ∧ Instr.wf (.gbarNone ⟨0, false, 1, 0, 0⟩) = false ∧
    Instr.wf (.xstV ⟨0, false, 0, 32, 1⟩) = false ∧ Instr.wf (.cflushLine ⟨0, false, 0, 1, 1⟩) = false ∧
    Instr.wf (.trace ⟨0, true, 1, 2, 0⟩) = false ∧ Instr.wf (.csrw ⟨1, false, 1, 0⟩) = false ∧ Instr.wf (.csrr ⟨0, false, 16, 0⟩) = false := by decide

theorem ill_step : Instr.wf .takeEvent = false ∧ Instr.wf (.wake 0) = false ∧ Instr.wf .darkInterval = false := by decide

/-! Words written out from 02 R21 to R55 and the tables that they name. -/

/-- 02 R30, the worked example `addi g5, -1000`, bytes FC F1 18 25. -/
theorem word_addi : decode [0xFC, 0xF1, 0x18, 0x25] = .ok (.addi ⟨none, false, 5, ⟨1, 0x1FC18⟩⟩) 2 ∧ ImmF.sval 8 ⟨1, 0x1FC18⟩ = -1000 := by decide

/-- 02 R57, the worked example `vfma v3, v20, v7 ?k2z`, its prefixes in both orders, and a set bit [6]. -/
theorem word_vfma : decode [0x27, 0xF2, 0xA0, 0xF4, 0x43, 0x63] = .ok (.vfma ⟨none, some ⟨2, true, 0⟩, 3, 20, some 7⟩) 3 ∧
    decodeParcels [0xF4A0, 0xF227, 0x6343] = .ok (.vfma ⟨none, some ⟨2, true, 0⟩, 3, 20, some 7⟩) 3 ∧
    decodeParcels [0xF267, 0xF4A0, 0x6343] = .bad 0x6343 ∧ decodeParcels [0xF4A0, 0x6343] = .bad 0x6343 := by decide

/-- M 0x0: `fence` of scope 10 and kind 01, `jr g37`, `rdcyc g9`. -/
theorem word_control : decodeParcels [0x0190] = .ok (.fence ⟨2, 1⟩) 1 ∧ decodeParcels [0x0A25] = .ok (.jr 37) 1 ∧
    decodeParcels [0x0709] = .ok (.rdcyc 9) 1 := by decide

/-- M 0x3, 0x4, 0x5: `mov g2, g40`, `li g3, -1`, `call`, `bge g2, g7`. -/
theorem word_immediate : decodeParcels [0xF220, 0x32E8] = .ok (.mov ⟨none, true, 2, 40⟩) 2 ∧
    decodeParcels [0x33DF] = .ok (.li ⟨none, false, 3, ⟨0, 31⟩⟩) 1 ∧ decodeParcels [0x4803] = .ok (.call ⟨0, 3⟩) 1 ∧
    decodeParcels [0xF207, 0x52C1] = .ok (.bge ⟨2, 7, ⟨0, 1⟩⟩) 2 := by decide

/-- Pages 3 to 6: `vext`, `vqcb`, `popc`, `kfirst`. -/
theorem word_pages : decodeParcels [0xF603, 0xF205, 0x7230] = .ok (.vext ⟨none, none, 2, 3, some 5⟩) 3 ∧
    decodeParcels [0xF604, 0xF20A, 0x623C] = .ok (.vqcb ⟨none, none, 2, 3, some 10⟩) 3 ∧
    decodeParcels [0xF605, 0x1236] = .ok (.popc ⟨none, 2, 3, none⟩) 2 ∧ decodeParcels [0xF606, 0x7237] = .ok (.kfirst ⟨2, 3, none⟩) 2 := by decide

/-- M 0x8 and 0x9: `st.w` with release at device scope, `ld.take`, `vldf`, `vscat` with v5. -/
theorem word_memory : decodeParcels [0x8056, 0xA0BF] = .ok (.st ⟨none, false, 0, 5, 6, 2, 1, 1, ⟨0, 31⟩⟩) 2 ∧
    decodeParcels [0x8056, 0xC400] = .ok (.ldTake ⟨none, false, 0, 5, 6, ⟨0, 0⟩⟩) 2 ∧
    decodeParcels [0x9034, 0xC000] = .ok (.vldf ⟨none, none, 0, 3, 4, none, 0, 0, ⟨0, 0⟩⟩) 2 ∧
    decodeParcels [0xF205, 0x9034, 0xA001] = .ok (.vscat ⟨none, none, 0, 3, 4, some 5, 0, 0, ⟨0, 1⟩⟩) 3 := by decide

/-- M 0xA: `acas` of a doubleword, acquire and release at device scope, with g8. -/
theorem word_atomic : decodeParcels [0xF208, 0xA056, 0x4F47] = .ok (.acas ⟨0, 5, 6, true, 3, 1, 7, some 8⟩) 3 := by decide

/-- M 0xB: `mldb`, `mmul`, `mdrain`, `mpred` of mc, `mcorr` of a slot. -/
theorem word_array : decodeParcels [0xB014, 0x8680] = .ok (.mldb ⟨0, false, 4, 2, 3, 1⟩) 2 ∧
    decodeParcels [0xF209, 0xB034, 0xC530] = .ok (.mmul ⟨0, 4, 9, true, 2, 5, 6⟩) 3 ∧
    decodeParcels [0xF209, 0xB044, 0x1800] = .ok (.mdrain ⟨none, 0, 4, 9, false, 1, true⟩) 3 ∧
    decodeParcels [0xB054, 0x4000] = .ok (.mpredMc ⟨0, false, 4⟩) 2 ∧ decodeParcels [0xB084, 0x3000] = .ok (.mcorrCol ⟨0, false, 4, 1⟩) 2 := by decide

/-- M 0xC: `tread` with a substituted P1 (g9) and `sscan`, with their parameter words low parcel first. -/
theorem word_engine :
    decodeParcels [0xC015, 0x1802, 0x2345, 0x0001, 9, 0, 0x1111, 0x2222, 0x3333, 0x4444] =
      .ok (.tread ⟨0, false, 5, 6, 0, 2, 0x12345, 9, 0x22221111, 0x44443333⟩) 10 ∧
    decodeParcels [0xC065, 0x1800, 1, 0, 2, 0, 3, 0, 4, 0] = .ok (.sscan ⟨0, false, 5, 6, 0, 0, 1, 2, 3, 4⟩) 10 := by decide

/-- M 0xD: `spawn`, `tpoll`, `glaunch`. -/
theorem word_task : decodeParcels [0xD005, 0x2831] = .ok (.spawn ⟨0, false, 5, 10, 3, 1⟩) 2 ∧
    decodeParcels [0xD025, 0x2830] = .ok (.tpoll ⟨0, false, 5, 10, 3, 0⟩) 2 ∧
    decodeParcels [0xD0D5, 0x2800] = .ok (.glaunch ⟨0, false, 5, 10, 0, 0⟩) 2 := by decide

/-- M 0xE: `gbar.max`, `csrw`, `tlbi.ctx`, `cflush.wb`, and a reserved op. -/
theorem word_system : decodeParcels [0xE005, 0x2805] = .ok (.gbarMax ⟨0, false, 5, 10, 0⟩) 2 ∧
    decodeParcels [0xE055, 0x1010] = .ok (.csrw ⟨0, false, 5, 0x101⟩) 2 ∧ decodeParcels [0xE090, 0x0031] = .ok (.tlbiCtx ⟨0, false, 0, 0, 3⟩) 2 ∧
    decodeParcels [0xE0A0, 0x0002] = .ok (.cflushWb ⟨0, false, 0, 0, 0⟩) 2 ∧ decodeParcels [0xE0B0, 0] = .bad 0xE0B0 := by decide

/-- 02 R56: a fifth prefix, a second REG and a reserved kind are illegal by themselves. -/
theorem word_prefixes : decodeParcels [0xF000, 0xF000, 0xF000, 0xF000, 0xF001] = .bad 0xF001 ∧ decodeParcels [0xF200, 0xF201] = .bad 0xF201 ∧
    decodeParcels [0xFFFF] = .bad 0xFFFF := by decide

/-! States and operands that meet the hypotheses of the statements. -/

/-- Every instruction without lookahead and without a repeat issues on a fresh core (ScalarOperations, CounterReads,
ControlTransfers, VectorInteger, LanesAndMasks and every other statement that asks for `Issues` and a state's own facts). -/
theorem issues_user (x : Ins) (hl : x.la = 0) (hr : x.rep = none) : Issues x user once := by
  refine ⟨rfl, hl, ?_, rfl, by simp [user, State.reset, Core.fresh]⟩
  simp [iteration, hr, user, State.reset, Core.fresh, once]

/-- The same of a core after its registers have been given values. -/
theorem issues_of {s : State} (x : Ins) (hl : x.la = 0) (hr : x.rep = none) (hw : s.core.wins = []) (hc : s.core.cont = none)
    (hx : s.xsts = []) (hb : s.core.ssb = none) : Issues x s once := by
  refine ⟨hw, hl, ?_, by unfold Sent; rw [hx]; rfl, by rw [hb]; simp⟩
  simp [iteration, hr, hc, once]

/-- An instruction under a repeat: its first iteration, its third of four, and the second of a repeat that a return resumes. -/
theorem issues_repeat (d s : BitVec 6) : let o : RR := ⟨some ⟨3, 3⟩, d, s, none⟩
    let x := rrIns (encRR none 0 o) false o
    Issues x user ⟨0, 3, 3, false⟩ ∧ Issues x { user with core := { user.core with cont := some ⟨2, 3, 3, false⟩ } } ⟨2, 3, 3, false⟩ := by
  refine ⟨⟨rfl, rfl, rfl, rfl, rfl⟩, ⟨rfl, rfl, rfl, rfl, rfl⟩⟩

theorem issues_resumed : let o : RR := ⟨some ⟨3, 3⟩, 10, 20, none⟩
    let x := rrIns (encRR none 0 o) false o
    Issues x { user with core := { user.core with afterRett := true, rep := ⟨3, 1, 3⟩ } } ⟨1, 3, 3, true⟩ := issues checked

/-- ControlTransfers: a branch either way, a code pointer, a full return stack with a place to spill to, an empty one with an entry to read
back, one without any entry, and an odd return address. -/
theorem witness_branches : user.core.getG 3 = 0 ∧ ¬ (regs user [(3, 2 ^ 63)]).core.getG 3 = 0 ∧
    ((regs user [(3, 2 ^ 63)]).core.getG 3).toInt < 0 := by
  decide +kernel
theorem witness_pointer : codePointer (0x1FC0000000005000 : Word) ∧ ¬ codePointer (0x5001 : Word) := by unfold codePointer; decide

/-- A core at level H whose return stack spills to the core store. -/
def deep (l : List Addr) (n : BitVec 16) : State :=
  { State.reset with core := { State.reset.core with rstack := l, rsp := 0xFFFFFFFC1000, spilled := n } }

theorem witness_spill : let s := deep (List.replicate 16 0x40) 65534
    let x := Ins.of (encJ 1 ⟨0, 3⟩)
    let r := storeVa s.core.rsp.toNat (leBytes 8 0x40) 0 0 { s with core := begun x s.core }
    Issues x s once ∧ s.core.cont = none ∧ s.core.rstack = 0x40 :: List.replicate 15 0x40 ∧ s.core.spilled.toNat < 65535 ∧
      r = .ok (ans true r) ∧ (ans true r).1 = true :=
  ⟨issues checked, checked, checked, checked, ok checked, checked⟩

theorem witness_refill : let s := deep [] 1
    let r := loadVa (s.core.rsp - 8).toNat 8 0 0 (fun v => .pop v 2) { s with core := begun (zIns 4 0) s.core }
    Issues (zIns 4 0) s once ∧ s.core.rstack = [] ∧ s.core.spilled ≠ 0 ∧ r = .ok (ans none r) ∧ (ans none r).1 = some (List.replicate 8 0) :=
  ⟨issues checked, checked, checked, ok checked, checked⟩

theorem witness_return : let s := deep [0x40, 0x80] 0
    s.core.rstack = [0x40] ++ [0x80] ∧ (0x80 : Addr).getLsbD 0 = false ∧ (deep [] 0).core.spilled = 0 ∧ (0x81 : Addr).getLsbD 0 = true := by
  decide +kernel

/-- Nothing is traced where no descriptor is known and none is given. -/
theorem untraced_of {s : State} (h : s.mgmt.htrdesc = 0) (hx : s.xcsrs = []) : Untraced s := by
  intro b
  unfold bufCtl
  split <;> simp [h, hx, getX, SMap.getD, SMap.find?, XCsr.reset, fld]

/-- TrapAndBreak, Handlers: a cause at U, at K and at H; `brk` with capture armed; `rett` at each level. -/
theorem witness_traps : Untraced user ∧ Untraced sup ∧ Untraced State.reset :=
  ⟨untraced_of rfl rfl, untraced_of rfl rfl, untraced_of rfl rfl⟩

theorem witness_capture : let s : State := { user with
    core := { user.core with task := some ⟨1, 0⟩ }, ctxs := [(1, { Ctx.reset with capture := true })] }
    Untraced s ∧ Issues (zIns 3 255) s once ∧ (getCtx s 1).capture = true ∧ s.core.task.isSome = true ∧ (getCtx user 1).capture = false :=
  ⟨untraced_of rfl rfl, issues checked, checked, checked, checked⟩

theorem witness_rett : (sup.core.priv = .k ∧ sup.core.bar.arrived = false ∧ ¬ (sup.core.mode = .irq ∧ sup.core.status.kpp = false)) ∧
    (State.reset.core.priv = .h ∧ State.reset.core.bar.arrived = false ∧ ¬ (State.reset.core.mode = .irq ∧ State.reset.core.status.hpp = .u)) ∧
    user.core.priv = .u := by decide +kernel

/-- FencesAndSync: no store of the core is outside, none of its exchange stores is on its way. -/
theorem witness_fence : storesOut user user.cur none = false ∧ user.xsts = [] ∧ user.core.cont = none := by decide +kernel

/-- CsrAccesses: a CSR of the core's level read and written, one above it, one that cannot be written, a reserved number, and a value
that breaks the layout of `rep`. -/
theorem witness_csr : csrLevels 0x005 = some (.u, some .u) ∧ (csrPut (started (csrIns 5 ⟨0, false, 5, 5⟩) once user) 0x005 2).isSome = true ∧
    csrLevels 0x202 = some (.h, some .h) ∧ user.core.priv.num < Lvl.h.num ∧ csrLevels 0xFFF = none ∧
    csrPut user 0x005 3 = none ∧ (csrPut sup 0x100 0xE).isSome = true ∧ sup.core.priv ≠ .h ∧ (csrPut State.reset 0x100 0x20).isSome = true := by
  decide +kernel

/-- Vector statements: registers with lanes of either sign, a mask, and no scan. -/
def lanes : State := { vregs (regs user [(5, 3), (6, 20)]) [(1, 0x7F800001800000013F800000BF80000000000000), (2, 0x3F80000040000000)] with
  core := { (vregs (regs user [(5, 3), (6, 20)]) [(1, 0x7F800001800000013F800000BF80000000000000), (2, 0x3F80000040000000)]).core with
    k := (Vector.replicate 8 0).set 2 0xFFFF00AA } }

theorem witness_lanes : Free lanes ∧ isActive (some ⟨2, true, 0⟩) lanes.core 1 = true ∧ isActive (some ⟨2, true, 0⟩) lanes.core 0 = false :=
  ⟨by unfold Free; decide +kernel, checked, checked⟩

/-- 08 R183: a lane that counts and one that does not (a NaN). -/
theorem witness_counts : counts ⟨none, none, 1, 1, none⟩ lanes.core (lanes.core.getV 1) 1 ∧ ¬ counts ⟨none, none, 1, 1, none⟩ lanes.core (lanes.core.getV 1) 4 := by
  unfold counts; decide +kernel

/-- A raised flag that is not enabled, and one that is (VectorArithmetic, VectorConversions). -/
theorem witness_flags : flagsOf ⟨none, none, 1, 1, none⟩ lanes.core 16 (fun i => rounded fp32 (frcp (val fp32 (lanes.core.getV 1) i))) &&& user.core.fenable.toNat = 0 ∧
    flagsOf ⟨none, none, 1, 1, none⟩ lanes.core 16 (fun i => rounded fp32 (frcp (val fp32 (lanes.core.getV 1) i))) &&& 0x1C ≠ 0 := by decide +kernel

/-- VectorWaits: a scan holds the units. -/
def scan0 : Scan := {
  handle := 0, lvl := .u, len := 16, q := 16, n := 16, p := 16, heads := 1, z := false, fp32 := true, pol := 0, thr := 16,
  ptrs := [], strides := [], hstrides := [], head := 0, chunk := 0, h := none, mcount := 0, scount := 0, pc := 0, phase := 0, todo := [], mat := false, stop := 0 }
def scanning : State := { user with core := { user.core with ssb := some scan0 } }
theorem witness_scanning : scanning.core.ssb.isSome = true ∧
    exec (.kand ⟨1, 2, none⟩) scanning = .next { scanning with core := { scanning.core with wait := .issue } } := ⟨rfl, rfl⟩

/-- ExactBeforeRounding: finite values. -/
theorem witness_finite : (FVal.fin true 3 (-149) false).Finite ∧ (FVal.fin false 0 0 false).Finite := ⟨rfl, rfl⟩

/-- CodebookConversions: a task that declares the array, and a core without one. -/
def ty0 : TaskType := ⟨0x40, true, true, 0, 1, 4, 32, 64, []⟩
def member0 : Member := {
  rank := 0, fut := 0, slot := some 0, core := some 0, tiles := [], loads := false, started := true, consult := false,
  touch := false, barPc := 0, ended := false, writing := false, wb := [], result := .resolved, code := 0, value := 0, slots := [] }
def gang0 : Gang := {
  gid := 1, ctx := 1, grid := none, dw0 := 0, arg0 := 0, arg1 := 0, seq := 0, cluster := some 0, home := 0, ty := some ty0, size := 1,
  members := [member0], st := .running, enq := 0, since := 0, queue := 0, aside := false, stopping := 0, touched := 0, held := [], contTile := none,
  parked := false, hadScan := [] }
/-- A core that runs a task of a declared type, alone in its gang. -/
def tasked : State := { user with core := { user.core with task := some ⟨1, 0⟩ }, gangs := [gang0], nextId := 2 }
def plainTask : State := { tasked with gangs := [{ gang0 with ty := some { ty0 with arr := false, ssb := false } }] }
theorem witness_declares : declArr tasked = true ∧ declSsb tasked = true ∧ Free tasked ∧ declArr plainTask = false ∧ declSsb plainTask = false :=
  ⟨checked, checked, rfl, checked, checked⟩

/-- ScalarMemory: a bad pointer, a misaligned address, a page that is not mapped, a load and a store of mapped memory. -/
theorem witness_scalar : plainPointer (0x5008 : Word) ∧ ¬ plainPointer (0x0021000000005008 : Word) ∧
    eaOf (memIns 0 0 ⟨none, false, 0, 5, 4, 3, 0, 0, ⟨0, 31⟩⟩) once 8 (-1) (regs user [(4, 0x5009)]) % 8 ≠ 0 := by
  unfold plainPointer; decide +kernel

theorem witness_load : let o : MemOp := ⟨none, false, 0, 5, 4, 2, 1, 1, ⟨0, 31⟩⟩
    let x := memIns 0 1 o
    let s := regs user [(4, 0x5008)]
    let ea := eaOf x once 4 (o.imm.sval 5) s
    let r := access (started x once s) ea 1
    let q := bankTurn ea (ans place0 r).1 (ans place0 r).2
    let b := loadLoc (ans place0 r).1 4 1 (memScope o.scope) (ans false q).2
    Issues x s once ∧ plainPointer (s.core.getG (sOf x once)) ∧ ea = 0x5004 ∧ r = .ok (ans place0 r) ∧ (ans place0 r).1.place ≠ .remote ∧
      q = .ok (true, (ans false q).2) ∧ b = .ok (ans [] b) :=
  ⟨issues checked, by unfold plainPointer; decide +kernel, checked, ok checked, checked, okT checked,
    ok checked⟩

theorem witness_unmapped : let x := memIns 1 0 ⟨none, false, 0, 5, 4, 3, 0, 0, ⟨0, 0⟩⟩
    let s := regs user [(4, 0x80005000)]
    let r := access (started x once s) (eaOf x once 8 0 s) 2
    r = .error (err r) ∧ (err r).code = 18 := ⟨bad checked, checked⟩

theorem witness_store : let o : MemOp := ⟨none, false, 0, 5, 4, 3, 1, 1, ⟨0, 0⟩⟩
    let x := memIns 1 0 o
    let s := regs user [(4, 0x5008), (5, 77)]
    let ea := eaOf x once 8 0 s
    let r := access (started x once s) ea 2
    let l := (ans place0 r).1
    let s2 := (dirtyLog (ans place0 r).2 1 0 l).getD State.reset
    let w := storeLoc l (leBytes 8 77) 1 (memScope o.scope) (released 1 (memScope o.scope) s2)
    Issues x s once ∧ ea % 8 = 0 ∧ r = .ok (ans place0 r) ∧ l.place ≠ .remote ∧ storesOut (ans place0 r).2 0 none = false ∧
      dirtyLog (ans place0 r).2 1 0 l = some s2 ∧ w = .ok ((), (ans () w).2) :=
  ⟨issues checked, checked, ok checked, checked, checked, checked,
    okU checked⟩

/-- StorePlaces: addresses at the ends of each window, an own tile and a free one, a place written at once and one written later. -/
theorem witness_windows : ownerOk { user with clusters := [(0, { Cluster.reset with owners := [(0, 0)] })] } 0
      (ownerOf { user with clusters := [(0, { Cluster.reset with owners := [(0, 0)] })] } 0 0) = true ∧
    ownerOk user 0 (ownerOf user 0 0) = false ∧ (0xFFFFFFFC0000 : Nat) < 0xFFFFFFFF8000 ∧ (0xFFFFFFFF8000 : Nat) ≤ 2 ^ 48 - 1 := by decide +kernel

theorem witness_atOnce : let l : Loc := { at_ := 2 ^ 42 + 120, place := .pad }
    AtOnce l 8 ∧ user.core.wbuf = [] ∧ Clean user l.at_ 8 := by
  refine ⟨by unfold AtOnce; decide, rfl, fun e h => ?_⟩
  cases h

theorem witness_buffered : let l : Loc := { at_ := 0x5000, place := .hbm, cached := true, kv := 7 }
    l.place = .hbm ∧ l.sync = false ∧ user.core.wbuf.length < 16 ∧ Clean user l.at_ 8 :=
  ⟨rfl, rfl, by decide, fun e h => by cases h⟩

/-- Two stores of the buffer that meet and two that do not (StorePlaces). -/
theorem witness_performed : let e : WbEnt := ⟨0x5000, [1, 2], some 0, 0, true, false⟩
    let f : WbEnt := ⟨0x5001, [3], some 0, 0, true, false⟩
    f ≠ e ∧ f.meets e.pa e.bytes.length = true ∧ e.meets 0x5002 1 = false ∧ e.passes user 0 = true ∧ keyVal user 0 = some 7 ∧
      keyVal { user with keys := [] } 0 = none := by decide +kernel

/-- A store of core 0 to a page of quadrant 1 when the gate between them is locked. -/
theorem witness_locked : let e : WbEnt := ⟨2 ^ 36, [1], some 0, 0x40, true, false⟩
    e.passes { user with parts := ⟨Vector.replicate 8 0 |>.set 1 1, [1, 10]⟩ } 0 = false ∧ e.passes user 0 = true := by decide +kernel

/-- An access to a gang-shared tile, presented in this cycle or before it. -/
def sharing (old : Bool) : State := { tasked with
  cycle := 5, core := { tasked.core with asked := if old then some 4 else none }, clusters := [(0, { Cluster.reset with owners := [(0, 0x10)] })] }
theorem witness_bank : let l : Loc := { at_ := 2 ^ 42, place := .pad }
    gangShared (sharing true) 0 0xFFFFFFC00000 l = true ∧ bankTurn 0xFFFFFFC00000 l (sharing false) =
      .ok (false, { sharing false with core := { (sharing false).core with wait := .bank [0] 5 } }) ∧
    bankTurn 0xFFFFFFC00000 l (sharing true) = .ok (true, bankTake (sharing true) 0 0) := by
  refine ⟨checked, rfl, rfl⟩

/-- FullEmptyWords: a doubleword in device memory that is full, one that is empty, a misaligned one, a window; and a waiting core. -/
def feState (empty : Bool) : State := { regs user [(4, 0x40005008), (5, 9)] with empties := if empty then [0x40005008 / 8] else [] }
theorem witness_fullEmpty : let o : FeOp := ⟨none, false, 0, 5, 4, ⟨0, 0⟩⟩
    let x := feIns 0 1 o
    let s := feState false
    let r := translate (me (started x once s)) (eaOf x once 8 0 s) 1 (started x once s)
    let s3 := drainCore (ans place0 r).2 0
    Issues x s once ∧ plainPointer (s.core.getG (sOf x once)) ∧ eaOf x once 8 0 s % 8 = 0 ∧ eaOf x once 8 0 s < 0xFFFFFFC00000 ∧
      r = .ok (ans place0 r) ∧ (ans place0 r).1.place = .hbm ∧ feFull s3 (ans place0 r).1.at_ = true ∧
      (feHome s3 none 7 (ans place0 r).1.at_ 1 9).2.core.wins = [] ∧ feFull (drainCore (feState true) 0) 0x40005008 = false :=
  ⟨issues checked, by unfold plainPointer; decide +kernel, checked, checked, ok checked,
    checked, checked, checked, checked⟩

def feWaiting : State := { user with
  core := { user.core with wait := .fe (some 5) 4 }, feq := [⟨0x40005008, 1, 0, 7, ⟨1, 0, 0, 0x40005008, 0⟩, some 0, none, false⟩] }
theorem witness_feWaiting : feWaiting.core.wait = .fe (some 5) 4 ∧ feWaiting.feq.any (fun w => w.core == some 0) = true ∧
    (∀ w ∈ feWaiting.feq, w.core = some 0 → overflowLine w.pa ∉ feWaiting.ecc) ∧ stalledSrc feWaiting 0 = false ∧
    ({ feWaiting with feq := [] } : State).feq.any (fun w => w.core == some 0) = false := by decide

/-- VectorMemory: an untyped pointer and an FP16 one, elements checked and read, and the same stored. -/
def fp16Ptr : Nat := 0x5000 + 9 * 2 ^ 48
theorem witness_vectorPointer : vecPointer 0 (vmemIns 0 ⟨none, none, 0, 1, 4, none, 0, 0, ⟨0, 0⟩⟩) once (regs user [(4, 0x5000)]) ∧
    ¬ vecPointer 0 (vmemIns 0 ⟨none, none, 0, 1, 4, none, 0, 0, ⟨0, 0⟩⟩) once (regs user [(4, 2 ^ 48 * 32)]) := by
  unfold vecPointer; decide +kernel

theorem witness_vectorLoad : let o : VMem := ⟨none, some ⟨2, true, 0⟩, 0, 1, 4, none, 0, 0, ⟨0, 0⟩⟩
    let x := vmemIns 0 o
    let s := { lanes with core := lanes.core.setG 4 0xFFFFFFFC1000 }
    let r := checkElems 1 (elemSize 0) (elemsAt 0 o once x s) (started x once s)
    let g := readElems (elemSize 0) 0 (memScope 0) (ans [] r).1 (ans [] r).2
    let w := eccPost (!(ans ([], []) g).1.2.isEmpty) (ans ([], []) g).2
    Issues x s once ∧ Free s ∧ r = .ok (ans [] r) ∧ (∀ e ∈ (ans [] r).1, e.loc.place ≠ .remote) ∧ g = .ok (ans ([], []) g) ∧ w = .ok ((), (ans () w).2) :=
  ⟨issues checked, by unfold Free; decide +kernel, ok checked, checked, ok checked,
    okU checked⟩

theorem witness_vectorStore : let o : VMem := ⟨none, some ⟨2, false, 0⟩, 0, 1, 4, none, 0, 0, ⟨0, 0⟩⟩
    let x := vmemIns 1 o
    let s := { lanes with core := lanes.core.setG 4 0xFFFFFFFC1000 }
    let r := checkElems 2 (elemSize 0) (elemsAt 1 o once x s) (started x once s)
    let s1 := (ans [] r).2
    let es := (ans [] r).1
    let lg := logElems es { s1 with core := withFlags 0 s1.core }
    let w := writeElems 0 (memScope 0) (fun i => leBytes 4 (lane 32 (s.core.getV 1) i).toNat) es (released 0 0 (ans () lg).2)
    Issues x s once ∧ r = .ok (ans [] r) ∧ (∀ e ∈ es, e.loc.place ≠ .remote ∧ e.lane < 16 ∧ isActive o.mask s.core e.lane = true) ∧
      lg = .ok ((), (ans () lg).2) ∧ w = .ok ((), (ans () w).2) :=
  ⟨issues checked, ok checked, checked, okU checked, okU checked⟩

theorem witness_vectorFault : let o : VMem := ⟨none, none, 0, 1, 4, none, 0, 0, ⟨0, 0⟩⟩
    let x := vmemIns 0 o
    let s := regs user [(4, 0x80005000)]
    let r := checkElems 1 (elemSize 0) (elemsAt 0 o once x s) (started x once s)
    r = .error (err r) ∧ (err r).code ≠ 5 := ⟨bad checked, checked⟩

/-- Atomics: a sync page, a page that is none, a misaligned address. -/
theorem witness_atomic : let o : Atom := ⟨0, 5, 4, true, 3, 1, 6, none⟩
    let x := atomIns 0 o
    let s := regs user [(4, 0x40005008)]
    let r := translate (me (started x once s)) 0x40005008 3 (started x once s)
    let q := atomPlace (me (started x once s)) 0x40005008 (ans place0 r).1 (ans place0 r).2
    let b := bankTurn 0x40005008 (ans place0 r).1 (ans place0 r).2
    Issues x s once ∧ plainPointer (s.core.getG (sOf x once)) ∧ r = .ok (ans place0 r) ∧ q = .ok ((), (ans () q).2) ∧
      b = .ok (true, (ans false b).2) ∧ (ans place0 r).1.place ≠ .remote ∧ storesOut (ans place0 r).2 0 none = false ∧ (dirtyLog (ans place0 r).2 1 0 (ans place0 r).1).isSome = true :=
  ⟨issues checked, by unfold plainPointer; decide +kernel, ok checked, okU checked, okT checked,
    checked, checked, checked⟩

theorem witness_notSync : let x := atomIns 14 ⟨0, 5, 4, false, 0, 0, 0, none⟩
    let s := regs user [(4, 0x5040)]
    let r := translate (me (started x once s)) 0x5040 1 (started x once s)
    r = .ok (ans place0 r) ∧ (ans place0 r).1.place = .hbm ∧ (ans place0 r).1.sync = false :=
  ⟨ok checked, checked, checked⟩

theorem witness_sums : (cellSum 0).natAbs ≤ 2 ^ 318 ∧ (fp32.dec 0x3F800000).Finite := by
  refine ⟨checked, ?_⟩
  show ((match fp32.dec 0x3F800000 with | .fin _ _ _ st => st = false | _ => False) : Prop)
  rfl

/-- A gang of two members on cores 0 and 1; the second one's core stands in `others`. -/
def pairGang : Gang := { gang0 with size := 2, members := [member0, { member0 with rank := 1, core := some 1, slot := some 1 }] }
def paired : State := { tasked with
  gangs := [pairGang], others := [(1, { user.core with task := some ⟨1, 1⟩, pc := 0x80 })] }

/-- GangSync: a member that arrives, one that has arrived before, a core without a task, and a gang in which all wait. -/
theorem witness_gbar : aloneInGang paired paired.cur = false ∧ paired.core.bar.arrived = false ∧ user.core.task = none ∧ user.core.cont = none ∧ user.core.opening = none ∧
    user.core.bar.arrived = false ∧ Issues (gbarIns 5 ⟨0, false, 5, 10, 0⟩) paired once ∧
    ({ paired with core := { paired.core with bar := ⟨true, 0x40, 2, 7, 1⟩ } } : State).core.bar.arrived = true :=
  ⟨checked, checked, rfl, rfl, rfl, rfl, issues checked, rfl⟩

def bothWait : State := { paired with
  core := { paired.core with wait := .gbar 5 4, bar := ⟨true, 0x40, 2, 7, 1⟩ }
  others := [(1, { user.core with task := some ⟨1, 1⟩, pc := 0x80, wait := .gbar 6 2, bar := ⟨true, 0x80, 4, 9, 1⟩ })] }
theorem witness_bothWait : gangOfCore bothWait 0 = some pairGang ∧
    (pairGang.members.filter (fun m => !m.ended)).all (fun m => m.core.isSome) = true ∧
    ((pairGang.members.filter (fun m => !m.ended)).filterMap (fun m => m.core)).Nodup ∧
    [0, 1].all (fun w => inGbar (getCore bothWait w)) = true ∧ (getCore bothWait 1).wait = .gbar 6 2 ∧ (getCore bothWait 1).wins = [] ∧
    [0, 1].any (fun w => !inGbar (getCore paired w)) = true := by decide +kernel

/-- `xst` to the other member, to a rank that nothing runs, from a core without a task, and with a misaligned offset. -/
theorem witness_xst : rankCore paired 1 1 = some 1 ∧ rankCore paired 1 5 = none ∧ paired.core.task = some ⟨1, 0⟩ ∧ paired.xsts = [] ∧
    Issues (xstIns 1 ⟨0, false, 0, 3, 10⟩) paired once ∧ fld (0x10000 + 0x7FC0) 14 0 % 64 = 0 ∧ fld (0x10000 + 0x7FC0) 18 16 = 1 ∧ fld 4 14 0 % 8 ≠ 0 :=
  ⟨checked, checked, rfl, rfl, issues checked, by decide, by decide, by decide⟩

theorem witness_xstAccept : rankCore paired (Xst.mk 0 0x40 1 1 64 [1]).gid (Xst.mk 0 0x40 1 1 64 [1]).rank = some 1 ∧
    rankCore paired (Xst.mk 0 0x40 9 1 64 [1]).gid (Xst.mk 0 0x40 9 1 64 [1]).rank = none := by decide +kernel

/-- DeviceSync: objects in a sync page: the last arrival of two, the first, and one that nobody takes part in. -/
def barred (e a n : Nat) : State := { user with
  mem := putDw tables 0x40005008 [object e a n], core := user.core.setG 4 0x40005008 }
theorem witness_bard : let o : SysOp := ⟨0, false, 5, 10, 4⟩
    let s := barred 0xFFFFFFFF 1 2
    let s0 := started (bardIns 2 o) once s
    let r := translate (me s0) (effective (s0.core.getG 4) 0) 3 s0
    Issues (bardIns 2 o) s once ∧ BardAt o s0 (ans place0 r).1 (ans place0 r).2 ∧ storesOut (ans place0 r).2 0 none = false ∧
      dirtyLog (ans place0 r).2 1 0 (ans place0 r).1 = some (ans place0 r).2 ∧
      ofLe (homeRead (drainCore (ans place0 r).2 0) 7 0x40005008 8) = object 0xFFFFFFFF 1 2 ∧ isHbm 0x40005008 = true ∧
      (drainCore (ans place0 r).2 0).bards.all (fun r => r.pa != 0x40005008) = true :=
  ⟨issues checked, ⟨by unfold plainPointer; decide +kernel, checked, checked, ok2 checked, checked, checked⟩,
    checked, checked, checked, by decide, checked⟩

theorem witness_objects : ofLe (homeRead (barred 7 0 3) 7 0x40005008 8) = object 7 0 3 ∧ ofLe (homeRead (barred 0 0 0) 7 0x40005008 8) = object 0 0 0 ∧
    ofLe (homeRead (barred 7 65534 65535) 7 0x40005008 8) = object 7 65534 65535 := by decide +kernel

def bardWaiting : State := { barred 7 1 3 with
  core := { user.core with wait := .bard 5 4 }, bards := [⟨0x40005008, 2, 9, 7, ⟨1, 0, 0, 0x40005008, 0⟩, some 0, none, 0, false, false⟩] }
theorem witness_bardWithdraw : bardWaiting.core.wait = .bard 5 4 ∧ bardWaiting.bards = [⟨0x40005008, 2, 9, 7, ⟨1, 0, 0, 0x40005008, 0⟩, some 0, none, 0, false, false⟩] ∧
    bardWaiting.dirtyHeld = [] ∧ overflowLine 0x40005008 ∉ bardWaiting.ecc ∧ logLater bardWaiting ⟨1, 0, 0, 0x40005008, 0⟩ = some bardWaiting ∧
    ofLe (homeRead bardWaiting 7 0x40005008 8) = object 7 (0 + 1) 3 := by decide +kernel

/-- Flushes: a bad pointer, a window, a mapped line; translations flushed at U, at K of an own context, and at H. -/
theorem witness_flush : let x := sysIns 10 1 ⟨0, false, 0, 4, 0⟩ (regsOf .g 4) []
    let s := regs user [(4, 0x5008)]
    let r := translate (me (started x once s)) 0x5008 1 (started x once s)
    Issues x s once ∧ plainPointer (s.core.getG 4) ∧ r = .ok (ans place0 r) ∧ (ans place0 r).1.place = .hbm ∧ storesOut user 0 none = false :=
  ⟨issues checked, by unfold plainPointer; decide +kernel, ok checked, checked, checked⟩

/-- A translation that a waiting full/empty access has used, and one that nothing uses. -/
theorem witness_used : let e : TlbEnt := ⟨1, 0, 0x4000, { pa := 0x40000000, node := 0, remote := false, sync := true, home := 0, key := 0, u := true, r := true, w := true, x := false, heap := false, gpa := 0, s2size := 0, s2leaf := 0, s2deny := 0, vbits := 30 }⟩
    usesXl feWaiting [e] = true ∧ usesXl user [e] = false := by decide +kernel

theorem witness_levels : user.core.priv = .u ∧ sup.core.priv = .k ∧ ownsCtx sup 1 = true ∧ ownsCtx sup 2 = false ∧ State.reset.core.priv = .h := by
  decide +kernel

/-- ArrayRegisters, ArrayMultiply, ArrayLoads, ArrayDrain: a task that declares the array, a slot with an FP8 panel of one block of
8 rows, FP8 operands in memory, and a set with an anchor. -/
def panel : WbSlot := { desc := BitVec.ofNat 64 (11 * 2 ^ 58 + 3 * 2 ^ 54 + 2 ^ 48), bytes := List.replicate 256 0x38, cb := 0, nan := 0 }
def fatPtr (fmt lbl a : Nat) : Nat := fmt * 2 ^ 58 + lbl * 2 ^ 54 + a
def oneCell : AccSet := ⟨[(0, ⟨5, 0⟩), (33, ⟨0, 1⟩)], 3, true, false, []⟩
def withArr (s : State) (a : ArrState) : State := { s with core := { s.core with arr := a } }
def arrayed : State := withArr (regs tasked [(4, fatPtr 11 3 0xFFFFFFFC1000), (9, 32), (5, 1023), (6, fatPtr 5 0 0xFFFFFFFC1000), (7, 0xFFFFFFFC1040), (8, fatPtr 8 0 0xFFFFFFFC1000)])
  { ArrState.reset with wb2 := panel, acc1 := oneCell, rowP := 1, colP := 3 }

theorem witness_array : ArrayReady arrayed ∧ -1024 ≤ (arrayed.core.getG 5).toInt ∧ (arrayed.core.getG 5).toInt ≤ 1023 ∧
    declArr user = false ∧ 1023 < ((regs arrayed [(5, 1024)]).core.getG 5).toInt ∧ Issues (msetIns 0 0 ⟨0, false, 5, true⟩ false) arrayed once :=
  ⟨⟨by unfold Free; decide +kernel, checked⟩, checked, checked, checked, checked, issues checked⟩

def mulOp : MMul := ⟨0, 4, 9, true, 2, 0, 0⟩
def mulIns : Ins := arrIns (encMMul mulOp) 0 (regsOf .g 4 ++ regsOf .g 9) []
def mulChecked := checkElems 1 1 (aElems 1 0xFFFFFFFF 8 1 0xFFFFFFFC1000 1 32) (started mulIns once arrayed)
def mulRead := readArr (ans [] mulChecked).1 1 mulIns.size (ans [] mulChecked).2

/-- A result that is present, in the form that a statement asks for. -/
theorem okSome {α : Type} {r : Except Trap (Option α × State)} {d : α} (h : isOk r = true) (p : (ans none r).1.isSome = true) :
    r = .ok (some ((ans none r).1.getD d), (ans none r).2) := by
  cases r with
  | error t => cases h
  | ok p' =>
    obtain ⟨o, s⟩ := p'
    cases o with
    | none => cases p
    | some x => rfl

theorem witness_mul : Issues mulIns arrayed once ∧ (arrayed.core.arr.slot 2).valid = true ∧
    mulOp.first.toNat + (mulOp.nb.toNat + 1) ≤ (arrayed.core.arr.slot 2).nblk + 1 ∧
    MulReads mulOp arrayed once ((ans none mulRead).1.getD ([], [])).1 ((ans none mulRead).1.getD ([], [])).2 (ans none mulRead).2 ∧ (arrayed.core.arr.slot 0).valid = false ∧
    (arrayed.core.arr.acc true).anch = true ∧ arrayed.core.arr.rowP.getLsbD 1 = false :=
  ⟨issues checked, checked, checked,
    ⟨checked, checked, ⟨8, checked, checked⟩, checked, checked, checked,
      (ans [] mulChecked).1, (ans [] mulChecked).2, ok2 (r := mulChecked) checked, okSome (r := mulRead) (d := ([], [])) checked checked⟩,
    checked, checked, checked⟩

theorem witness_panel : let o : MLdb := ⟨0, false, 4, 1, 0, 0⟩
    let x := arrIns (encMLdb o) 0 (regsOf .g 4) []
    let r := checkElems 1 1 (panelElems 11 256 0xFFFFFFFC1000) (started x once arrayed)
    let l := readArr (ans [] r).1 1 x.size (ans [] r).2
    Issues x arrayed once ∧ ptrOk true (arrayed.core.getG 4) = true ∧ (classOf (ptrFmt (arrayed.core.getG 4))).isSome = true ∧
      effective (arrayed.core.getG 4) 0 % 64 = 0 ∧ winFits 0xFFFFFFFC1000 256 = true ∧ r = .ok (ans [] r) ∧
      l = .ok (some ((ans none l).1.getD ([], [])), (ans none l).2) :=
  ⟨issues checked, checked, checked, checked, checked, ok checked,
    okSome checked checked⟩

theorem witness_codebook : let o : MLdcb := ⟨0, false, 7, 3⟩
    let x := arrIns (encMLdcb o) 0 (regsOf .g 7) []
    let r := checkElems 1 2 ((List.range 16).map (fun i => (i, effective 0xFFFFFFFC1040 (2 * i : Nat)))) (started x once arrayed)
    let l := readArr (ans [] r).1 2 x.size (ans [] r).2
    Issues x arrayed once ∧ r = .ok (ans [] r) ∧ l = .ok (some ((ans none l).1.getD ([], [])), (ans none l).2) :=
  ⟨issues checked, ok checked, okSome checked checked⟩

/-- Two active cells of a set drain as FP32. -/
theorem witness_drain : let o : MDrain := ⟨none, 0, 8, 9, true, 0, false⟩
    let x := arrIns (encMDrain o) 0 (regsOf .g 8 ++ regsOf .g 9) []
    let act := (List.range 1024).filter (fun n => arrayed.core.arr.rowP.getLsbD (n / 32) && arrayed.core.arr.colP.getLsbD (n % 32))
    let r := checkElems 2 1 (act.map (fun n => (n, effective (arrayed.core.getG 8) ((n / 32 : Nat) * (32 : Int) + (n % 32 * 4 : Nat))))) (started x once arrayed)
    let s1 := (ans [] r).2
    let el := elemTurns (ans [] r).1 { s1 with core := { withFlags 0 s1.core with sgen := s1.core.sgen } }
    let lg := logElems (ans [] r).1 (ans false el).2
    let w := writeElems 0 0 (fun _ => leBytes 4 0) (ans [] r).1 (ans () lg).2
    Issues x arrayed once ∧ underWay arrayed.core = none ∧ drainMode o ≠ .sr ∧ ptrOk true (arrayed.core.getG 8) = true ∧ (fmtOf (ptrFmt (arrayed.core.getG 8))).isSome = true ∧
      r = .ok (ans [] r) ∧ (∀ e ∈ (ans [] r).1, e.loc.place ≠ .remote) ∧ el = .ok (true, (ans false el).2) ∧ lg = .ok ((), (ans () lg).2) ∧ w = .ok ((), (ans () w).2) :=
  ⟨issues checked, checked, checked, checked, checked, ok checked, checked,
    okT checked, okU checked, okU checked⟩

/-- An INT64 pointer to room for the corrections of a set and of a slot's panel. -/
theorem witness_corrections : let x := msetIns 8 0 ⟨0, false, 6, true⟩ false
    let r := checkElems 2 8 ((List.range 64).map (fun i => (i, effective (arrayed.core.getG 6) (8 * i : Nat)))) (started x once arrayed)
    Issues x arrayed once ∧ ptrOk true (arrayed.core.getG 6) = true ∧ ptrFmt (arrayed.core.getG 6) = 5 ∧ winFits 0xFFFFFFFC1000 512 = true ∧
      r = .ok (ans [] r) ∧ (∀ e ∈ (ans [] r).1, e.loc.place ≠ .remote) ∧ elemTurns (ans [] r).1 (ans [] r).2 = .ok (true, (ans false (elemTurns (ans [] r).1 (ans [] r).2)).2) ∧ ((List.range (panel.nblk + 1)).flatMap (corrBlock panel)).length ≤ 4096 :=
  ⟨issues checked, checked, checked, checked, ok checked, checked, okT checked, checked⟩

/-- StepRunsDecoded: a core at H with `sub g10, g11, g5` (0xF205 0x1AB1) at the bottom of its core store. -/
def coded : State := { regs State.reset [(11, 9), (5, 2)] with
  mem := memWrite [] (2 ^ 40) ([0xF205, 0x1AB1].flatMap (leBytes 2)) }

theorem witness_runs : coded.agenda = [] ∧ Runs (tick coded 1) ∧ Decodes [0xF205, 0x1AB1] (.sub ⟨none, 10, 11, some 5⟩) ∧
    (∀ p ∈ [0xF205, 0x1AB1], p < 65536) ∧ 0xFFFFFFFC0000 ≤ coded.core.pc.toNat ∧ coded.core.pc.toNat + 4 ≤ 0xFFFFFFFF8000 ∧ coded.core.wbuf = [] ∧
    coded.core.fbuf.old = [] ∧ coded.core.fbuf.own = [] ∧ coded.core.gave = none ∧ memRead coded.mem (2 ^ 40) 4 = [0xF205, 0x1AB1].flatMap (leBytes 2) := by
  refine ⟨rfl, ⟨checked, checked, .inl rfl, rfl, rfl, checked, checked⟩, ⟨by decide, fun n h => ?_⟩, by decide,
    by decide, by decide, rfl, rfl, rfl, rfl, checked⟩
  have h2 : n < 2 := h
  have : n = 0 ∨ n = 1 := by omega
  rcases this with rfl | rfl <;> decide

theorem witness_fetches : ∃ t, FetchesFrom (landGive (tick coded 1)) t 0 [0xF205, 0x1AB1] := by
  let r0 := fetchParcel ((landGive (tick coded 1)).core.pc.toNat % 2 ^ 48) (landGive (tick coded 1))
  let r1 := fetchParcel (((ans 0 r0).2.core.pc.toNat + 2) % 2 ^ 48) (ans 0 r0).2
  refine ⟨(ans 0 r1).2, (ans 0 r0).2, ?_, (ans 0 r1).2, ?_, rfl⟩
  · have h : r0 = .ok ((ans 0 r0).1, (ans 0 r0).2) := ok2 checked
    have e : (ans 0 r0).1 = 0xF205 := by decide +kernel
    rw [e] at h
    exact h
  · have h : r1 = .ok ((ans 0 r1).1, (ans 0 r1).2) := ok2 checked
    have e : (ans 0 r1).1 = 0x1AB1 := by decide +kernel
    rw [e] at h
    exact h

/-- The step runs it: 9 - 2 in g10, the pc 4 bytes on, one cycle later. -/
theorem test_step : (after (step coded)).core.getG 10 = 7 ∧ (after (step coded)).core.pc = 0xFFFFFFFC0004 ∧ (after (step coded)).cycle = 1 := by
  decide +kernel

/-- A turn of the device and a turn of another core. -/
theorem witness_turn : let s : State := { coded with agenda := [⟨5, .event (.wake 7)⟩] }
    s.agenda = ⟨5, .event (.wake 7)⟩ :: [] ∧ Instr.raw (.wake 7) = none ∧ tripped (tick { s with agenda := [] } 5) = false ∧ 4 < (tick { s with agenda := [] } 5).mgmt.phase.toNat ∧
    tripped (tick { s with agenda := [], mgmt := { s.mgmt with phase := 0xFE } } 5) = true ∧ afterTrip (.wake 7) = false := by decide +kernel

/-- `decodeTableWord` and `withFetchWord`: the table's number of `div`, whose first parcel stands in the high half. -/
theorem test_fetchWord : decodeTableWord 32 0xF6051000 = some (.div ⟨none, 0, 0, none⟩) ∧
    (after (step (State.reset.withFetchWord 16 0x1AB0))).core.pc = 0xFFFFFFFC0002 := by decide +kernel

/-- DecodeEncode, StepKeepsMemory: a well-formed instruction, and a state with canonical memory that steps. -/
theorem witness_wf : Instr.wf (.vfma ⟨some ⟨2, 3⟩, some ⟨2, true, 0⟩, 3, 20, some 7⟩) = true := by decide
theorem witness_inv : State.Inv coded ∧ ∃ t, step coded = .next t := by
  refine ⟨by unfold State.Inv; decide +kernel, ?_⟩
  have h : (match step coded with | .next _ => true | _ => false) = true := by decide +kernel
  cases e : step coded with
  | next t => exact ⟨t, rfl⟩
  | fault r => rw [e] at h; cases h
  | refused r => rw [e] at h; cases h

/-- Lookahead: a window over g9 that `add g12, g9` meets and `add g10, g11` does not, its last position, and a load that opens one. -/
def windowed (left : Nat) : State := { user with
  core := { user.core with wins := [⟨0x40, left, [.g 9], [], [(9, 77)], []⟩] } }
theorem witness_window : let x := rrIns (encRR none 0 ⟨none, 12, 9, none⟩) false ⟨none, 12, 9, none⟩
    let y := rrIns (encRR none 0 ⟨none, 10, 11, none⟩) false ⟨none, 10, 11, none⟩
    Meets x ⟨0x40, 2, [.g 9], [], [(9, 77)], []⟩ ∧ ¬ Meets y ⟨0x40, 2, [.g 9], [], [(9, 77)], []⟩ ∧ (windowed 2).core.cont = none ∧
      (windowed 2).core.repeatDue = false := by
  refine ⟨.inl ⟨.g 9, ?_, ?_⟩, ?_, rfl, rfl⟩
  · decide +kernel
  · decide
  · intro h
    rcases h with ⟨r, hr, hw⟩ | ⟨r, _, hl⟩
    · have hw' : r = RegId.g 9 := by simpa using hw
      subst hw'
      simp [rrIns, regsOf, Ins.of] at hr
    · cases hl

theorem witness_lookahead : let o : MemOp := ⟨none, false, 2, 9, 4, 3, 0, 0, ⟨0, 2⟩⟩
    let x := memIns 0 0 o
    let s := regs user [(4, 0x5000)]
    let r := access (started x once s) (eaOf x once 8 2 s) 1
    let q := bankTurn (eaOf x once 8 2 s) (ans place0 r).1 (ans place0 r).2
    let b := loadLoc (ans place0 r).1 8 0 (memScope 0) (ans false q).2
    o.la ≠ 0 ∧ o.d.toNat ≠ 0 ∧ s.core.wins = [] ∧ plainPointer (s.core.getG (sOf x once)) ∧ eaOf x once 8 2 s % 8 = 0 ∧ r = .ok (ans place0 r) ∧
      (ans place0 r).1.place ≠ .remote ∧ Sent s ∧ q = .ok (true, (ans false q).2) ∧ b = .ok (ans [] b) :=
  ⟨by decide, by decide, rfl, by unfold plainPointer; decide +kernel, checked, ok checked, checked, rfl, okT checked,
    ok checked⟩

/-- Repeats: a trap in iteration 2 of 0 to 63, a record that would pass g63, one that fits, and an instruction without a repeat. -/
def resumedAt (i r : Nat) (st : BitVec 3) : State := { user with
  core := { user.core with afterRett := true, rep := ⟨st, BitVec.ofNat 6 i, BitVec.ofNat 7 r⟩ } }
theorem witness_repeat : ({ user with core := { user.core with cont := some ⟨2, 63, 7, false⟩ } } : State).core.wins = [] ∧ (2 : Nat) ≤ 63 ∧ (63 : Nat) < 64 ∧
    (resumedAt 63 2 1).core.repeatDue = true ∧ 64 < (resumedAt 63 2 1).core.rep.index.toNat + (resumedAt 63 2 1).core.rep.remain.toNat ∧
    (resumedAt 1 1 4).core.rep.step.getLsbD 2 = true ∧ 64 < 60 + (resumedAt 3 2 1).core.rep.index.toNat + (resumedAt 3 2 1).core.rep.remain.toNat ∧
    (resumedAt 1 1 1).core.cont = none := by decide +kernel

/-- Events: a task at U with each event first in order, and a breakpoint at the pc, of both kinds. -/
def pending (p : Pending) : State := { tasked with core := { tasked.core with pend := p } }
theorem witness_events : AtRest (pending ⟨[⟨20, 18, 5, 1, .k⟩], true, [], true⟩) ∧ Untraced (pending ⟨[⟨20, 18, 5, 1, .k⟩], true, [], true⟩) ∧
    AtRest (pending ⟨[], true, [], true⟩) ∧ (pending ⟨[], true, [], true⟩).core.ssb = none ∧ AtRest (pending ⟨[], false, [⟨24, 0, 1, 1, .k⟩], true⟩) ∧
    AtRest (pending ⟨[], false, [], true⟩) ∧ (pending ⟨[], false, [], true⟩).core.task.isSome = true :=
  ⟨⟨rfl, rfl, rfl, rfl, rfl, rfl, rfl, rfl, rfl⟩, untraced_of rfl rfl, ⟨rfl, rfl, rfl, rfl, rfl, rfl, rfl, rfl, rfl⟩, rfl, ⟨rfl, rfl, rfl, rfl, rfl, rfl, rfl, rfl, rfl⟩, ⟨rfl, rfl, rfl, rfl, rfl, rfl, rfl, rfl, rfl⟩, rfl⟩

def breakAt (ctl : Nat) : State := { tasked with
  mgmt := { Mgmt.reset with bkpts := (Vector.replicate 16 0).set 3 (BitVec.ofNat 64 (0xFFFFFFFC0000 + ctl)) } }
theorem witness_breakpoint : bkptHit (breakAt (2 ^ 63 + 2 ^ 48)) = some 3 ∧ bitOf ((breakAt (2 ^ 63 + 2 ^ 48)).mgmt.bkpts.getD 3 0).toNat 62 = false ∧
    bitOf ((breakAt (2 ^ 63 + 2 ^ 62 + 2 ^ 48)).mgmt.bkpts.getD 3 0).toNat 62 = true ∧ Untraced (breakAt 0) :=
  ⟨checked, checked, checked, untraced_of rfl rfl⟩

/-- EngineRequests: a task with tile 2 of its cluster, 8 rows of 64 bytes at 0x5000 with stride 128, room in the table. -/
def tileOp : Eng := ⟨0, false, 5, 6, 0, 0, 10 + 11 * 64 + 12 * 4096, 64 + 7 * 256, 0, 0⟩
def tiled : State := regs { tasked with clusters := [(0, { Cluster.reset with owners := [(2, 0)] })] }
  [(10, 0xFFFFFFC02000), (11, 8 * 2 ^ 58 + 0x5000), (12, 128)]
theorem witness_room : Room tiled 0 0 := ⟨checked, checked⟩
theorem witness_tile : TileOperands 1 tileOp tiled ∧ TileOperands 3 tileOp tiled ∧ outstanding tiled 0 < 32 ∧ tiled.core.wait = .none ∧
    tiled.core.wbuf = [] ∧ Untraced tiled ∧ Issues (engIns 1 tileOp (copyRegs 1 tileOp tiled.core)) tiled once :=
  ⟨⟨checked, by unfold plainPointer; decide +kernel, checked, checked, checked, checked, checked,
      checked, checked, checked, checked⟩,
    ⟨checked, by unfold plainPointer; decide +kernel, checked, checked, checked, checked, checked,
      checked, checked, checked, checked⟩,
    checked, rfl, rfl, untraced_of rfl rfl, issues checked⟩

/-- A copy of rows, as a queue holds it. -/
def copy0 : Copy := { newCopy 1 tiled with
  handle := 5, dst := 0xFFFFFFC02000, src := 0x5000, stride := 128, rows := 1, rowb := 64, tiles := [2], task := none, recv := none }
def full (n : Nat) : State := { tiled with
  clusters := [(0, { Cluster.reset with owners := [(2, 0)], copies := List.replicate n copy0 })] }
theorem witness_fullEngine : 32 ≤ outstanding (full 32) 0 ∧ outstanding (full 31) 0 < 32 := by decide +kernel
theorem witness_accepts : Accepts tiled ∧ ¬ Accepts (full 32) := by
  refine ⟨⟨checked, checked, checked⟩, fun h => absurd h.1 checked⟩
theorem witness_waitEngine : let q := (ans none (prepTile 1 tileOp tiled)).1.getD copy0
    let s : State := { tiled with core := { tiled.core with wait := .engine q tileOp } }
    s.core.wait = .engine q tileOp ∧ s.core.opening = none ∧ prepTile 1 tileOp s = .ok (some q, s) ∧ Accepts s := by
  refine ⟨rfl, rfl, rfl, ⟨checked, checked, checked⟩⟩

/-- A tensor copy of 4 FP32 elements to FP16 with inline shape, a scatter and a gather of two rows that a list in memory names; reserved words. -/
def tensorOp : Eng := ⟨0, false, 5, 6, 0, 0, 10 + 11 * 64, 4, 0, 0x1000⟩
def tensored : State := regs tasked [(10, fatPtr 9 0 0xFFFFFFFC2000), (11, fatPtr 8 0 0xFFFFFFFC1000)]
def listOp : Eng := ⟨0, false, 5, 6, 0, 0, 10 + 11 * 64, 8 + 1 * 65536, 0, 0⟩
def listed : State := regs { tasked with
    clusters := [(0, { Cluster.reset with owners := [(2, 0)] })], mem := memWrite tables (2 ^ 40 + 0x1000) ([0x5000, 0x5040].flatMap (leBytes 8)) }
  [(10, 0xFFFFFFC02000), (11, 0xFFFFFFFC1000)]
theorem witness_tensor : let x := engIns 0 tensorOp (copyRegs 0 tensorOp tensored.core)
    let r := prepTcopy tensorOp x (started x once tensored)
    Issues x tensored once ∧ copyBad 0 tensorOp tensored = false ∧ r = .ok (some ((ans none r).1.getD copy0), (ans none r).2) ∧
      Accepts (ans none r).2 ∧ Sent (ans none r).2 ∧ (ans none r).2.core.wbuf = [] ∧ Room (ans none r).2 0 0 :=
  ⟨issues checked, checked, okSome checked checked,
    ⟨checked, checked, checked⟩, by unfold Sent; decide +kernel, checked,
    ⟨checked, checked⟩⟩
theorem witness_list : let x := engIns 4 listOp (copyRegs 4 listOp listed.core)
    let r := prepList 4 listOp x (started x once listed)
    Issues x listed once ∧ copyBad 4 listOp listed = false ∧ r = .ok (some ((ans none r).1.getD copy0), (ans none r).2) ∧
      Accepts (ans none r).2 ∧ Sent (ans none r).2 ∧ (ans none r).2.core.wbuf = [] ∧ Room (ans none r).2 0 0 :=
  ⟨issues checked, checked, okSome checked checked,
    ⟨checked, checked, checked⟩, by unfold Sent; decide +kernel, checked,
    ⟨checked, checked⟩⟩
theorem witness_reserved : copyBad 0 { tensorOp with flags := 4 } tensored = true ∧ copyBad 4 { listOp with p2 := 1 } listed = true := by decide +kernel

/-- An entry of a future: PENDING, of kind 2, named by `hnd`. -/
def hnd : Word := mkHandle 0 0 0 1 1 2
def entry0 : Entry := ⟨.pending, 2, hnd, 0, 0, 3, 0, 0, false, 1⟩

/-- CopyCompletion: a `tread` of one row at the head of its engine, its entry in the table. -/
def copy1 : Copy := { copy0 with handle := hnd, rowb := 8, stride := 8, src := 0xFFFFFFFC1000 }
def copying : State := { tiled with
  clusters := [(0, { Cluster.reset with owners := [(2, 8)], copies := [copy1], ft := [(0, entry0)] })] }
theorem witness_copying : (getCl copying 0).copies = [copy1] ∧ copying.dirtyHeld.contains (0, copy1.id) = false ∧ stalledSrc copying 512 = false ∧
    copy1.next = none ∧ copy1.task = none ∧ Untraced copying ∧ (copyRun 0 copy1 copying).1 = none ∧ (copyRun 0 copy1 copying).2.1.done = true ∧
    (copyRun 0 copy1 copying).2.1.out = [] ∧ List.find? (fun p => p.2.handle == hnd) (getCl copying (hHome hnd)).ft = some (0, entry0) ∧
    0 < entry0.refs ∧ (copyRun 0 { copy1 with src := 0x80005000 } copying).2.1.fail.isSome = true :=
  ⟨checked, checked, checked, rfl, rfl, untraced_of rfl rfl, checked, checked, checked,
    checked, by decide, checked⟩

/-- A row read from memory and one written to it. -/
theorem witness_rows : let r := engRead copy1.tiles copy1.agent ((ptrVa copy1.src + 0 * copy1.stride) % 2 ^ 48) copy1.rowb copying
    let w := engWrite copy1.tiles copy1.agent ((ptrVa copy1.src + 1 * copy1.stride) % 2 ^ 48) (tileBytes copying 0 copy1.tile 128 8) copying
    r = .ok (ans [] r) ∧ (ans [] r).1.length = copy1.rowb ∧ w = .ok ((), (ans () w).2) :=
  ⟨ok checked, checked, okU checked⟩

/-- ScanRequests: a record of one FP32 head of 16 steps at the bottom of the core store, with its seven arrays behind it; a reserved
parameter. -/
def scanArr (i : Nat) : Nat := 8 * 2 ^ 58 + 0xFFFFFFFC1000 + 0x1000 * i
def scanOp : Eng := ⟨0, false, 5, 6, 0, 0, 0xFFFC1000, 16 * 65536 + 0xFFFF, 0, 0⟩
def scanRec : List Nat := (List.range 7).map (fun i => scanArr (i + 1)) ++ [4 + 64 * 2 ^ 32, 64 + 64 * 2 ^ 32, 0, 0, 0, 0, 0, 0, 0]
def scanState : State := { tasked with mem := memWrite tables (2 ^ 40 + 0x1000) (scanRec.flatMap (leBytes 8)) }


/-- An operation that changes nothing. -/
def same (r : Except Trap (Unit × State)) (s : State) : Bool :=
  match r with
  | .ok (_, t) => decide (t = s)
  | .error _ => false
theorem okSame {r : Except Trap (Unit × State)} {s : State} (h : same r s = true) : r = .ok ((), s) := by
  cases r with
  | ok p => exact congrArg (fun t => Except.ok ((), t)) (of_decide_eq_true h)
  | error t => cases h

def scanIns : Ins := engIns 6 scanOp []
def scanDw (i : Nat) : Nat := scanRec.getD i 0
def scanFrom : State := started scanIns once scanState
def scanVa : Nat := Machine.paramWord scanOp scanFrom.core 1 % 65536 * 2 ^ 32 + Machine.paramWord scanOp scanFrom.core 0
def scanElems : List ElemAt × State := ans [] (checkElems 1 8 ((List.range 16).map (fun i => (i, vaAdd scanVa ((8 * i : Nat) : Int)))) scanFrom)
def scanRead : Option (List (Nat × List Byte) × List Nat) × State := ans none (readArr scanElems.1 8 scanIns.size scanElems.2)
theorem elems_ok : checkElems 1 8 ((List.range 16).map (fun i => (i, vaAdd scanVa ((8 * i : Nat) : Int)))) scanFrom = .ok (scanElems.1, scanElems.2) :=
  ok2 checked
theorem read_ok : readArr scanElems.1 8 scanIns.size scanElems.2 = .ok (some ((scanRead.1.getD ([], [])).1, (scanRead.1.getD ([], [])).2), scanRead.2) :=
  okSome (d := ([], [])) checked checked
theorem witness_record : ScanRecord scanOp scanIns scanFrom scanDw scanRead.2 := by
  unfold ScanRecord
  refine ⟨checked, checked, ⟨scanElems.1, scanElems.2, (scanRead.1.getD ([], [])).1, (scanRead.1.getD ([], [])).2, elems_ok,
    checked, checked, read_ok, checked⟩,
    okSame checked, okSame checked, checked, checked, checked, checked⟩
theorem witness_scan : Issues scanIns scanState once ∧ scanState.core.cont = none ∧ Free scanState ∧ scanBad scanOp scanState.core = false ∧
    declSsb scanState = true ∧ scanRead.2.core.wbuf = [] ∧ Sent scanRead.2 ∧ Room scanRead.2 (scanState.cur / 8) 0 ∧
    scanBad { scanOp with p2 := 512 } scanState.core = true ∧ scanning.core.ssb.isSome = true :=
  ⟨issues checked, rfl, rfl, checked, checked, checked, by unfold Sent; decide +kernel, ⟨checked, checked⟩,
    checked, rfl⟩

/-- ScanChunks: one step of two at a time, in the step form; the last step of the last head of another request. -/
def scq : Scan := { (after (execSscan scanOp scanState)).core.ssb.getD scan0 with q := 1, len := 2, thr := 16, fp32 := true }
def atChunk (n : Nat) : State :=
  { tasked with core := { tasked.core with ssb := some { scq with len := n } }, clusters := [(0, { Cluster.reset with ft := [(0, { entry0 with handle := scq.handle })] })] }
def scanAg : Agent := ⟨0, 1, scq.lvl⟩
def startedAt (n : Nat) : List (List Nat) × State := ans [] (startState scanAg { scq with len := n } (atChunk n))
def operandsAt (n : Nat) : ChunkIn × State := ans ⟨[], [], [], []⟩ (chunkIn scanAg { scq with len := n } 0 1 (startedAt n).2)
def outAt (n : Nat) : List (List Nat) × List (List Nat) := stepForm 4 16 (operandsAt n).1 (startedAt n).1
def wroteAt (n : Nat) : Option (Trap × List (Nat × Nat)) × State := ssbWrites scanAg (rowsAt (scq.base 6) 64 4 16 (outAt n).2) (operandsAt n).2
def endedAt (n : Nat) : Option (Trap × List (Nat × Nat)) × State :=
  ssbWrites scanAg (rowsAt (scq.base 5) 64 4 16 (stateRows { scq with len := n } (packRows (outAt n).1)))
    (emit (wroteAt n).2 0 1 0x8C 4 0 0 (some (scq.handle.toNat, 0)))
theorem witness_chunk : (getCore (atChunk 2) 0).ssb = some scq ∧ scq.phase = 0 ∧ scanStill (atChunk 2) 0 scq = false ∧ scanStill (wroteAt 2).2 0 scq = false ∧ scq.stop = 0 ∧ isOk (startState scanAg scq (atChunk 2)) = true ∧
    isOk (chunkIn scanAg scq 0 1 (startedAt 2).2) = true ∧ (wroteAt 2).1.isNone = true ∧ (outAt 2).2.length = 1 ∧ scq.strides.getD 3 0 = 64 ∧
    (endedAt 2).1.isNone = true ∧ scanStill (atChunk 2) 0 { scq with stop := 1 } = false ∧ Untraced (atChunk 2) :=
  ⟨checked, checked, checked, checked, checked, checked, checked, checked,
    checked, checked, checked, checked, untraced_of rfl rfl⟩
theorem witness_lastChunk : (getCore (atChunk 1) 0).ssb = some { scq with len := 1 } ∧ (wroteAt 1).1.isNone = true ∧ (endedAt 1).1.isNone = true ∧
    scq.heads = scq.head + 1 ∧ List.find? (fun p => p.2.handle == scq.handle) (getCl (atChunk 1) (hHome scq.handle)).ft =
      some (0, { entry0 with handle := scq.handle }) ∧ (atChunk 1).drops.contains scq.handle = false :=
  ⟨checked, checked, checked, checked, checked, checked⟩

/-- Tasks and futures: the operand g4 names an entry in slot 3 of cluster 0; the answer goes to g5, and the status, or the value, is in g6. -/
def named : Word := mkHandle 0 0 3 1 1 1
def kindTwo : Word := mkHandle 0 0 3 1 1 2
def taskOp : TaskOp := ⟨0, false, 5, 4, 6, 0⟩
def entryOf (st : FtState) (h : Word) (refs : Nat) : Entry := ⟨st, hKind h, h, 77, 0, 3, 9, 0, false, refs⟩
def futured (st : FtState) (h : Word) (refs : Nat) : State :=
  regs { user with clusters := [(0, { Cluster.reset with ft := [(3, entryOf st h refs)] })] } [(4, h.toNat), (6, 0x102)]
theorem named_by (st : FtState) : Names (futured st named 1) ((futured st named 1).core.getG 4) 3 (entryOf st named 1) := by
  cases st <;> exact ⟨checked, checked, checked, checked, checked, checked⟩

/-- Touches: an entry in any state. -/
theorem witness_touch (st : FtState) : let s := futured st named 1
    Names s (s.core.getG 4) 3 (entryOf st named 1) ∧ s.core.cont = none ∧ s.core.wait = .none ∧ s.core.task = none ∧ waitersOf s (s.core.getG 4) = [] ∧
      0 < (entryOf st named 1).refs ∧ Issues (touchIns true taskOp) s once ∧ Issues (touchIns false taskOp) s once ∧
      Issues (taskIns 2 0 taskOp (gr 4) (gr 5 ++ gr 6)) s once :=
  ⟨named_by st, rfl, rfl, rfl, by cases st <;> decide +kernel, by cases st <;> decide, issues (by cases st <;> decide +kernel), issues (by cases st <;> decide +kernel),
    issues (by cases st <;> decide +kernel)⟩

/-- Parks: the first of a gang of two runs under the entry in slot 0 and touches the pending one. -/
def own0 : Entry := ⟨.running, 0, mkHandle 0 0 0 1 1 0, 0, 0, 1, 0, 0, false, 2⟩
def together (creq : Bool) : State := regs { paired with
    clusters := [(0, { Cluster.reset with ft := [(0, { own0 with creq := creq }), (3, entryOf .pending named 1)] })] } [(4, named.toNat)]
theorem witness_park (b : Bool) : let s := together b
    InGang s pairGang 1 { own0 with creq := b } ∧ Names s (s.core.getG 4) 3 (entryOf .pending named 1) ∧ s.core.cont = none ∧ s.core.retouch = false ∧
      Issues (touchIns true taskOp) s once ∧ Issues (touchIns false taskOp) s once ∧ Issues (taskIns 9 0 taskOp [] []) s once := by
  cases b <;> exact ⟨⟨checked, checked, ⟨member0, { member0 with rank := 1, core := some 1, slot := some 1 }, .inl checked⟩,
      checked, checked, checked, checked, checked, checked⟩,
    ⟨checked, checked, checked, checked, checked, checked⟩, rfl, rfl,
    issues checked, issues checked, issues checked⟩

/-- FutureOperations: handles of another node that can be reached or not, of another context, of no kind, and of an entry that is not there. -/
def asks (h : Word) : State := let s := regs user [(4, h.toNat)]
  { s with fab := { s.fab with reach := [(9, 0x8001)] } }
theorem witness_handles : let x := taskIns 2 0 taskOp (gr 4) (gr 5 ++ gr 6)
    Issues x (asks (mkHandle 7 0 3 1 1 1)) once ∧ nodeReach (asks (mkHandle 7 0 3 1 1 1)) 7 = false ∧
    Issues x (asks (mkHandle 0 0 3 1 2 1)) once ∧ hCtx (mkHandle 0 0 3 1 2 1) = 2 ∧ Issues x (asks (mkHandle 0 0 3 1 1 9)) once ∧ hKind (mkHandle 0 0 3 1 1 9) = 9 ∧
    isOk (findEntry (mkHandle 0 0 3 1 1 1) (started x once (asks (mkHandle 0 0 3 1 1 1)))) = true ∧
    Issues x (asks (mkHandle 9 0 3 1 1 1)) once ∧ nodeReach (asks (mkHandle 9 0 3 1 1 1)) 9 = true ∧ canSend (asks (mkHandle 9 0 3 1 1 1)) 0 9 2 true = true ∧
    canSend (asks (mkHandle 9 0 3 1 1 1)) 0 9 2 false = true :=
  ⟨issues checked, checked, issues checked, checked, issues checked, checked, checked,
    issues checked, checked, checked, checked⟩
theorem witness_others : Issues (taskIns 6 0 taskOp (gr 4) []) (asks (mkHandle 7 0 3 1 1 1)) once ∧
    Issues (taskIns 12 0 taskOp (gr 4) []) (asks (mkHandle 7 0 3 1 1 1)) once ∧ Issues (taskIns 3 0 taskOp [] (gr 5)) user once ∧ Room user (user.cur / 8) 0 :=
  ⟨issues checked, issues checked, issues checked, checked, checked⟩

/-- A store of core 0 that is on its way to node 3. -/
def farOut : Out := ⟨5, 3, 0, 1, 0x80000100, 0x80000100, .store 0 0x40, 1, 1⟩
def storing (s : State) : State := { s with fab := { s.fab with outs := [farOut] } }
/-- Promises that are settled: pending and finished, with a store on its way; another kind; a task that carries a code. -/
theorem witness_settle (st : FtState) : let s := futured st named 1
    hKind named = 1 ∧ s.drops.contains named = false ∧ Issues (taskIns 4 0 taskOp (gr 4 ++ gr 6) []) s once ∧
      Issues (taskIns 5 0 taskOp (gr 4 ++ gr 6) []) s once ∧ (s.core.getG 6).toNat % 256 ≠ 0 ∧ (s.core.getG 5).toNat % 256 = 0 ∧
      Issues (taskIns 5 0 { taskOp with t := 5 } (gr 4 ++ gr 5) []) s once ∧ storesOut s s.cur none = false ∧
      Issues (taskIns 4 0 taskOp (gr 4 ++ gr 6) []) (storing s) once ∧ storesOut (storing s) s.cur none = true := by
  cases st <;> exact ⟨by decide, checked, issues checked, issues checked, checked, checked, issues checked,
    checked, issues checked, checked⟩
theorem witness_kind : let s := futured .pending kindTwo 1
    hKind kindTwo ≠ 1 ∧ Names s (s.core.getG 4) 3 (entryOf .pending kindTwo 1) ∧ Issues (taskIns 4 0 taskOp (gr 4 ++ gr 6) []) s once :=
  ⟨by decide, ⟨checked, checked, checked, checked, checked, checked⟩, issues checked⟩
theorem witness_self : Issues (taskIns 5 1 { taskOp with d := 0, s := 0 } (gr 6) []) (together false) once ∧ ownSlot (together false) 0 = some (0, 0) ∧
    (entryAt (together false) 0 0).isSome = true ∧ Issues (taskIns 7 0 { taskOp with s := 0, t := 0 } [] (gr 5)) (together false) once :=
  ⟨issues checked, checked, checked, issues checked⟩

/-- Cancelling: a promise, a running task, and a parent with one child; a dropped reference that was the last. -/
theorem witness_cancel (st : FtState) : let s := futured st named 1
    Issues (taskIns 6 0 taskOp (gr 4) []) s once ∧ s.gangs.all (fun g => g.members.all (fun m => m.fut != named)) = true ∧
      Issues (taskIns 12 0 taskOp (gr 4) []) s once ∧ (entryOf st named 0).refs = 0 := by
  cases st <;> exact ⟨issues checked, checked, issues checked, rfl⟩
def child : Entry := { entryOf .running (mkHandle 0 0 4 1 1 0) 1 with parent := named }
def family : State := regs { user with clusters := [(0, { Cluster.reset with ft := [(3, entryOf .pending named 1), (4, child)] })] } [(4, named.toNat)]
def familyIns : Ins := taskIns 6 1 taskOp (gr 4) []
def familyAll : List (At × Entry) × State := ans [] (allEntries 1 (started familyIns once family))
theorem family_ok : allEntries 1 (started familyIns once family) = .ok (familyAll.1, familyAll.2) := ok2 checked
theorem witness_deep : Issues familyIns family once ∧ familyAll.1 = [(.chip 0 3, entryOf .pending named 1), (.chip 0 4, child)] ∧
    Names familyAll.2 named 3 (entryOf .pending named 1) ∧ Names familyAll.2 child.handle 4 child ∧ child.parent = named ∧
    waitersOf familyAll.2 named = [] ∧ familyAll.2.drops = [] ∧ familyAll.2.gangs = [] :=
  ⟨issues checked, checked,
    ⟨checked, checked, checked, checked, checked, checked⟩,
    ⟨checked, checked, checked, checked, checked, checked⟩, rfl,
    checked, checked, checked⟩

/-- Spawns: a gate that is locked, a context that is not valid, a task asked to end, a free placement, and the queue of a quadrant
whose clusters are full. -/
def spawnOp (fl : BitVec 4) : TaskOp := ⟨0, false, 5, 10, 6, fl⟩
def spawnIns (far : Bool) (fl : BitVec 4) : Ins :=
  taskIns 0 (4 * b2n far) (spawnOp fl) (regsOf .g 10 ++ regsOf .g 11 ++ regsOf .g 12 ++ gr 6) (gr 5)
def spawner (tv : Nat) : State := regs user [(10, 0x5001), (11, 7), (12, 8), (6, tv)]
def split : State := { spawner 8 with parts := { (spawner 8).parts with part := (spawner 8).parts.part.set 1 1 } }
theorem witness_gate : Issues (spawnIns false 3) split once ∧ (3 : BitVec 4).toNat % 4 = 3 ∧ samePart split (split.cur / 64) (8 % 64 / 8) = false ∧
    Issues (spawnIns true 3) (spawner 8) once ∧ samePart (spawner 8) 0 1 = true ∧ fld 8 25 16 = (spawner 8).fab.own.toNat :=
  ⟨issues checked, by decide, checked, issues checked, checked, checked⟩
theorem witness_spawnTraps : ctxValid (started (spawnIns false 1) once { spawner 0 with mem := [] }) 1 = false ∧
    Issues (spawnIns false 1) { spawner 0 with mem := [] } once ∧ ctxValid (started (spawnIns false 1) once (together true)) 1 = true ∧
    cancelAsked (started (spawnIns false 1) once (together true)) = true ∧ Issues (spawnIns false 1) (together true) once :=
  ⟨checked, issues checked, checked, checked, issues checked⟩
def placed (placement extra : Nat) (s : State) : Word × State := ans 0 (spawnAt 1 placement 0 0 0x5001 7 8 0 extra true s)
theorem witness_spawn : let s0 := started (spawnIns false 9) once (spawner 0)
    Issues (spawnIns false 9) (spawner 0) once ∧ ctxValid s0 1 = true ∧ cancelAsked s0 = false ∧ isOk (spawnAt 1 1 0 0 0x5001 7 8 0 1 true (released 1 2 s0)) = true ∧
      parentOf (released 1 2 s0) = 0 ∧ storesOut (spawner 0) 0 none = false ∧ Room (spawner 0) 0 0 ∧ isOk (spawnAt 1 1 0 0 0x5001 7 8 0 1 true (spawner 0)) = true ∧
      Issues (spawnIns false 9) (storing (spawner 0)) once ∧ storesOut (storing (spawner 0)) 0 none = true :=
  ⟨issues checked, checked, checked, checked, checked, checked, ⟨checked, checked⟩,
    checked, issues checked, checked⟩
def crowded : State := { spawner 0 with
  gangs := (List.range 17).map (fun i => { gang0 with gid := i + 2, st := .ready, cluster := some 0, members := [{ member0 with core := none, slot := none }] })
  clusters := [(0, Cluster.reset)] }
theorem witness_queue : Room crowded 0 0 ∧ (chooseCluster crowded 1 0 0 0 0x5001).2 = true := ⟨⟨checked, checked⟩, checked⟩
def spawnsFar : State := { spawner (9 * 65536) with fab := { (spawner 0).fab with reach := [(9, 0x8001)] } }
theorem witness_spawnFar : Issues (spawnIns true 0) spawnsFar once ∧ fld (9 * 65536) 25 16 = 9 ∧ (9 : Nat) ≠ spawnsFar.fab.own.toNat ∧ nodeReach spawnsFar 9 = true ∧
    cancelAsked (started (spawnIns true 0) once spawnsFar) = false ∧ storesOut spawnsFar 0 none = false ∧ canSend spawnsFar 0 9 2 true = true :=
  ⟨issues checked, by decide, checked, checked, checked, checked, checked⟩

/-- TaskEnds: at H, without a task, and a task of its own. -/
def ending (carried : Nat) (creq : Bool) : State := regs { tasked with
  clusters := [(0, { Cluster.reset with ft := [(0, { own0 with carried := carried, creq := creq })] })] } [(4, 99)]
def endIns : Ins := taskIns 8 0 taskOp (gr 4) []
theorem witness_end : Issues endIns user once ∧ user.core.priv ≠ .h ∧ user.core.task = none ∧ tendWaits user = false ∧ user.core.mode = .run ∧
    ({ user with core := { user.core with priv := .h } } : State).core.priv = .h := ⟨issues checked, by decide, rfl, checked, rfl, rfl⟩
theorem witness_alone (b : Bool) : let s := ending 0 b
    Issues endIns s once ∧ Alone s gang0 member0 0 0 { own0 with creq := b } ∧ Untraced s ∧ storesOut s s.cur none = false ∧ s.core.mode = .run ∧
      Alone (ending 5 b) gang0 member0 0 0 { own0 with carried := 5, creq := b } := by
  cases b <;> exact ⟨issues checked,
    ⟨rfl, rfl, rfl, rfl, by decide, rfl, rfl, rfl, checked, checked, checked, rfl, by decide, checked, rfl, rfl, rfl,
      checked, checked⟩, untraced_of rfl rfl, checked, rfl,
    ⟨rfl, rfl, rfl, rfl, by decide, rfl, rfl, rfl, checked, checked, checked, rfl, by decide, checked, rfl, rfl, rfl,
      checked, checked⟩⟩

/-- TilesAndSleep: pointers to tile 2, to no tile and of another format; owners that may give the tile and that may not. -/
def tileAt (p o t : Nat) : State := regs { tasked with clusters := [(0, { Cluster.reset with owners := [(2, o)] })] } [(4, p), (6, t)]
theorem witness_tiles : plainPointer (0xFFFFFFC02000 : Word) ∧ effective (0xFFFFFFC02000 : Word) 0 = 0xFFFFFFC02000 ∧ plainPointer (0x5000 : Word) ∧
    ¬ plainPointer (0x0021000000005008 : Word) ∧ ownerOf (tileAt 0xFFFFFFC02000 0 0) 0 2 = (tileAt 0xFFFFFFC02000 0 0).cur % 8 ∧
    runsOurs (tileAt 0xFFFFFFC02000 0 0) 0 = true ∧ runsOurs (tileAt 0xFFFFFFC02000 0 3) 3 = false ∧
    ownerOk (tileAt 0xFFFFFFC02000 3 0) 0 3 = false ∧ ownerOf (tileAt 0xFFFFFFC02000 16 16) 0 2 = 16 ∧
    Issues (taskIns 11 0 taskOp (gr 4) (gr 5)) (tileAt 0xFFFFFFC02000 0 0) once ∧ Issues (taskIns 10 0 taskOp (gr 4 ++ gr 6) []) (tileAt 0xFFFFFFC02000 0 0) once :=
  ⟨by unfold plainPointer; decide +kernel, checked, by unfold plainPointer; decide +kernel, by unfold plainPointer; decide +kernel, checked,
    checked, checked, checked, checked, issues checked, issues checked⟩
/-- A hand-over that the device does before the core's next step: to the gang, and to the task of a member that is on its core or off it. -/
def handing (r : Option TaskRef) (w : Option Nat) : State := { tasked with
  core := { tasked.core with gave := some (2, r) }, gangs := [{ gang0 with members := [{ member0 with core := w }] }] }
theorem witness_gave (w : Option Nat) : (handing none w).core.gave = some (2, none) ∧ (handing (some ⟨1, 0⟩) w).core.gave = some (2, some ⟨1, 0⟩) ∧
    gangOf (handing (some ⟨1, 0⟩) w) 1 = some { gang0 with members := [{ member0 with core := w }] } ∧ member0.ended = false ∧
    List.find? (fun m => m.rank == 0) [{ member0 with core := w }] = some { member0 with core := w } ∧
    storesOut (storing (tileAt 0xFFFFFFC02000 0 0)) 0 none = true ∧ storesOut (tileAt 0xFFFFFFC02000 0 0) 0 none = false :=
  ⟨rfl, rfl, rfl, rfl, rfl, checked, checked⟩
def sleepOp (t : BitVec 6) : SysOp := ⟨0, false, 0, 10, t⟩
def sleeper (st : FtState) (cycle : Nat) : State := { regs (futured st named 1) [(10, 100)] with cycle := BitVec.ofNat 64 cycle }
theorem witness_sleep : Issues (sysIns 3 0 (sleepOp 0) (gr 10 ++ gr 0) []) (sleeper .pending 100) once ∧ ((sleeper .pending 100).core.getG 10).toNat ≤ (sleeper .pending 100).cycle.toNat ∧
    Issues (sysIns 3 0 (sleepOp 0) (gr 10 ++ gr 0) []) (sleeper .pending 99) once ∧ (sleeper .pending 99).cycle.toNat < ((sleeper .pending 99).core.getG 10).toNat ∧
    Issues (sysIns 3 0 (sleepOp 4) (gr 10 ++ gr 4) []) (sleeper .pending 100) once ∧ Issues (sysIns 3 0 (sleepOp 4) (gr 10 ++ gr 4) []) (sleeper .resolved 100) once ∧
    (∀ st, Names (sleeper st 100) named 3 (entryOf st named 1)) ∧ (sleeper .pending 100).core.stalls.any (fun p => decide (p.1 ≤ 100) && decide (100 ≤ p.2)) = false ∧
    (let s := sleeper .pending 100; { s with core := { s.core with stalls := [(90, 110)] } } : State).core.stalls.any
      (fun p => decide (p.1 ≤ 100) && decide (100 ≤ p.2)) = true ∧
    Issues (sysIns 3 0 (sleepOp 6) (gr 10 ++ gr 6) []) (sleeper .pending 100) once ∧ hCtx ((sleeper .pending 100).core.getG 6) ≠ 1 :=
  ⟨issues checked, checked, issues checked, checked, issues checked, issues checked,
    fun st => by cases st <;> exact ⟨checked, checked, checked, checked, checked, checked⟩,
    checked, checked, issues checked, checked⟩
def asleep (y : Option Word) : State := { sleeper .pending 100 with core := { (sleeper .pending 100).core with wait := .sleep 100 y 4 } }
theorem witness_wake : (asleep none).core.wait = .sleep 100 none 4 ∧ (100 : Word).toNat ≤ (asleep none).cycle.toNat ∧ (asleep none).core.cont = none ∧
    (asleep none).core.wins = [] ∧ (asleep none).core.opening = none ∧ (asleep (some named)).core.stalls = [] ∧ (asleep (some named)).core.wait = .sleep 100 (some named) 4 ∧ Names (asleep (some named)) named 3 (entryOf .pending named 1) :=
  ⟨rfl, by decide, rfl, rfl, rfl, rfl, rfl, ⟨checked, checked, checked, checked, checked, checked⟩⟩

/-- GridRuns and GridLaunches: a packet of six gangs of type 1, one that breaks a rule, one that waits for an event bit, and the state they
stand in. -/
def grid0 : Grid := {
  id := 7, ctx := 1, q := 0, packet := [1, 3 + 2 * 2 ^ 16 + 2 ^ 32, 0, 0x5EED, 0, 0, 0, 0, 2, 0, 0, 0, 21, 22, 0, 0], handle := 0, started := false, told := none,
  next := 0, total := 0, live := 0, okAll := true, poison := none, ended := false, gang := 0 }
def gridBad : Grid := { grid0 with packet := grid0.packet.set 1 (3 + 2 * 2 ^ 16) }
def gridWaits : Grid := { grid0 with packet := grid0.packet.set 4 4 }
def typed : State := { user with mem := putDw tables 0x40 [0x5000, 2 ^ 24, 0, 0, 0, 0, 0, 0] }
def launched (x : Grid) : State := { typed with grids := [x], bqes := [(0, { Bqe.reset with grids := [7] })] }
theorem startable_of {x : Grid} (h : ((launched x).grids.find? (fun y => y.id == x.id) = some x ∧ x.started = false ∧ x.total = 0 ∧ gridReady (launched x) x = true ∧
    (((launched x).grids.takeWhile (fun y => y.id != x.id)).filter (fun y => y.q == x.q && !y.started)).any (gridReady (launched x)) = false ∧
    stalledSrc (launched x) (640 + x.q) = false)) : Startable (launched x) x :=
  ⟨h.1, h.2.1, h.2.2.1, h.2.2.2.1, h.2.2.2.2.1, h.2.2.2.2.2, untraced_of rfl rfl⟩
theorem witness_gridStart : Startable (launched grid0) grid0 ∧ noGangs grid0.packet = false ∧
    (match (packetType (leavesQueue (launched grid0) grid0) 0 1 grid0.packet).1 with | .ok n => n == 1 | _ => false) = true ∧
    Startable (launched gridBad) gridBad ∧ packetBad gridBad.packet = true ∧ gField gridBad.packet 2 47 0 = 0 ∧
    (launched gridWaits).grids.find? (fun y => y.id == 7) = some gridWaits ∧
    (getCtx (launched gridWaits) 1).events &&& gMask gridWaits.packet 4 ≠ gMask gridWaits.packet 4 :=
  ⟨startable_of checked, checked, checked, startable_of checked, checked, checked, checked,
    checked⟩
def three : Word := mkHandle 0 0 3 1 1 3
def gridDone (okAll : Bool) (poison : Option Nat) : Grid := { grid0 with
  handle := three, started := true, next := 6, total := 6, okAll := okAll, poison := poison }
def overState (x : Grid) : State := { launched x with clusters := [(0, { Cluster.reset with ft := [(3, entryOf .pending three 1)] })] }
theorem witness_gridOver (b : Bool) : let x := gridDone b (if b then none else some 5)
    let s := overState x
    s.grids.find? (fun y => y.id == x.id) = some x ∧ x.started = true ∧ x.next = x.total ∧ x.live = 0 ∧ x.ended = false ∧ x.told = none ∧
      Machine.gridWaits s x = false ∧ Untraced s ∧ gField x.packet 2 47 0 = 0 ∧ x.handle ≠ 0 ∧
      List.find? (fun p => p.2.handle == x.handle) (getCl s (hHome x.handle)).ft = some (3, entryOf .pending three 1) ∧ s.drops.contains x.handle = false := by
  cases b <;> exact ⟨checked, rfl, rfl, rfl, rfl, rfl, checked, untraced_of rfl rfl, checked, checked,
    checked, checked⟩
def gridWord : Grid := { gridDone true none with handle := 0, packet := grid0.packet.set 2 0x40005008 }
def wordFrom : State := let s := launched gridWord
  updGrid (updCtx (invalPartition s 0) 1 (fun c => { c with events := c.events ||| gMask gridWord.packet 8 })) 7 (fun y => { y with ended := true })
def wordAt : Loc × State := ans place0 (translate ⟨0, 1, .u⟩ 0x40005008 3 wordFrom)
theorem witness_word : GridOver (launched gridWord) gridWord ∧ gField gridWord.packet 2 47 0 = 0x40005008 ∧
    translate ⟨0, 1, .u⟩ 0x40005008 3 wordFrom = .ok (wordAt.1, wordAt.2) ∧ wordAt.1.sync = true ∧ wordAt.1.place ≠ .remote ∧
    eccHit wordAt.2 wordAt.1.at_ 8 = false ∧ syeStalled wordAt.2 wordAt.1 = false ∧ irqCore wordAt.2 1 = 0 ∧ logWrite ⟨0, 1, .u⟩ wordAt.1 wordAt.2 = .ok ((), (ans () (logWrite ⟨0, 1, .u⟩ wordAt.1 wordAt.2)).2) :=
  ⟨⟨checked, rfl, rfl, rfl, rfl, rfl, checked, untraced_of rfl rfl⟩, checked, ok2 checked, checked,
    checked, checked, checked, checked, okU checked⟩
/-- A completion word on a sync page of node 3. -/
def gridFar : Grid := { gridDone true none with handle := 0, packet := grid0.packet.set 2 0xC0005008 }
def farLaunched : State := { launched gridFar with mem := putDw tables 0x4018 [0xC00003B7 + 3 * 2 ^ 54], fab := { user.fab with reach := [(3, 0x8001)] } }
def farFrom : State :=
  updGrid (updCtx (invalPartition farLaunched 0) 1 (fun c => { c with events := c.events ||| gMask gridFar.packet 8 })) 7 (fun y => { y with ended := true })
def farAt : Loc × State := ans place0 (translate ⟨0, 1, .u⟩ 0xC0005008 3 farFrom)
theorem witness_farWord : GridOver farLaunched gridFar ∧ gField gridFar.packet 2 47 0 = 0xC0005008 ∧
    translate ⟨0, 1, .u⟩ 0xC0005008 3 farFrom = .ok (farAt.1, farAt.2) ∧ farAt.1.sync = true ∧ farAt.1.place = .remote ∧ canSend farAt.2 0 farAt.1.node 1 true = true :=
  ⟨⟨checked, rfl, rfl, rfl, rfl, rfl, checked, untraced_of rfl rfl⟩, checked, ok2 checked, checked,
    checked, checked⟩
def packetAt : State := regs { user with mem := memWrite tables (2 ^ 40 + 0x1000) ((grid0.packet.map (fun w => w.toNat)).flatMap (leBytes 8)) } [(4, 0xFFFFFFFC1000)]
def launchIns : Ins := taskIns 13 0 taskOp (gr 4) (gr 5)
def launchRead : (Option (Nat → Nat)) × State := ans none (readDwords 0xFFFFFFFC1000 16 launchIns.size (started launchIns once packetAt))
theorem witness_launch : Issues launchIns packetAt once ∧ plainPointer (0xFFFFFFFC1000 : Word) ∧ effective (0xFFFFFFFC1000 : Word) 0 % 128 = 0 ∧
    readDwords 0xFFFFFFFC1000 16 launchIns.size (started launchIns once packetAt) = .ok (some (launchRead.1.getD id), launchRead.2) ∧
    ctxValid launchRead.2 1 = true ∧ launchRead.2.core.wbuf = [] ∧ Sent launchRead.2 ∧ storesOut launchRead.2 0 none = false ∧
    storesOut (ans none (readDwords 0xFFFFFFFC1000 16 launchIns.size (started launchIns once (storing packetAt)))).2 0 none = true ∧ RoomOf launchRead.2 1 0 0 ∧ ¬ plainPointer (0x0021000000005008 : Word) ∧
    effective (0x5008 : Word) 0 % 128 ≠ 0 ∧ plainPointer (0x5008 : Word) :=
  ⟨issues checked, by unfold plainPointer; decide +kernel, checked, okSome checked checked, checked,
    checked, rfl, checked, checked, ⟨checked, checked⟩, by unfold plainPointer; decide +kernel, checked, by unfold plainPointer; decide +kernel⟩
def doorState (head : Nat) : State := { typed with bqes := [(0, { Bqe.reset with
  heads := [(1, head)], doors := memWrite [] (4096 + 0x80 + 128 * head) ([2 ^ 63 + 1, 3 + 2 * 2 ^ 16 + 2 ^ 32, 0, 9].flatMap (leBytes 8)) })] }
theorem witness_doors (b : Bool) : let head := if b then 0 else 30
    let s := doorState head
    Memory.wf (getBqe s 0).doors = true ∧ (getBqe s 0).heads.getD 1 0 = head ∧ 2 ^ 63 ≤ doorWord s 0 1 (0x80 + 128 * head) ∧
      doorWord s 0 1 (0x80 + 128 * ((head + 1) % 31)) < 2 ^ 63 ∧ s.dirtyHeld.contains (71, 0 * 64 + 1) = false ∧ ctxValid s 1 = true ∧ RoomOf s 1 0 0 := by
  cases b <;> exact ⟨checked, checked, checked, checked, checked, checked, ⟨checked, checked⟩⟩

/-- QueuesAndStealing: gangs held back by an earlier one or not, loads that pass and one that does not, ageing, and what a search finds. -/
def tileArg (acc base : Nat) : TileArg := ⟨1, 0, 0, 0, 0, 0, acc, base, 8, 8, 0⟩
def gangWith (gid seq : Nat) (st : GState) (tiles : List TileArg) : Gang := { gang0 with
  gid := gid, seq := seq, st := st, members := [{ member0 with core := none, slot := none, started := false, fut := mkHandle 0 0 gid 1 1 0, tiles := tiles }] }
def later (base : Nat) : Gang := gangWith 3 9 .hazard [tileArg 1 base]
def queued (gs : List Gang) : State := { user with gangs := gs, nextId := 20 }
theorem witness_hazard : let s := queued [gangWith 2 8 .running [tileArg 3 0x5000], later 0x5000]
    let t := queued [gangWith 2 8 .running [tileArg 3 0x5000], later 0x6000]
    gangOf s 3 = some (later 0x5000) ∧ hazardFor s (later 0x5000) = true ∧ gangOf t 3 = some (later 0x6000) ∧ hazardFor t (later 0x6000) = false ∧
      (assignTiles (freeTiles t 0) (later 0x6000).members).isSome = true ∧ (later 0x6000).cluster = some 0 := by decide +kernel
def loading (tiles : List TileArg) : Gang := gangWith 3 9 .prefetch tiles
set_option maxRecDepth 20000 in
theorem witness_prefetch : gangOf (queued [loading []]) 3 = some (loading []) ∧ loadTiles 0 [] (queued [loading []]) = .ok ((), queued [loading []]) ∧
    gangOf (queued [loading [tileArg 1 (2 ^ 47)]]) 3 = some (loading [tileArg 1 (2 ^ 47)]) ∧
    loadTiles 0 [tileArg 1 (2 ^ 47)] (queued [loading [tileArg 1 (2 ^ 47)]]) = .error (err (loadTiles 0 [tileArg 1 (2 ^ 47)] (queued [loading [tileArg 1 (2 ^ 47)]]))) ∧
    findWork (queued [loading []]) 0 6 ⟨3, 0⟩ = none ∧ stalledSrc (queued [loading []]) 512 = false ∧ stalledSrc (queued [loading []]) 576 = false :=
  ⟨checked, rfl, checked, bad checked, checked, checked, checked⟩
/-- Loads that stand first in the engine's queue. -/
def loadWork : Copy := { Copy.blank 4 6 512 none 1 .u 0 with task := some ⟨3, 0⟩ }
def inTurn : State := let s := queued [loading []]; updCl s 0 (fun c => { c with copies := [loadWork] })
theorem witness_engineTurn : findWork inTurn 0 6 ⟨3, 0⟩ = some loadWork ∧ turnOf inTurn 0 4 = true ∧ gangOf inTurn 3 = some (loading []) ∧
    loadTiles 0 [] inTurn = .ok ((), inTurn) := ⟨checked, checked, checked, rfl⟩
def readyGang : Gang := gangWith 3 9 .ready []
theorem witness_ageing : gangOf (queued [readyGang]) 3 = some readyGang ∧ readyGang.queue < 3 ∧
    readyGang.since + 2 ^ 20 ≤ ({ queued [readyGang] with cycle := 2 ^ 20 } : State).cycle.toNat ∧ (queued [readyGang]).cycle.toNat < readyGang.since + 2 ^ 20 := by
  decide +kernel
theorem witness_steal : anyReady (queued [readyGang]) 0 = true ∧ anyReady (launched (gridDone true none)) 0 = false ∧
    (coresOf 0).any (freeCore (launched (gridDone true none))) = true ∧ (getCl user 0).searchSince = none ∧ stalledSrc user 576 = false ∧
    (launched { gridDone true none with next := 2 }).grids = [{ gridDone true none with next := 2 }] ∧
    ({ queued [readyGang] with bqes := [(0, { Bqe.reset with tasks := [3] })] } : State).bqes.find? (0 / 8) = some { Bqe.reset with tasks := [3] } := by decide +kernel

/-- EndsAndWakes: an ended member whose one tile is written back, with nothing to write and with a write that fails. -/
def wroteMember (wb : List Nat) : Member := { member0 with core := none, ended := true, writing := true, wb := wb, result := .resolved, value := 7 }
def wroteGang (wb : List Nat) : Gang := { gang0 with members := [wroteMember wb] }
def writing (owners : List (Nat × Nat)) (tdesc : List (Nat × TileArg)) (wb : List Nat) (copies : List Copy) : State := { user with
  gangs := [wroteGang wb], nextId := 2, clusters := [(0, { Cluster.reset with copies := copies, owners := owners, tdesc := tdesc, ft := [(0, own0)] })] }
def writeWork (wb : List Nat) : Copy := { Copy.blank 0 7 512 none 1 .u 0 with tiles := wb }
def queuedWork : Copy := { writeWork [] with id := 4, task := some ⟨1, 0⟩ }
theorem witness_writeBack : let s := writing [] [] [] []
    gangOf s 1 = some (wroteGang []) ∧ findWork s 0 7 ⟨1, 0⟩ = none ∧ turnOf s 0 0 = true ∧ storeTiles 0 [] (writeWork []) s = (none, writeWork [], s) ∧
      stalledSrc s 512 = false ∧ findWork (writing [] [] [] [queuedWork]) 0 7 ⟨1, 0⟩ = some queuedWork ∧ turnOf (writing [] [] [] [queuedWork]) 0 4 = true ∧
      storeTiles 0 [] queuedWork (writing [] [] [] [queuedWork]) = (none, queuedWork, writing [] [] [] [queuedWork]) ∧ entryAt s 0 0 = some own0 ∧ stalledSrc s 576 = false ∧
      List.find? (fun p => p.2.handle == own0.handle) (getCl s 0).ft = some (0, own0) ∧ (getCl s 0).owners.Pairwise (fun a b => a.1 < b.1) ∧
      s.dirtyHeld.contains (64, 8) = false ∧ (wroteMember []).wb.any (fun t => ownerOf s 0 t == 8) = false := by decide +kernel
def badWrite : State := writing [(2, 9)] [(2, { tileArg 3 (2 ^ 47) with tile := 2 })] [2] []
def badStored : Option Trap × Copy × State := storeTiles 0 [2] (writeWork [2]) badWrite
theorem witness_writeFails : gangOf badWrite 1 = some (wroteGang [2]) ∧ badStored.1 = none ∧ badStored.2.1.fail.isSome = true ∧
    findWork badWrite 0 7 ⟨1, 0⟩ = none ∧ badStored.2.2.clusters = badWrite.clusters ∧
    badStored.2.2.gangs = badWrite.gangs ∧ entryAt badWrite 0 0 = some own0 := by decide +kernel

def parkedGang : Gang := { gang0 with st := .parked, touched := named, parked := true }
def woken : State := { user with
  gangs := [parkedGang], nextId := 2, waits := [⟨named, 0⟩], clusters := [(0, { Cluster.reset with ft := [(0, own0), (3, entryOf .resolved named 1)] })] }
theorem witness_wakes : hNode named = woken.fab.own.toNat ∧ List.find? (fun p => p.2.handle == named) (getCl woken (hHome named)).ft = some (3, entryOf .resolved named 1) ∧
    entryAt woken (hHome named) 3 = some (entryOf .resolved named 1) ∧ waitersOf woken named = (woken.fab.own.toNat * 65536 + 0 * 1024 + 0) :: [] ∧
    gangAtSlot woken 0 0 = some (parkedGang, member0) ∧ gangOf woken 1 = some parkedGang ∧ stalledSrc woken 576 = false ∧ Untraced woken :=
  ⟨checked, checked, checked, checked, checked, checked, checked, untraced_of rfl rfl⟩
def still (onset : Bool) (cycle : Nat) : State := { woken with
  ctxs := [(1, { Ctx.reset with stallSince := some 5, stallOnset := onset })], cycle := BitVec.ofNat 64 cycle }
theorem witness_stall : (getCtx (still false 5000) 1).stallSince = some 5 ∧ standsStill (still false 5000) 1 = true ∧ standsStill (still true 5000) 1 = true ∧
    5 + 4096 ≤ (still false 5000).cycle.toNat ∧ (getCtx (still false 5000) 1).stallOnset = false ∧ (getCtx (still true 5000) 1).stallOnset = true ∧
    (still true 5).cycle.toNat < 5 + 4096 := by decide +kernel

/-- DispatchAndPreemption: a record that has never run, at the head of its queue and set aside; a context without a record. -/
def type1 : TaskType := ⟨0x5000, false, false, 0, 1, 1, 8, 8, []⟩
def freshMember : Member := { member0 with fut := mkHandle 0 0 0 1 1 0, slot := none, core := none, started := false }
def freshGang (aside : Bool) : Gang := { gang0 with ty := some type1, members := [freshMember], st := .ready, aside := aside }
def firstRun (aside : Bool) : State := { user with
  core := State.reset.core, gangs := [freshGang aside], nextId := 2
  clusters := [(0, { Cluster.reset with ft := [(0, { own0 with st := .pending })] })] }
def core0Free : State := { firstRun false with core := { (firstRun false).core with mode := .idle } }
theorem witness_dispatch : headOf core0Free 0 = some (freshGang false) ∧ FirstRun core0Free 0 (freshGang false) freshMember type1 0 { own0 with st := .pending } ∧
    (coresOf 0).filter (freeCore core0Free) = [0] ∧ (ctxReady core0Free 1).isSome = true ∧
    ((ctxReady core0Free 1).map (fun t => t.clusters == core0Free.clusters && t.gangs == core0Free.gangs)) = some true ∧ schedWaits core0Free 0 = false ∧
    Untraced core0Free :=
  ⟨checked, ⟨rfl, rfl, rfl, rfl, rfl, rfl, by decide, by decide, checked, by decide, rfl, rfl, by decide⟩, checked, checked,
    checked, checked, untraced_of rfl rfl⟩
theorem witness_aside : let s := { core0Free with gangs := [freshGang true] }
    gangOf s 1 = some { freshGang false with aside := true } ∧ (refillSlot s 1 (hHome freshMember.fut)).isSome = true ∧
      core0Free = updGang s 1 (fun x => { x with aside := false }) := by decide +kernel
theorem witness_noRecord : let s : State := { core0Free with mem := [] }
    headOf s 0 = some (freshGang false) ∧ ctxReady s 1 = none ∧ (coresOf 0).filter (freeCore s) = [0] ∧
      ((freshGang false).members.filter (fun m => !m.ended)).length ≤ 1 ∧ headOf user 0 = none ∧ gangOf core0Free 1 = some (freshGang false) := by decide +kernel

theorem witness_preempt : gangOfCore paired paired.cur = some pairGang ∧ gangOf paired 1 = some pairGang ∧ pairGang.stopping = 0 ∧ AtRest paired ∧
    pairGang.onCores = [(member0, paired.cur), ({ member0 with rank := 1, core := some 1, slot := some 1 }, 1)] ∧ paired.core.task.isSome = true ∧
    paired.core.pend = ⟨[], false, [], false⟩ ∧ stopped (getCore paired 1).wait = false :=
  ⟨checked, checked, rfl, ⟨rfl, rfl, rfl, rfl, rfl, rfl, rfl, rfl, checked⟩, checked, rfl, checked, checked⟩
def stoppedGang : Gang := { gang0 with ty := some { type1 with store := 0 }, stopping := 2 }
def stopping : State := { tasked with core := { tasked.core with wait := .stopped }, gangs := [stoppedGang] }
theorem witness_stopping : gangOf stopping 1 = some stoppedGang ∧ stopping.cur / 8 = 0 ∧ storeCopies stopping stoppedGang = false ∧ stopping.dirtyHeld = [] ∧
    stopping.core.wait = .stopped ∧ stopping.core.mode = .run ∧ stopping.core.ssb = none ∧
    stalledSrc stopping 0 = false ∧ storesOut stopping 0 none = false := by decide +kernel
theorem witness_notStopping : gangOf tasked 1 = some gang0 ∧ gang0.stopping = 0 := by decide +kernel

/-- TraceAndClocks: selectors of counters, and one that names none. -/
def traceOp : SysOp := ⟨0, false, 5, 10, 11⟩
theorem witness_counters : Issues (sysIns 8 0 traceOp (regsOf .g 10) []) user once ∧ Issues (sysIns 8 1 traceOp (regsOf .g 10 ++ regsOf .g 11) []) user once ∧
    Issues (sysIns 8 2 traceOp (regsOf .g 10) (regsOf .g 5)) user once ∧ CounterIs user 0 0 ∧ CounterIs user 0x401 0 ∧ user.core.priv ≠ .h ∧
    ∃ e, e ≤ 141 ∧ (0x38D = 0x200 + e ∨ 0x38D = 0x300 + e) :=
  ⟨issues checked, issues checked, issues checked, .inl ⟨rfl, checked⟩,
    .inr (.inr (.inr (.inr (.inr (.inr (.inl ⟨rfl, checked⟩)))))), by decide, ⟨141, by decide, .inr rfl⟩⟩
theorem witness_noCounter (n : Nat) : ¬ CounterIs { user with core := { user.core with priv := .h } } 4 n := by
  unfold CounterIs
  rintro (⟨h, -⟩ | ⟨h, -⟩ | ⟨h, -⟩ | ⟨h, -⟩ | ⟨h, -⟩ | ⟨h, -⟩ | ⟨h, -⟩ | ⟨-, e, -, ⟨h, -⟩ | ⟨h, -⟩⟩) <;> omega
/-- A clock that holds lock, at its rate. -/
def lockedClock : TraceClock := ⟨5, true, true, 5 * 190000⟩
def bothLocked : State := { State.reset with clock0 := lockedClock, clock1 := lockedClock }
theorem witness_clocks : State.reset.clock0.held = false ∧ State.reset.clock1.held = false ∧ State.reset.clock0.locked = false ∧ State.reset.clock1.locked = false ∧
    State.reset.clock0.base = 0 ∧ Untraced State.reset ∧ bothLocked.clock0.held = true ∧ OnTime bothLocked.clock0 bothLocked.clock1 ∧
    (let s : State := { State.reset with clock1 := lockedClock }; s.clock0.held = false ∧ s.clock1.held = true ∧ traceTime s 0 ≤ traceTime s 1 + 32) :=
  ⟨rfl, rfl, rfl, rfl, rfl, untraced_of rfl rfl, rfl, by unfold OnTime; decide, checked⟩

/-- TraceBuffers: the hypervisor's ring of 4096 bytes at 0x20000 with its descriptor at 0x10000, empty, and full. -/
def ringBuf (dw1 prod : Nat) : TraceBuf := ⟨[0x20000, dw1, prod, 0, 0, 0], true, 0, 0, false, false⟩
def ringNo : Nat := hbuf + 8192 * 1024
def ring (dw1 prod : Nat) : State := { user with
  mem := putDw tables 0x10000 [0x20000, dw1, prod, 0, 0, 0]
  mgmt := { user.mgmt with htrdesc := BitVec.ofNat 64 (0x10000 + 1023 * 2 ^ 48) }
  trc := { user.trc with bufs := [(ringNo, ringBuf dw1 prod)] } }
def on : Nat := 2 ^ 63
def lossless : Nat := 2 ^ 63 + 2 ^ 62
theorem witness_ring : RingReady (ring on 0) (bufNow (ring on 0) hbuf) (ringBuf on 0) 7 16 ∧ (ring on 0).mgmt.htrdesc.getLsbD (48 + 3) = true ∧
    ∀ r ∈ (ring on 0).trc.waiting, r.buf ≠ bufNow (ring on 0) hbuf :=
  ⟨by unfold RingReady; decide +kernel, checked, checked⟩
def known (dw1 : Nat) : Option TraceBuf × State := knowBuf (ring dw1 4096) ringNo 16
theorem witness_fullRing (b : Bool) : let dw1 := if b then lossless else on
    (known dw1).1 = some (ringBuf dw1 4096) ∧ bitOf dw1 63 = true ∧ bitOf dw1 61 = false ∧ (ringBuf dw1 4096).fits 16 = false ∧
      (ringBuf dw1 4096).lossless = b ∧ (ringBuf dw1 4096).dw.length = 6 := by
  cases b <;> exact ⟨checked, checked, checked, checked, checked, rfl⟩
def record : List Byte := leBytes 16 77
def waitRec : TraceRec := ⟨0, ringNo, 1, record, 3, 0⟩
def stalled (dw1 : Nat) : State := let s := ring dw1 0
  { s with cycle := 5000, trc := { s.trc with waiting := [waitRec] } }
theorem witness_stallEnd : (stalled lossless).trc.waiting.find? (fun q => q.src == 0) = some waitRec ∧ waitRec.bytes.length = 16 ∧
    RingReady (stalled lossless) ringNo (ringBuf lossless 0) 7 (16 + 32) ∧ stalledSrc (stalled lossless) (stalled lossless).cur = true ∧ stalledSrc user 0 = false :=
  ⟨checked, rfl, by unfold RingReady; decide +kernel, checked, checked⟩
def limited : Nat := lossless + 4 * 2 ^ 32
theorem witness_stallLimit : (stalled limited).trc.waiting.find? (fun q => q.src == 0) = some waitRec ∧
    getBuf (stalled limited) ringNo = ringBuf limited 0 ∧ fld limited 47 32 = 4 ∧ 3 + 4 * 1024 ≤ (stalled limited).cycle.toNat ∧
    fld lossless 47 32 = 0 ∧ getBuf (stalled lossless) ringNo = ringBuf lossless 0 := by decide +kernel


/-- KeysAndController: slots that hold a key, retire, or hold none; a controller out of service. -/
theorem witness_keys : (user.keys.getD 0 KeySlot.reset).valid = true ∧ (user.keys.getD 3 KeySlot.reset).valid = false ∧ (user.keys.getD 3 KeySlot.reset).busy = false ∧
    (({ user with keys := [(0, { slot0 with busy := true })] } : State).keys.getD 0 KeySlot.reset).busy = true ∧
    user.mgmt.service + 2 ^ 24 ≤ ({ user with cycle := 2 ^ 24 } : State).cycle.toNat ∧ user.cycle.toNat < user.mgmt.service + 2 ^ 24 := by decide +kernel

/-- Partitions: a quadrant that may leave, with bytes in its SRAM, and one that would part a partition. -/
def inParts (l : List (Nat × Nat)) : State := { user with
  parts := let v := l.foldl (fun (v : Vector Nat 8) p => v.setIfInBounds p.1 p.2) user.parts.part
           ⟨v, gatesOf v⟩
  mem := memWrite tables (2 ^ 40 + 2 ^ 24 + 5) [1, 2, 3] }
theorem witness_partitions : let part := fun (s : State) (q p : Nat) => s.parts.part.setIfInBounds q p
    (inParts []).parts.part.getD 1 0 ≠ 2 ∧ partsOk { inParts [] with parts := ⟨part (inParts []) 1 2, gatesOf (part (inParts []) 1 2)⟩ } = true ∧
    Memory.wf (inParts []).mem = true ∧ (listedCores (inParts [])).all (fun c => c.2.wbuf.isEmpty && c.2.wait == .none) = true ∧
    (let s := inParts [(4, 3), (5, 3), (6, 3), (7, 3), (2, 3)]
     s.parts.part.getD 6 0 ≠ 5 ∧ partsOk { s with parts := ⟨part s 6 5, gatesOf (part s 6 5)⟩ } = false) := by decide +kernel

/-- CoreControl: a held core and one that runs; halts of a core and of a context; a device without requests under way. -/
theorem witness_control : (getCore user 3).mode = .held ∧ (getCore user 0).mode ≠ .held ∧ (getCore user 0).halted = false ∧
    (0 : BitVec 64).getLsbD 61 = false ∧ (0 : BitVec 64).toNat / 2 ^ 62 = 0 ∧ (0x8000000000000001 : BitVec 64).toNat / 2 ^ 62 = 2 ∧
    (0x8000000000000001 : BitVec 64).toNat % 64 = tasked.core.ctx.toNat ∧ tasked.core.task.isSome = true ∧ user.core.ctx.toNat ≠ 5 ∧
    user.others.all (fun p => p.1 != user.cur) = true ∧ (0x2000000000000000 : BitVec 64).getLsbD 61 = true ∧ user.fab.outs = [] := by decide +kernel

/-- BootAndPower: an image that may start, one that may not, and counters that are raised, torn or not. -/
def bootOk : BootInput := ⟨0, 0x4000, List.replicate 64 0x76543210, 3, none, [], [], 0, 0⟩
theorem witness_boot : BootOk user bootOk ∧ BootOk user { bootOk with raises := some 3 } := by
  unfold BootOk
  refine ⟨⟨rfl, checked, by decide, ?_⟩, ⟨rfl, checked, by decide, ?_⟩⟩ <;> intro w hw <;> obtain rfl := List.eq_of_mem_replicate hw <;>
    exact ⟨by decide, fun i j hi hj => (by decide : ∀ j, j < 8 → ∀ i, i < j → (0x76543210 : BitVec 32).toNat / 16 ^ i % 16 ≠ (0x76543210 : BitVec 32).toNat / 16 ^ j % 16) j hj i hi⟩
theorem witness_power : let s : State := { user with mgmt := { user.mgmt with rollback := 5, raises := some 4 } }
    bootOk.version < s.mgmt.rollback ∧ s.mgmt.raises = some 4 ∧ user.mgmt.raises = none := by decide +kernel
theorem witness_trip : let s : State := { user with mgmt := { user.mgmt with phase := 0xFE }, agenda := [⟨3, .core 0⟩, ⟨4, .core 0⟩] }
    s.mgmt.phase = 0xFE ∧ s.agenda = ⟨3, .core s.cur⟩ :: [⟨4, .core 0⟩] ∧ (1760 : BitVec 16).toNat ≥ 1760 ∧ (1759 : BitVec 16).toNat < 1760 := by decide +kernel
theorem test_trip : let s : State := { user with mgmt := { user.mgmt with phase := 0xFE }, agenda := [⟨3, .core 0⟩, ⟨4, .core 0⟩] }
    after (step s) = tick { s with agenda := [⟨4, .core 0⟩] } 3 := by decide +kernel

/-- RemoteMemory: window 1 gives the first 2 GiB of context 1 to every node, for reads and writes, window 3 the management space. -/
def packet (kind chan cls sub addr : Nat) (data : List Byte) : Packet := {
  dst := 0, src := 9, kind := BitVec.ofNat 4 kind, nflit := BitVec.ofNat 4 ((data.length + 31) / 32), chan := BitVec.ofNat 2 chan, cls := BitVec.ofNat 2 cls, seq := 0,
  addr := BitVec.ofNat 64 addr, ctx := 1, sub := BitVec.ofNat 10 sub, tag := 5, relay := 0, rz := 0, cause := 0, stamp := 0, data := data }
def inWin (a : Nat) : Nat := 2 ^ 42 + a
def windowWord (kind : Nat) : Nat := 2 ^ 63 + kind * 2 ^ 60 + 2 ^ 59 + 1023 * 2 ^ 28 + 1
def windows : List (Nat × List Word) := [(1, [BitVec.ofNat 64 (windowWord 0), 0, 0x80000000]), (3, [BitVec.ofNat 64 (windowWord 3), 0, 0x400000])]
def host : State := { user with fab := { user.fab with windows := windows, outbox := [], reach := [(9, 0xC001)] } }
theorem arrives_of {kind : Nat} {p : Packet} {s : State} (h : (p.kind.toNat = kind ∧ p.cls = 0 ∧ p.dst = s.fab.own ∧ headerBad p = false ∧ p.src ≠ s.fab.own ∧
    s.fab.markers = [] ∧ s.fab.held = [] ∧ s.fab.full = []) ∧ (p.chan == 0 || p.seq.toNat == s.fab.recvSeq.getD (p.src.toNat * 4 + p.chan.toNat) 0) = true) :
    Arrives kind p s :=
  ⟨h.1.1, h.1.2.1, h.1.2.2.1, h.1.2.2.2.1, h.1.2.2.2.2.1, h.1.2.2.2.2.2.1, h.1.2.2.2.2.2.2.1, h.1.2.2.2.2.2.2.2, by simpa using h.2⟩
def placeOf1 (va acc : Nat) : Loc × State := ans place0 (translate ⟨irqCore host 1, 1, .u⟩ va acc host)
theorem witness_remoteLoad : let p := packet 0 0 0 7 (inWin 0x5008) []
    Arrives 0 p host ∧ Window host p 8 false 0 1 0x5008 ∧ sizeOf_ p = 8 ∧ PlacedAt host (placeOf1 0x5008 1).2 1 0x5008 8 1 (placeOf1 0x5008 1).1 :=
  ⟨arrives_of checked, by unfold Window; decide +kernel, checked,
    ⟨by decide, by decide, ok2 checked, checked, checked, fun _ => by decide +kernel⟩⟩
theorem witness_remoteStore : let p := packet 1 1 0 3 (inWin 0x5008) [1, 2, 3, 4]
    Arrives 1 p host ∧ Window host p 4 true 0 1 0x5008 ∧ sizeOf_ p = 4 ∧ PlacedAt host (placeOf1 0x5008 2).2 1 0x5008 4 2 (placeOf1 0x5008 2).1 ∧
      logWrite ⟨irqCore (placeOf1 0x5008 2).2 1, 1, .u⟩ (placeOf1 0x5008 2).1 (placeOf1 0x5008 2).2 =
        .ok ((), (ans () (logWrite ⟨irqCore (placeOf1 0x5008 2).2 1, 1, .u⟩ (placeOf1 0x5008 2).1 (placeOf1 0x5008 2).2)).2) :=
  ⟨arrives_of checked, by unfold Window; decide +kernel, checked,
    ⟨by decide, by decide, ok2 checked, checked, checked, fun h => by simp at h⟩, okU checked⟩
theorem no_window {p : Packet} {n : Nat} {w : Bool} {s : State} (h : bitOf ((s.fab.windows.getD (p.addr.toNat / 2 ^ 42 % 64) []).getD 0 0).toNat 63 = false) :
    ∀ kind ctx va, ¬ Window s p n w kind ctx va := fun _ _ _ hw => by
  have := hw.2.1
  simp only [this] at h
  cases h
theorem witness_refused : (∀ kind ctx va, ¬ Window host (packet 0 0 0 7 (2 * 2 ^ 42) []) 8 false kind ctx va) ∧ Arrives 0 (packet 0 0 0 7 (2 * 2 ^ 42) []) host ∧
    Arrives 1 (packet 1 0 0 7 (2 * 2 ^ 42) (leBytes 8 7)) host ∧ Arrives 0 (packet 0 0 0 7 (inWin 0x5004) []) host ∧
    Window host (packet 0 0 0 7 (inWin 0x5004) []) 8 false 0 1 0x5004 ∧ Arrives 0 (packet 0 0 0 7 (3 * 2 ^ 42) []) host ∧
    Window host (packet 0 0 0 7 (3 * 2 ^ 42) []) 8 false 3 1 0 :=
  ⟨no_window checked, arrives_of checked, arrives_of checked, arrives_of checked, by unfold Window; decide +kernel,
    arrives_of checked, by unfold Window; decide +kernel⟩
theorem witness_remoteAtomic : let p := packet 2 0 0 32 (inWin 0x40005008) (leBytes 8 5 ++ leBytes 8 0)
    let q := packet 2 0 0 32 (inWin 0x5008) (leBytes 8 5 ++ leBytes 8 0)
    Arrives 2 p host ∧ Window host p 8 true 0 1 0x40005008 ∧ PlacedAt host (placeOf1 0x40005008 3).2 1 0x40005008 8 3 (placeOf1 0x40005008 3).1 ∧
      (placeOf1 0x40005008 3).1.place = .hbm ∧ (placeOf1 0x40005008 3).1.sync = true ∧
      isOk (logWrite ⟨irqCore (placeOf1 0x40005008 3).2 1, 1, .u⟩ (placeOf1 0x40005008 3).1 (placeOf1 0x40005008 3).2) = true ∧
      Arrives 2 q host ∧ Window host q 8 true 0 1 0x5008 ∧ PlacedAt host (placeOf1 0x5008 3).2 1 0x5008 8 3 (placeOf1 0x5008 3).1 ∧
      (placeOf1 0x5008 3).1.sync = false ∧ Window host (packet 2 0 0 32 (inWin 0x5004) (leBytes 16 0)) 8 true 0 1 0x5004 :=
  ⟨arrives_of checked, by unfold Window; decide +kernel, ⟨by decide, by decide, ok2 checked, checked, checked, fun _ => by decide +kernel⟩,
    checked, checked, checked, arrives_of checked, by unfold Window; decide +kernel,
    ⟨by decide, by decide, ok2 checked, checked, checked, fun _ => by decide +kernel⟩, checked, by unfold Window; decide +kernel⟩
theorem witness_remoteFull : let p := packet 3 0 0 2 (inWin 0x5008) (leBytes 8 5)
    let q := packet 3 0 0 4 (inWin 0x5008) (leBytes 8 5)
    Arrives 3 p host ∧ Window host p 8 true 0 1 0x5008 ∧ PlacedAt host (placeOf1 0x5008 1).2 1 0x5008 8 1 (placeOf1 0x5008 1).1 ∧
      feReady (feFull (placeOf1 0x5008 1).2 0x5008) 2 = true ∧ (placeOf1 0x5008 1).2.feq = [] ∧
      Arrives 3 q host ∧ [2, 3, 4, 5].any (fun m => !feReady (feFull (placeOf1 0x5008 2).2 0x5008) m) = true ∧ (placeOf1 0x5008 1).1.at_ = 0x5008 :=
  ⟨arrives_of checked, by unfold Window; decide +kernel, ⟨by decide, by decide, ok2 checked, checked, checked, fun _ => by decide +kernel⟩,
    checked, checked, arrives_of checked, checked, checked⟩

/-- RemoteWork: a spawn, operations on an entry, a row and a member of a group. -/
def spawnPkt : Packet := { packet 4 0 0 1 0 (leBytes 8 0x5001 ++ leBytes 8 7 ++ leBytes 8 8) with addr := 0 }
theorem witness_remoteSpawn : Arrives 4 spawnPkt host ∧ ctxValid host 1 = true ∧ isOk (spawnAt 1 1 0 0 0x5001 7 8 0 0 true host) = true ∧
    (ans 0 (spawnAt 1 1 0 0 0x5001 7 8 0 0 true host)).2.fab = host.fab ∧
    ctxValid { host with mem := [] } 1 = false ∧ Arrives 4 spawnPkt { host with mem := [] } :=
  ⟨arrives_of checked, checked, checked, checked, checked, arrives_of checked⟩
def holding (st : FtState) (h : Word) : State := { host with clusters := [(0, { Cluster.reset with ft := [(3, entryOf st h 1)] })] }
theorem witness_remoteResolve (st : FtState) : let s := holding st named
    Arrives 5 (packet 5 0 0 0 named.toNat (leBytes 8 9)) s ∧ NamedBy s (packet 5 0 0 0 named.toNat (leBytes 8 9)) 3 (entryOf st named 1) ∧ (entryOf st named 1).kind = 1 ∧
      Arrives 6 (packet 6 0 0 1 named.toNat (leBytes 8 77)) s ∧ NamedBy s (packet 6 0 0 1 named.toNat (leBytes 8 77)) 3 (entryOf st named 1) ∧
      ⟨named, 77⟩ ∉ s.waits ∧ waitersOf s named = [] := by
  cases st <;> exact ⟨arrives_of checked, ⟨checked, checked, checked, checked, checked, rfl, by decide⟩,
    by decide, arrives_of checked, ⟨checked, checked, checked, checked, checked, rfl, by decide⟩,
    checked, checked⟩
theorem witness_remoteKind : let s := holding .pending kindTwo
    Arrives 5 (packet 5 0 0 0 kindTwo.toNat (leBytes 8 9)) s ∧ NamedBy s (packet 5 0 0 0 kindTwo.toNat (leBytes 8 9)) 3 (entryOf .pending kindTwo 1) ∧
      (entryOf .pending kindTwo 1).kind ≠ 1 :=
  ⟨arrives_of checked, ⟨checked, checked, checked, checked, checked, rfl, by decide⟩, by decide⟩
theorem witness_row : let p := packet 7 0 0 (256 + 7) 0x5000 []
    Arrives 7 p host ∧ p.sub.getLsbD 8 = true ∧ isOk (engRead [] ⟨irqCore host 1, 1, .u⟩ 0x5000 8 host) = true ∧
      (ans [] (engRead [] ⟨irqCore host 1, 1, .u⟩ 0x5000 8 host)).1.length = 8 ∧
      (ans [] (engRead [] ⟨irqCore host 1, 1, .u⟩ 0x5000 8 host)).2.fab = host.fab ∧ Arrives 7 (packet 7 0 0 7 0xFFFFFFC02000 (leBytes 8 7)) host ∧
      0xFFFFFFC00000 ≤ (packet 7 0 0 7 0xFFFFFFC02000 (leBytes 8 7)).addr.toNat % 2 ^ 48 :=
  ⟨arrives_of checked, checked, checked, checked, checked, arrives_of checked, checked⟩
def grouped (own : Bool) : State := { host with fab := { host.fab with
  groups := [(1, [BitVec.ofNat 64 (2 ^ 63 + 1), 0, 0x80000000, 0, if own then 1 else 0])] } }
/-- Whether the entries of both nodes agree is the device's (log 37): the store is performed if so, and answered with cause 18 if not. -/
def castPkt : Packet := packet 8 0 0 (64 + 3) (inWin 0x5008) [1, 2, 3, 4]
theorem witness_group (own : Bool) : let s := grouped own
    let e := s.fab.groups.getD 1 []
    Arrives 8 castPkt s ∧ castPkt.sub.getLsbD 6 = true ∧ sizeOf_ castPkt = 4 ∧ (e.getD 0 0).getLsbD 63 = true ∧ (e.getD 0 0).getLsbD 62 = castPkt.sub.getLsbD 7 ∧
      (e.getD 0 0).getLsbD 62 = false ∧ (e.getD 0 0).toNat % 64 = 1 ∧ (e.getD (4 + s.fab.own.toNat / 64) 0).getLsbD (s.fab.own.toNat % 64) = own ∧
      0x5008 + 4 ≤ (e.getD 2 0).toNat ∧ Arrives 8 (packet 8 0 0 (64 + 3) (inWin 0x5006) [1, 2, 3, 4]) s ∧ 0x5006 % 4 ≠ 0 ∧ (e.getD 1 0).toNat = 0 ∧ isOk (translate ⟨irqCore s 1, 1, .u⟩ 0x5008 2 s) = true := by
  cases own <;> exact ⟨arrives_of checked, checked, checked, checked, checked, checked, checked,
    checked, checked, arrives_of checked, by decide, checked, checked⟩

/-- Answering: requests on an ordered channel that come early and late. -/
def ordered : State := { host with fab := { host.fab with recvSeq := [(9 * 4 + 1, 5)] } }
theorem witness_order : let p := { packet 1 1 0 7 (inWin 0x5008) (leBytes 8 7) with seq := 6 }
    let q := { packet 1 1 0 7 (inWin 0x5008) (leBytes 8 7) with seq := 4 }
    headerBad p = false ∧ p.chan ≠ 0 ∧ ordered.fab.recvSeq.getD (p.src.toNat * 4 + p.chan.toNat) 0 = 5 ∧ (p.seq.toNat + 2 ^ 32 - 5) % 2 ^ 32 = 1 ∧
      headerBad q = false ∧ 64 ≤ (q.seq.toNat + 2 ^ 32 - 5) % 2 ^ 32 ∧ ordered.fab.held = [] ∧ ordered.fab.full = [] ∧ ordered.fab.markers = [] := by decide +kernel

/-- An answer to a load of the waiting core, and acknowledgements of a store. -/
def loadOut : Out := ⟨5, 9, 0, 0, 0x5008, 0x80005008, .reg 0 5 0 false 4, 1, 1⟩
def storeOut : Out := ⟨5, 9, 1, 1, 0x5008, 0x80005008, .store 0 0x40, 1, 1⟩
def asked (o : Out) : State := { host with core := { host.core with wait := .reply 5 }, fab := { host.fab with outs := [o] } }
theorem witness_reply (c : Bool) : let p := { packet 0 0 1 7 0 (leBytes 8 7) with cause := if c then 0 else 6 }
    let a := { packet 9 1 1 0 0 [] with cause := if c then 0 else 6 }
    Answers p loadOut (asked loadOut) ∧ p.kind = 0 ∧ loadOut.forw = .reg (asked loadOut).cur 5 0 false 4 ∧ (asked loadOut).core.wait = .reply loadOut.tag ∧
      p.sub.toNat % 64 = 7 ∧ Answers a storeOut (asked storeOut) ∧ a.kind = 9 ∧ storeOut.forw = .store 0 0x40 ∧
      (asked storeOut).fab.outs.find? (fun x => x.tag == storeOut.tag) = some storeOut ∧ (asked storeOut).fab.outbox = [] ∧
      host.fab.outs.find? (fun o => o.tag == 5) = none ∧ Answers { p with cause := 20 } loadOut (asked loadOut) ∧ storeOut.tag = 5 := by
  cases c <;> exact ⟨⟨checked, checked, checked, checked, checked⟩, checked, checked, rfl,
    checked, ⟨checked, checked, checked, checked, checked⟩, checked, rfl,
    checked, rfl, checked, ⟨checked, checked, checked, checked, checked⟩, rfl⟩
theorem witness_control2 : headerBad { packet 0 0 0 7 0 [] with rz := 1 } = true ∧ headerBad (packet 0 0 0 7 0 []) = false ∧ (packet 0 0 0 7 0 []).src ≠ host.fab.own ∧
    { packet 0 0 0 7 0 [] with dst := 3 }.dst ≠ host.fab.own ∧ headerBad (packet 10 1 2 0 0 []) = false ∧ headerBad (packet 11 1 2 0 0 []) = false ∧
    host.fab.recvSeq.getD (9 * 4 + 1) 0 = 0 ∧ (packet 10 1 2 0 0 []).kind = 10 ∧ (packet 10 1 2 0 0 []).cls = 2 := by decide +kernel
def early : State := { host with fab := { host.fab with held := [{ packet 1 1 0 7 (inWin 0x5008) (leBytes 8 7) with seq := 6 }] } }
theorem witness_early : ∃ q ∈ early.fab.held, q.src = (packet 10 1 2 0 0 []).src ∧ q.chan = (packet 10 1 2 0 0 []).chan :=
  ⟨_, List.mem_cons_self, checked, checked⟩

/-- Ports: one port that sends to node 9; a drained one with a node that leaves; a port in HOLD. -/
def sendPort : Port := { Port.reset with cal := [(0, 0x8009)], width := 8 }
def ported (p : Port) (out : List Packet) : State := { host with fab := { host.fab with
  ports := (List.range 32).map (fun n => (n, if n = 3 then p else { Port.reset with width := 0 })), outbox := out, relay := [], dark := true } }
def toNine (n : Nat) : Packet := { packet 1 0 0 7 0 (List.replicate n 1) with dst := 9, src := 0 }
/-- Late in slot 0, less than 96 ns before its end. -/
def late (s : State) : State := { s with cycle := 3700, fab := { s.fab with dark := false } }
theorem witness_slot : SendsTo (ported sendPort [toNine 8]) 0 3 9 ∧ SlotNow (ported sendPort [toNine 8]) 0 ∧ (toNine 8).dst.toNat = 9 ∧
    32 + 32 * (toNine 8).nflit.toNat ≤ (getPort (ported sendPort [toNine 8]) 3).width * 8 * (250 * ((ported sendPort [toNine 8]).fab.ftime.toNat / 256 % 64) - 96) ∧ ¬ SlotNow (late host) 0 ∧ (packet 1 0 0 7 0 []).dst.toNat ≠ 9 ∧
    ((({ ported sendPort [toNine 8] with fab := { (ported sendPort [toNine 8]).fab with reach := [(0, 0xC000)] } } : State).fab.reach.getD 0 0)).getLsbD 14 = true := by
  unfold SendsTo SlotNow; decide +kernel
/-- In a slot of a microsecond one lane moves fourteen packets of 512 bytes, and the fifteenth waits. -/
def fifteen : State := let s := ported { sendPort with width := 1 } (List.replicate 15 (toNine 480))
  { s with fab := { s.fab with ftime := 0x400 } }
theorem witness_slotFull : SendsTo fifteen 0 3 9 ∧ SlotNow fifteen 0 ∧ fifteen.fab.outbox = List.replicate 14 (toNine 480) ++ [toNine 480] ∧
    (∀ q ∈ fifteen.fab.outbox, q.dst.toNat = 9) ∧
    (let room := (getPort fifteen 3).width * 8 * (250 * (fifteen.fab.ftime.toNat / 256 % 64) - 96)
     let total := ((List.replicate 14 (toNine 480)).map (fun q => 32 + 32 * q.nflit.toNat)).sum
     total ≤ room ∧ room < total + (32 + 32 * (toNine 480).nflit.toNat)) := by
  unfold SendsTo SlotNow; decide +kernel
theorem witness_lanes2 : DarkNow (late host) ∧ (late host).fab.farm = 0 ∧ (late host).fab.outs = [] ∧ (late host).fab.light = [] ∧ Untraced (late host) ∧ ¬ DarkNow host :=
  ⟨by unfold DarkNow; decide +kernel, rfl, rfl, rfl, untraced_of rfl rfl, by unfold DarkNow; decide +kernel⟩
def leaving (outs : List Out) : State := let s := ported { sendPort with st := .drain } []
  { s with cycle := 3700, fab := { s.fab with farm := 100, outs := outs, dark := false, reachArmed := [] } }
theorem witness_drain2 : (getPort (leaving []) 3).st = .drain ∧ (leaving []).fab.relay = [] ∧ peerOf (leaving []) 3 = some 9 ∧ leavingNode (leaving []) 9 = true ∧
    DarkNow (leaving []) ∧ (∀ k, k < 32 → (getPort (leaving []) k).acked = [] ∧ (getPort (leaving []) k).sent = []) ∧ (leaving []).fab.outbox = [] ∧ leavers (leaving []) ≠ [] ∧ (getPort (leaving []) 3).acked = [] ∧
    (leaving []).fab.outs = [] ∧ (leaving []).fab.farm ≠ 0 ∧ leavingNode (leaving [loadOut]) loadOut.dst = true ∧ Untraced (leaving []) ∧
    (leaving []).fab.farm.toNat ≤ (leaving []).fab.fepoch.toNat + ((leaving []).fab.slot + 1) * (4000 * ((leaving []).fab.ftime.toNat / 256 % 64)) :=
  ⟨checked, rfl, checked, checked, by unfold DarkNow; decide +kernel, checked, rfl, checked, checked, rfl, checked, checked, untraced_of rfl rfl, checked⟩
def heldPort (farm : Nat) : State := let s := ported { Port.reset with st := .hold } []
  { s with fab := { s.fab with farm := BitVec.ofNat 64 farm } }
theorem witness_hold : (getPort (heldPort 0) 3).st = .hold ∧ (getPort (heldPort 100) 3).st = .hold ∧ (heldPort 0).fab.outs = [] ∧ (heldPort 100).fab.farm ≠ 0 ∧
    (getPort (heldPort 0) 4).st ≠ .hold ∧ Untraced (heldPort 0) := ⟨checked, checked, rfl, checked, checked, untraced_of rfl rfl⟩

/-! Single steps with values worked out by hand from the rules. -/

def gOf (n : Nat) (r : Host.Outcome State Fault Refusal) : Nat := ((after r).core.getG n).toNat
def vOf (n i : Nat) (r : Host.Outcome State Fault Refusal) : Nat := (lane 32 ((after r).core.getV n) i).toNat

/-- 07 R150: the most negative number by -1, and a remainder by 0. -/
theorem test_div : gOf 3 (exec (.div ⟨none, 3, 4, none⟩) (regs user [(3, 2 ^ 63), (4, 2 ^ 64 - 1)])) = 2 ^ 63 ∧
    gOf 3 (exec (.rem ⟨none, 3, 4, none⟩) (regs user [(3, 77)])) = 77 := by decide +kernel
/-- 07 R149: shift amounts are taken modulo 64; the source may be the destination. -/
theorem test_shift : gOf 3 (exec (.sll ⟨none, 3, 3, none⟩) (regs user [(3, 65)])) = 130 ∧
    gOf 3 (exec (.sra ⟨none, 3, 4, none⟩) (regs user [(3, 2 ^ 63), (4, 64 + 63)])) = 2 ^ 64 - 1 := by decide +kernel
/-- 07 R150: bits 4 to 7 and 0 of the source are gathered. -/
theorem test_bext : gOf 3 (exec (.bext ⟨none, 3, 4, none⟩) (regs user [(3, 0xA5), (4, 0xF1)])) = 0x15 := by decide +kernel
/-- 07 R151: g0 is not written. -/
theorem test_zero : gOf 0 (exec (.li ⟨none, false, 0, ⟨0, 5⟩⟩) user) = 0 := by decide +kernel
/-- 06 R135; 07 R145: `trap` enters the handler at level K. -/
theorem test_trap : (after (exec (.trap 9) user)).core.priv = .k ∧ (after (exec (.trap 9) user)).core.mode = .run := by decide +kernel
/-- 08 R179: 1.5 · 2 + 0.25 is rounded once. -/
theorem test_vfma : vOf 3 1 (exec (.vfma ⟨none, none, 3, 1, some 2⟩) (vregs user [(1, 0x3FC00000 * 2 ^ 32), (2, 0x40000000 * 2 ^ 32), (3, 0x3E800000 * 2 ^ 32)])) = 0x40500000 := by
  decide +kernel
/-- 04 R84; 05 R100: a store to the core store is little-endian and performed at once; the load of two of its bytes extends the sign. -/
theorem test_memory : memRead (after (exec (.st ⟨none, false, 0, 5, 4, 3, 0, 0, ⟨0, 0⟩⟩) (regs user [(5, 0x0102030405060708), (4, 0xFFFFFFFC1000)]))).mem (2 ^ 40 + 0x1000) 8 =
    [8, 7, 6, 5, 4, 3, 2, 1] ∧
    gOf 5 (exec (.lds ⟨none, false, 0, 5, 4, 1, 0, 0, ⟨0, 0⟩⟩) (regs { user with mem := memWrite tables (2 ^ 40 + 0x1000) [0x34, 0x92] } [(4, 0xFFFFFFFC1000)])) = 0xFFFFFFFFFFFF9234 := by
  decide +kernel

/-! Run-ahead (05 R110, 06 R137) -/

/-- `ld.d g10, 0(g4)`, `ld.d g11, 0(g5)`, `ld.d g12, 0(g10)`, `add g5, g7`, `ld.d g13, 0(g5)`, `addi g1, 1`, `bnez g0`, `ld.d g2, 0(g6)`,
`trap 0`, with g4 to g6 in pages that are not mapped. -/
def aheadProg : State :=
  let s := regs user [(4, 0x100000000), (5, 0x100010000), (6, 0x100050000), (7, 0x10000)]
  { s with
    mem := memWrite s.mem (coreStoreAt 0 0) (bytesOfParcels [0x80A4, 0xC000, 0x80B5, 0xC000, 0x80CA, 0xC000, 0x1570, 0x80D5, 0xC000, 0x2101,
      0x5043, 0x8026, 0xC000, 0x0200])
    xcsrs := (updX s 1 0 (fun x => { x with fbatch := 0x100000 })).xcsrs }

def ldOp (d b : BitVec 6) : MemOp := ⟨none, false, 0, d, b, 3, 0, 0, ⟨0, 0⟩⟩

/-- The batch of the first load: four pages, those of the loads through g4, g5, the new g5 and g6; g10 is not known. -/
theorem test_runAhead :
    let t := after (step aheadProg)
    (List.range 6).map (fun i => ofLe (memRead t.mem (0x100000 + 8 * i) 8)) = [4, 0x100000110, 0x100010110, 0x100020110, 0x100050110, 0] ∧
    t.core.cause = 5 ∧ t.core.tval = 0x100000000 ∧ t.core.priv = .k := by decide +kernel

/-- Two parcels, one after the other. -/
def first (s : State) : Nat × State := ans 0 (fetchParcel (s.core.pc.toNat % 2 ^ 48) s)
def second (s : State) : Nat × State := ans 0 (fetchParcel (((first s).2.core.pc.toNat + 2) % 2 ^ 48) (first s).2)

theorem fetches {s : State} {a b : Nat} (ha : isOk (fetchParcel (s.core.pc.toNat % 2 ^ 48) s) = true) (ea : (first s).1 = a)
    (hb : isOk (fetchParcel (((first s).2.core.pc.toNat + 2) % 2 ^ 48) (first s).2) = true) (eb : (second s).1 = b) :
    FetchesFrom s (second s).2 0 [a, b] := by
  have h0 := ok2 (d := 0) ha
  have h1 := ok2 (d := 0) hb
  change _ = Except.ok ((first s).1, (first s).2) at h0
  change _ = Except.ok ((second s).1, (second s).2) at h1
  rw [ea] at h0
  rw [eb] at h1
  exact ⟨_, h0, _, h1, rfl⟩

/-- The state in which the load behind the first has been fetched. -/
def aheadAt : State := (second (behindLoad (ldOp 10 4) aheadProg)).2

/-- RunAhead: the load that faults, and the one behind it. -/
theorem witness_runAhead : (Instr.ld (ldOp 10 4)).wf = true ∧ (Instr.ld (ldOp 11 5)).wf = true ∧
    Issues (memIns 0 0 (ldOp 10 4)) aheadProg once ∧
    (scalarEa 4 ((ldOp 10 4).imm.sval 5) 8 0 (started (memIns 0 0 (ldOp 10 4)) once aheadProg)).toOption.map (fun p => p.1) = some 0x100000000 ∧
    (err (access (started (memIns 0 0 (ldOp 10 4)) once aheadProg) 0x100000000 1)).code = 5 ∧
    bkptHit (behindLoad (ldOp 10 4) aheadProg) = none ∧
    FetchesFrom (behindLoad (ldOp 10 4) aheadProg) aheadAt 0 [0x80B5, 0xC000] ∧ decodeParcels [0x80B5, 0xC000] = .ok (.ld (ldOp 11 5)) 2 ∧
    (scalarEa 5 ((ldOp 11 5).imm.sval 5) 8 0 aheadAt).toOption.map (fun p => p.1) = some 0x100010000 ∧
    (err (access aheadAt 0x100010000 1)).code = 5 :=
  ⟨checked, checked, issues checked, checked, checked, checked,
    fetches checked checked checked checked, checked,
    checked, checked⟩

/-- A core at H with a place for its batch, and two pages: the record at `fbatch.h` and the entry at H. -/
def hbatch : State := { State.reset with fbatchh := 0x200000, keys := [(0, slot0)] }
def twoPages : Trap := { code := 5, tval := 0x30000, pages := [⟨3, 1, 0, 1, false⟩, ⟨4, 2, 1, 2, true⟩, ⟨3, 1, 0, 2, false⟩] }

theorem witness_batch : Untraced hbatch ∧ keyVal hbatch 0 = some 7 ∧ hbatch.fbatchh.toNat % 256 = 0 :=
  ⟨untraced_of rfl rfl, checked, checked⟩

theorem test_batch : let t := takeTrap hbatch 4 twoPages
    (List.range 4).map (fun i => ofLe (memRead t.mem (0x200000 + 8 * i) 8)) = [0x102, 0x30130, 0x402A8, 0] ∧
    t.core.causeh = 5 ∧ t.core.tvalh = 0x30000 ∧ t.core.pc = 0xFFFFFFFC0000 := by decide +kernel
/-! Where forms complete -/

theorem witness_coreForms : Issues mulIns arrayed once ∧ ArrayReady arrayed ∧ arrayed.core.wait = .none ∧ arrayed.core.wbuf = [] ∧ arrayed.ecc = [] ∧
    (arrayed.core.arr.slot 2).valid = true ∧ mulOp.first.toNat + (mulOp.nb.toNat + 1) ≤ (arrayed.core.arr.slot 2).nblk + 1 ∧
    ptrOk true (arrayed.core.getG 4) = true ∧ ptrFmt (arrayed.core.getG 4) ≠ 13 ∧ (∃ c, classOf (ptrFmt (arrayed.core.getG 4)) = some c ∧ c ≤ (arrayed.core.arr.slot 2).cls) ∧
    lblLen (ptrLbl (arrayed.core.getG 4)) = (arrayed.core.arr.slot 2).len ∧
    (let p := arrayed.core.getG 4
     let g := arrayed.core.getG 9
     let sz := fmtSize (ptrFmt p)
     effective p 0 % sz = 0 ∧ g.toNat % sz = 0 ∧
       ∀ e ∈ aElems arrayed.core.arr.rowP.toNat arrayed.core.arr.kP.toNat (arrayed.core.arr.slot 2).len (mulOp.nb.toNat + 1) (effective p 0) sz g.toInt,
         0xFFFFFFFC0000 ≤ e.2 ∧ e.2 + sz ≤ 0xFFFFFFFF8000) ∧
    Issues (taskIns 2 0 taskOp (gr 4) (gr 5 ++ gr 6)) (futured .pending named 1) once :=
  ⟨issues checked, ⟨by unfold Free; decide +kernel, checked⟩, rfl, rfl, rfl, checked, checked, checked, checked,
    ⟨8, checked, checked⟩, checked, checked, issues checked⟩

/-- A member that only read its one tile. -/
theorem witness_freed : let s := writing [(2, 9)] [(2, { tileArg 1 0x5000 with tile := 2 })] [2] []
    gangOf s 1 = some (wroteGang [2]) ∧ findWork s 0 7 ⟨1, 0⟩ = none ∧ turnOf s 0 0 = true ∧
      (∀ t ∈ (wroteMember [2]).wb, ownerOf s 0 t ≠ 8 ∧ ((getCl s 0).tdesc.find? t).map (fun d => d.writes) = some false) ∧
      s.dirtyHeld.contains (64, 8) = false ∧ stalledSrc s 512 = false ∧ stalledSrc s 576 = false ∧ entryAt s 0 0 = some own0 := by decide +kernel

/-- CoreControl and BootAndPower: halts and resumes of the device, a core that is held, a reset whose slots are 2 microseconds. -/
theorem witness_management : (getCore user 3).mode = .held ∧ (0xC000000000000000 : BitVec 64).toNat / 2 ^ 62 = 3 ∧ (0xC000000000000000 : BitVec 64).getLsbD 61 = false ∧
    (0xE000000000000000 : BitVec 64).toNat / 2 ^ 62 = 3 ∧ (0xE000000000000000 : BitVec 64).getLsbD 61 = true ∧ (∀ v, (getCore user v).ssb = none) ∧ Untraced user ∧
    4 ≤ ({ bootOk with ftime := 0x800 } : BootInput).ftime.toNat / 256 % 64 ∧ BootOk user bootOk :=
  ⟨checked, by decide, by decide, by decide, by decide, fun v => by unfold getCore; split <;> rfl, untraced_of rfl rfl, by decide, witness_boot.1⟩

/-- MemoryPacketsComplete: a page whose translation the device holds. -/
def heldAt (va acc : Nat) : State := { (placeOf1 va acc).2 with fab := host.fab }
def emptied : State := setFull (heldAt 0x5008 2) 0x5008 false
def heldLoc (s : State) (va acc : Nat) : Loc × State := ans place0 (translate ⟨irqCore s 1, 1, .u⟩ va acc s)
theorem heldAt_of {s : State} {va n acc : Nat} (h : (va < 0xFFFFFFC00000 ∧ va / 128 = (va + n - 1) / 128) ∧
    isOk (translate ⟨irqCore s 1, 1, .u⟩ va acc s) = true ∧ (heldLoc s va acc).2 = s ∧
    (heldLoc s va acc).1.place = .hbm ∧ (heldLoc s va acc).1.s2leaf = 0 ∧ syeStalled s (heldLoc s va acc).1 = false ∧ eccHit s (heldLoc s va acc).1.at_ n = false) :
    HeldAt s 1 va n acc (heldLoc s va acc).1 := by
  obtain ⟨⟨a, b⟩, c, d, e, f, y, g⟩ := h
  refine ⟨⟨a, b, ?_, by rw [e]; decide, y, fun _ => g⟩, e, f⟩
  exact (ok2 c).trans (congrArg (fun t => Except.ok ((heldLoc s va acc).1, t)) d)
theorem witness_packets :
    HeldAt (heldAt 0x5008 1) 1 0x5008 8 1 (heldLoc (heldAt 0x5008 1) 0x5008 1).1 ∧ HeldAt (heldAt 0x5008 2) 1 0x5008 8 2 (heldLoc (heldAt 0x5008 2) 0x5008 2).1 ∧
    HeldAt (heldAt 0x40005008 3) 1 0x40005008 8 3 (heldLoc (heldAt 0x40005008 3) 0x40005008 3).1 ∧ (heldLoc (heldAt 0x40005008 3) 0x40005008 3).1.sync = true ∧
    HeldAt emptied 1 0x5008 8 2 (heldLoc emptied 0x5008 2).1 :=
  ⟨heldAt_of checked, heldAt_of checked, heldAt_of checked, checked, heldAt_of checked⟩
theorem witness_packetWindows :
    (let p := packet 0 0 0 7 (inWin 0x5008) []
     Arrives 0 p (heldAt 0x5008 1) ∧ p.sub.toNat % 64 = 7 ∧ Window (heldAt 0x5008 1) p 8 true 0 1 0x5008 ∧ Window (heldAt 0x5008 1) p 8 false 0 1 0x5008) ∧
    (let p := packet 1 0 0 7 (inWin 0x5008) (leBytes 8 9)
     Arrives 1 p (heldAt 0x5008 2) ∧ p.sub.toNat % 64 = 7 ∧ p.data.length = 8 ∧ Window (heldAt 0x5008 2) p 8 true 0 1 0x5008 ∧ Window (heldAt 0x5008 2) p 8 false 0 1 0x5008) ∧
    (let p := packet 2 0 0 32 (inWin 0x40005008) (leBytes 8 5 ++ leBytes 8 0)
     Arrives 2 p (heldAt 0x40005008 3) ∧ p.sub.toNat = 32 ∧ Window (heldAt 0x40005008 3) p 8 true 0 1 0x40005008 ∧ Window (heldAt 0x40005008 3) p 8 false 0 1 0x40005008) ∧
    (let p := packet 3 0 0 3 (inWin 0x5008) (leBytes 8 5)
     Arrives 3 p emptied ∧ p.sub.toNat = 3 ∧ emptied.feq = [] ∧ feReady (feFull emptied (heldLoc emptied 0x5008 2).1.at_) 3 = true ∧ Window emptied p 8 true 0 1 0x5008 ∧
       Window emptied p 8 false 0 1 0x5008) :=
  ⟨⟨arrives_of checked, checked, by unfold Window; decide +kernel, by unfold Window; decide +kernel⟩,
   ⟨arrives_of checked, checked, checked, by unfold Window; decide +kernel, by unfold Window; decide +kernel⟩,
   ⟨arrives_of checked, checked, by unfold Window; decide +kernel, by unfold Window; decide +kernel⟩,
   ⟨arrives_of checked, checked, checked, checked, by unfold Window; decide +kernel, by unfold Window; decide +kernel⟩⟩

/-- ControlTransfers: a spill whose store faults, a chip that holds 65535 entries already, a full stack at `callr`, a pointer that fails
the check, an odd target, an odd entry read back, and a read that faults. -/
theorem witness_spillFault : let s := { deep (List.replicate 16 0x40) 65534 with core := { (deep (List.replicate 16 0x40) 65534).core with rsp := 0xFFFFFFC05008 } }
    let r := storeVa s.core.rsp.toNat (leBytes 8 0x40) 0 0 { s with core := begun (Ins.of (encJ 1 ⟨0, 3⟩)) s.core }
    r = .error (err r) ∧ (deep (List.replicate 16 0x40) 65535).core.spilled.toNat = 65535 ∧
      Issues (zsIns 11 5) (deep (List.replicate 16 0x40) 0) once ∧ codePointer ((deep (List.replicate 16 0x40) 0).core.getG 5) :=
  ⟨bad checked, checked, issues checked, by unfold codePointer; decide +kernel⟩

theorem witness_target : fld (0x0021000000005008 : Word).toNat 53 48 ≠ 0 ∧ fld (0x5001 : Word).toNat 53 48 = 0 ∧ (0x5001 : Word).getLsbD 0 = true := by
  decide

theorem witness_refillOdd : let s := { deep [] 1 with others := [(0, (deep [] 1).core)] }
    let o := (ans true (storeVa 0xFFFFFFFC0FF8 (leBytes 8 0x41) 0 0 (deep [] 1))).2
    let r := loadVa (o.core.rsp - 8).toNat 8 0 0 (fun v => .pop v 2) { o with core := begun (zIns 4 0) o.core }
    let u := { deep [] 1 with core := { (deep [] 1).core with rsp := 0xFFFFFFC05008 } }
    let q := loadVa (u.core.rsp - 8).toNat 8 0 0 (fun v => .pop v 2) { u with core := begun (zIns 4 0) u.core }
    Issues (zIns 4 0) o once ∧ r = .ok (ans none r) ∧ (ans none r).1 = some (leBytes 8 0x41) ∧ (BitVec.ofNat 48 (ofLe (leBytes 8 0x41))).getLsbD 0 = true ∧
      q = .error (err q) ∧ s.core.rstack = [] :=
  ⟨issues checked, ok checked, checked, checked, bad checked, checked⟩

/-- FencesAndSync: a release with a remote store not acknowledged, an exchange store still on its way at `fence.eng`, and the engine of a
sync page that does and does not stall. -/
theorem witness_holds : storesOut (storing user) user.cur none = true ∧ Issues (zIns 1 (2 * 64)) (storing user) once ∧
    ({ paired with xsts := [⟨0, 0x40, 1, 1, 64, [1]⟩] } : State).core.cont = none ∧ syeStalled user { at_ := 0x40005008, place := .hbm, sync := true } = false ∧
    syeStalled { user with trc := { user.trc with waiting := [⟨syeSrc 0x40005008, 0, 1, [], 0, 0⟩] } } { at_ := 0x40005008, place := .hbm, sync := true } = true :=
  ⟨checked, issues checked, rfl, checked, checked⟩

/-- CodebookConversions: a signalling NaN in lane 0, with every flag enabled, and none. -/
theorem witness_codebook2 : let s := { vregs tasked [(1, 0x7F800001)] with core := { (vregs tasked [(1, 0x7F800001)]).core with fenable := 0x1C } }
    let o : VR := ⟨none, none, 2, 1, some 0⟩
    let res := fun i => quantCb (cbOf s.core.arr 0) .rne 0 (val fp32 (s.core.getV 1) i)
    Issues (p4Ins 12 true o) s once ∧ Free s ∧ declArr s = true ∧ flagsOf o s.core 16 res &&& s.core.fenable.toNat ≠ 0 ∧
      flagsOf o s.core 16 res &&& tasked.core.fenable.toNat = 0 :=
  ⟨issues checked, by unfold Free; decide +kernel, checked, checked, checked⟩

/-- A context whose pages a hypervisor translates, with a dirty log of 256 entries that is full. -/
def vmTables : List Host.Cell :=
  putDw (putDw (putDw (putDw tables 0x2010 [0x8000]) 0x8000 [0x9001]) 0x9000 [0x20F, 0x4000020F]) 0x20000 [256, 0]
def vmed (l : List (Nat × Nat)) : State := regs { user with
  mem := vmTables, xcsrs := (updX user 1 0 (fun x => { x with dlog := 0x20000 })).xcsrs } l

/-- ScalarMemory: ordered accesses with a remote store on its way, the turn at a bank, and a full dirty log. -/
theorem witness_ordered (order : BitVec 2) : let o : MemOp := ⟨none, false, 0, 5, 4, 3, order, 1, ⟨0, 0⟩⟩
    let s := storing (regs user [(4, 0x5008)])
    let r := access (started (memIns 0 0 o) once s) 0x5008 1
    let q := access (started (memIns 1 0 o) once s) 0x5008 2
    Issues (memIns 0 0 o) s once ∧ Issues (memIns 1 0 o) s once ∧ storesOut s s.cur none = true ∧ r = .ok (ans place0 r) ∧ (ans place0 r).1.place ≠ .remote ∧
      q = .ok (ans place0 q) ∧ storesOut (ans place0 q).2 (ans place0 q).2.cur none = true :=
  ⟨issues (by revert order; decide +kernel), issues (by revert order; decide +kernel), checked, ok (by revert order; decide +kernel), by revert order; decide +kernel,
    ok (by revert order; decide +kernel), by revert order; decide +kernel⟩
theorem witness_turns (acc : Nat) (h : acc = 1 ∨ acc = 2) (old : Bool) : let s := regs (sharing old) [(4, 0xFFFFFFC00008)]
    let r := access (started (memIns 0 0 ⟨none, false, 0, 5, 4, 3, 0, 0, ⟨0, 0⟩⟩) once s) 0xFFFFFFC00008 acc
    let q := bankTurn 0xFFFFFFC00008 (ans place0 r).1 (ans place0 r).2
    r = .ok (ans place0 r) ∧ (ans place0 r).1.place = .pad ∧ isOk q = true ∧ (ans false q).1 = old := by
  rcases h with rfl | rfl <;> cases old <;> exact ⟨ok checked, checked, checked, checked⟩
theorem witness_fullLog : let o : MemOp := ⟨none, false, 0, 5, 4, 3, 0, 1, ⟨0, 0⟩⟩
    let s := vmed [(4, 0x6008)]
    let r := access (started (memIns 1 0 o) once s) 0x6008 2
    Issues (memIns 1 0 o) s once ∧ r = .ok (ans place0 r) ∧ (ans place0 r).1.place = .hbm ∧ (ans place0 r).1.s2leaf ≠ 0 ∧
      bankTurn 0x6008 (ans place0 r).1 (ans place0 r).2 = .ok (true, (ans false (bankTurn 0x6008 (ans place0 r).1 (ans place0 r).2)).2) ∧
      (dirtyLog (ans false (bankTurn 0x6008 (ans place0 r).1 (ans place0 r).2)).2 1 0 (ans place0 r).1).isNone = true :=
  ⟨issues checked, ok checked, checked, checked, okT checked, checked⟩

/-- FullEmptyWords: a page pinned in a core store, a store that is not acknowledged, an engine that stalls, and a full dirty log. -/
def pinTables : List Host.Cell := putDw (putDw (putDw tables 0x4018 [0x6001]) 0x6000 [0x7001]) 0x7000 [0x257]
theorem witness_fullEmpty2 : let o : FeOp := ⟨none, false, 0, 5, 4, ⟨0, 0⟩⟩
    let x := feIns 1 4 o
    let s := regs { user with mem := pinTables } [(4, 0xC0000008)]
    let r := translate (me (started x once s)) 0xC0000008 2 (started x once s)
    let h := storing (feState false)
    let q := translate (me (started x once h)) 0x40005008 2 (started x once h)
    let f := vmed [(4, 0x40005008)]
    let z := translate (me (started x once f)) 0x40005008 2 (started x once f)
    Issues x s once ∧ r = .ok (ans place0 r) ∧ (ans place0 r).1.place = .pinned ∧ Issues x h once ∧ q = .ok (ans place0 q) ∧ (ans place0 q).1.place = .hbm ∧
      (storesOut h h.cur none || syeStalled h (ans place0 q).1) = true ∧ Issues x f once ∧ z = .ok (ans place0 z) ∧ (ans place0 z).1.place = .hbm ∧
      (storesOut f f.cur none || syeStalled f (ans place0 z).1) = false ∧ (dirtyLog (ans place0 z).2 1 0 (ans place0 z).1).isNone = true :=
  ⟨issues checked, ok checked, checked, issues checked, ok checked, checked, checked, issues checked, ok checked, checked, checked, checked⟩

/-- VectorMemory: ordered accesses with a remote store on its way, elements in a gang-shared tile in the cycle in which they are presented and
in the next, and a store of a value that raises an enabled flag. -/
def vOp (order : BitVec 2) : VMem := ⟨none, none, 0, 1, 4, none, order, 1, ⟨0, 0⟩⟩
theorem witness_vectorOrdered (order : BitVec 2) (st : Bool) : let x := vmemIns (b2n st) (vOp order)
    let s := storing { lanes with core := lanes.core.setG 4 0xFFFFFFFC1000 }
    let r := checkElems (1 + b2n st) (elemSize 0) (elemsAt (b2n st) (vOp order) once x s) (started x once s)
    Issues x s once ∧ Free s ∧ r = .ok (ans [] r) ∧ (∀ e ∈ (ans [] r).1, e.loc.place ≠ .remote) ∧ storesOut (ans [] r).2 (ans [] r).2.cur none = true :=
  ⟨issues (by revert order st; decide +kernel), rfl, ok (by revert order st; decide +kernel), by revert order st; decide +kernel, by revert order st; decide +kernel⟩
theorem witness_vectorTurns (old st : Bool) : let x := vmemIns (b2n st) (vOp 0)
    let s := regs (sharing old) [(4, 0xFFFFFFC00000)]
    let r := checkElems (1 + b2n st) (elemSize 0) (elemsAt (b2n st) (vOp 0) once x s) (started x once s)
    let q := elemTurns (ans [] r).1 (ans [] r).2
    Issues x s once ∧ Free s ∧ r = .ok (ans [] r) ∧ isOk q = true ∧ (ans false q).1 = old := by
  cases old <;> cases st <;> exact ⟨issues checked, rfl, ok checked, checked, checked⟩
theorem witness_vectorFlags : let o : VMem := ⟨none, none, 0, 1, 4, none, 0, 0, ⟨0, 0⟩⟩
    let x := vmemIns 7 o
    let u := regs (vregs user [(1, 0x7F000001)]) [(4, 9 * 2 ^ 58 + 0xFFFFFFFC1000)]
    let s := { u with core := { u.core with fenable := 0x1C } }
    let r := checkElems 2 (elemSize (fmtAt 7 x once s)) (elemsAt 7 o once x s) (started x once s)
    Issues x s once ∧ vecPointer 7 x once s ∧ r = .ok (ans [] r) ∧ (∀ e ∈ (ans [] r).1, e.loc.place ≠ .remote ∧ e.lane < 16 ∧ isActive o.mask s.core e.lane = true) ∧
      elemTurns (ans [] r).1 (ans [] r).2 = .ok (true, (ans false (elemTurns (ans [] r).1 (ans [] r).2)).2) ∧
      (List.range 16).foldl (fun f i => if isActive o.mask s.core i then
        f ||| (elemOfLane (fmtAt 7 x once s) (lane 32 (s.core.getV (dOf x once)) i).toNat).2 else f) 0 &&& s.core.fenable.toNat ≠ 0 :=
  ⟨issues checked, by unfold vecPointer; decide +kernel, ok checked, checked, okT checked, checked⟩

/-- Atomics: a release with a remote store on its way, a tile's bank in the cycle in which the access is presented and in the next, and a full dirty log. -/
def atomOp : Atom := ⟨0, 5, 4, true, 2, 1, 6, none⟩
theorem witness_atomicHeld : let x := atomIns 0 atomOp
    let s := storing (regs user [(4, 0x40005008)])
    let r := translate (me (started x once s)) 0x40005008 3 (started x once s)
    let q := atomPlace (me (started x once s)) 0x40005008 (ans place0 r).1 (ans place0 r).2
    Issues x s once ∧ r = .ok (ans place0 r) ∧ q = .ok ((), (ans () q).2) ∧ storesOut (ans place0 r).2 (ans place0 r).2.cur none = true :=
  ⟨issues checked, ok checked, okU checked, checked⟩
theorem witness_atomicTurns (old : Bool) : let x := atomIns 0 atomOp
    let s := regs (sharing old) [(4, 0xFFFFFFC00008)]
    let r := translate (me (started x once s)) 0xFFFFFFC00008 3 (started x once s)
    let q := bankTurn 0xFFFFFFC00008 (ans place0 r).1 (ans place0 r).2
    Issues x s once ∧ r = .ok (ans place0 r) ∧ (ans place0 r).1.place = .pad ∧ isOk q = true ∧ (ans false q).1 = old := by
  cases old <;> exact ⟨issues checked, ok checked, checked, checked, checked⟩
theorem witness_atomicLog : let x := atomIns 0 atomOp
    let s := vmed [(4, 0x40005008)]
    let r := translate (me (started x once s)) 0x40005008 3 (started x once s)
    let q := atomPlace (me (started x once s)) 0x40005008 (ans place0 r).1 (ans place0 r).2
    let b := bankTurn 0x40005008 (ans place0 r).1 (ans place0 r).2
    Issues x s once ∧ r = .ok (ans place0 r) ∧ q = .ok ((), (ans () q).2) ∧ (ans place0 r).1.sync = true ∧ b = .ok (true, (ans false b).2) ∧
      (dirtyLog (ans false b).2 1 0 (ans place0 r).1).isNone = true :=
  ⟨issues checked, ok checked, okU checked, checked, okT checked, checked⟩

/-- GangSync: a remote store on its way, and a gang of one that runs a task, for which the exchange store to its own rank is written. -/
theorem witness_oneMember : OneMember tasked ∧ OneMember user ∧ tasked.core.cont = none ∧ tasked.core.opening = none ∧ tasked.core.bar.arrived = false ∧
    storesOut tasked tasked.cur none = false ∧ storesOut (storing tasked) tasked.cur none = true ∧ Issues (gbarIns 0 ⟨0, false, 5, 10, 0⟩) (storing tasked) once ∧
    rankCore (started (xstIns 0 ⟨0, false, 0, 3, 10⟩) once tasked) 1 0 = some 0 ∧ Issues (xstIns 0 ⟨0, false, 0, 3, 10⟩) tasked once :=
  ⟨.inr ⟨gang0, member0, checked, checked, checked, checked⟩, .inl rfl, rfl, rfl, rfl, checked, checked, issues checked, checked, issues checked⟩

/-- DeviceSync: the last arrival, and the last drop, of an episode in which core 1 waits; an engine that stalls. -/
def barRec : BardRec := ⟨0x40005008, 2, 9, 7, ⟨1, 0, 0, 0x40005008, 0⟩, some 1, none, 0, false, false⟩
def crowd (n : Nat) : State := { barred 5 1 n with
  bards := [barRec], others := [(1, { user.core with wait := .bard 6 4 })] }
def crowdIns (sub : Nat) : Ins := bardIns sub ⟨0, false, 5, 10, 4⟩
def crowdTr (sub n : Nat) : Except Trap (Loc × State) :=
  translate (me (started (crowdIns sub) once (crowd n))) (effective ((started (crowdIns sub) once (crowd n)).core.getG 4) 0) 3 (started (crowdIns sub) once (crowd n))
def crowdAt (sub n : Nat) : Loc × State := ans place0 (crowdTr sub n)
def crowdEnd (sub n : Nat) : State := (ans () (meetEcc 7 0x40005008 8 (drainCore (flushXsts (crowdAt sub n).2 0) 0))).2
theorem crowd_at {o : SysOp} {s0 : State} {r : Except Trap (Loc × State)} (h : translate (me s0) (effective (s0.core.getG o.t.toNat) 0) 3 s0 = r)
    (p : (isOk r && (ans place0 r).1.sync && (ans place0 r).1.place == .hbm && ptrOk false (s0.core.getG o.t.toNat)
      && effective (s0.core.getG o.t.toNat) 0 == 0x40005008) = true) :
    BardAt o s0 (ans place0 r).1 (ans place0 r).2 := by
  simp only [Bool.and_eq_true, beq_iff_eq] at p
  obtain ⟨⟨⟨⟨a, b⟩, c⟩, d⟩, e⟩ := p
  refine ⟨?_, by rw [e], by rw [e]; decide, h.trans (ok2 a), b, c⟩
  simpa [ptrOk, plainPointer] using d
theorem witness_crowd (last : Bool) : let sub := if last then 7 else 2
    Issues (crowdIns sub) (crowd 2) once ∧
    BardAt ⟨0, false, 5, 10, 4⟩ (started (crowdIns sub) once (crowd 2)) (crowdAt sub 2).1 (crowdAt sub 2).2 ∧
    dirtyLog (crowdAt sub 2).2 1 0 (crowdAt sub 2).1 = some (crowdAt sub 2).2 ∧ Ending (crowdEnd sub 2) 0x40005008 ∧
    (crowdEnd sub 2).bards.filter (fun r => r.pa == 0x40005008) = [barRec] ∧
    ofLe (homeRead (crowdEnd sub 2) 7 0x40005008 8) = object 5 1 2 ∧ (crowdAt sub 2).1.at_ = 0x40005008 ∧ (crowdAt sub 2).1.kv = 7 ∧
    syeStalled (crowdAt sub 2).2 (crowdAt sub 2).1 = false ∧ (crowd 2).core.cont = none ∧ (crowd 2).Inv := by
  cases last <;>
    exact ⟨issues checked, crowd_at (r := crowdTr _ 2) rfl checked, checked, ⟨checked, checked, untraced_of checked checked, checked, checked⟩, checked, checked, checked, checked,
      checked, rfl, by unfold State.Inv; decide +kernel⟩
theorem witness_bardHeld : let s := storing (crowd 2)
    let s0 := started (crowdIns 2) once s
    let r := translate (me s0) (effective (s0.core.getG 4) 0) 3 s0
    Issues (crowdIns 2) s once ∧ BardAt ⟨0, false, 5, 10, 4⟩ s0 (ans place0 r).1 (ans place0 r).2 ∧
      (storesOut (ans place0 r).2 (ans place0 r).2.cur none || syeStalled (ans place0 r).2 (ans place0 r).1) = true :=
  ⟨issues checked, ⟨by unfold plainPointer; decide +kernel, checked, checked, ok2 checked, checked, checked⟩, checked⟩

/-- Flushes: entries of walks that a flush names and one that it does not. -/
theorem witness_walks : let w : WalkEnt := ⟨false, 0, 1, 2, 0x5, 0x4000, 0x21F⟩
    Unwalked (fun w => !w.s2 && w.ctx == 1) { user with walks := [w] } = { user with walks := [] } ∧
      Unwalked (fun w => !w.s2 && w.ctx == 2) { user with walks := [w] } = { user with walks := [w] } := by
  decide +kernel

/-- ArrayDrain and ArrayCorrections: a cell beyond FP32 with overflow enabled, elements in a gang-shared tile in the cycle in which they are
presented, and a set whose row of A is in error. -/
def drainOp : MDrain := ⟨none, 0, 8, 9, true, 0, false⟩
def drainIns : Ins := arrIns (encMDrain drainOp) 0 (regsOf .g 8 ++ regsOf .g 9) []
def drainElems (s : State) : Except Trap (List ElemAt × State) :=
  checkElems 2 1 (((List.range 1024).filter (fun n => s.core.arr.rowP.getLsbD (n / 32) && s.core.arr.colP.getLsbD (n % 32))).map (fun n =>
    (n, effective (s.core.getG 8) ((n / 32 : Nat) * (32 : Int) + (n % 32 * 4 : Nat))))) (started drainIns once s)
def bigCell : State :=
  let s := withArr arrayed { arrayed.core.arr with acc1 := ⟨[(0, ⟨2 ^ 100, 0⟩)], 1000, true, false, []⟩ }
  { s with core := { s.core with fenable := 0x1C } }
theorem witness_drainTrap : Issues drainIns bigCell once ∧ ArrayReady bigCell ∧ drainElems bigCell = .ok (ans [] (drainElems bigCell)) ∧
    (∀ e ∈ (ans [] (drainElems bigCell)).1, e.loc.place ≠ .remote) ∧
    (fp32.round (drainMode drainOp) false 0 (cellValue (drainMode drainOp) (bigCell.core.arr.acc true).eacc ((bigCell.core.arr.acc true).cell 0 0))).2 &&&
      bigCell.core.fenable.toNat ≠ 0 :=
  ⟨issues checked, ⟨by unfold Free; decide +kernel, checked⟩, ok checked, checked, checked⟩
def drainShared : State := regs { arrayed with cycle := 5, clusters := [(0, { Cluster.reset with owners := [(0, 0x10)] })] } [(8, fatPtr 8 0 0xFFFFFFC00000)]
theorem witness_drainTurn : let q := elemTurns (ans [] (drainElems drainShared)).1 (ans [] (drainElems drainShared)).2
    Issues drainIns drainShared once ∧ drainElems drainShared = .ok (ans [] (drainElems drainShared)) ∧ isOk q = true ∧ (ans true q).1 = false :=
  ⟨issues checked, ok checked, checked, checked⟩
def mulBad : State := { (ans [] mulChecked).2 with ecc := [(2 ^ 40 + 0x1000) / 128] }
theorem witness_mulError : let r := readArr (ans [] mulChecked).1 1 mulIns.size mulBad
    isOk r = true ∧ (((ans none r).1.getD ([], [])).2.isEmpty) = false ∧ arrayed.core.arr.rowP.getLsbD 0 = true ∧ arrayed.core.arr.colP.getLsbD 0 = true := by
  decide +kernel
theorem witness_clean : Clean coded (2 ^ 40 + coded.cur * 2 ^ 18 + (coded.core.pc.toNat - 0xFFFFFFFC0000)) 4 := fun e h => by cases h

/-- ScanChunks: a scan that the task has taken up again while its write of H_end waited. -/
def retaken : Scan := { scq with phase := 3, stop := 0 }
def retakenAt : State := { tasked with core := { tasked.core with ssb := some retaken } }
theorem witness_retaken : let r := readState scanAg retaken 5 (ssbWrites scanAg retaken.todo retakenAt).2
    (getCore retakenAt 0).ssb = some retaken ∧ retaken.phase = 3 ∧ retaken.stop = 0 ∧ scanStill retakenAt 0 retaken = false ∧
      (ssbWrites scanAg retaken.todo retakenAt).1.isNone = true ∧ isOk r = true :=
  ⟨checked, rfl, rfl, checked, checked, checked⟩

/-- Touches: a finished entry that a task touches, one whose cancellation has been asked touching for the first time and again. -/
def touching (creq : Bool) (st : FtState) : State := let s := regs { tasked with
    clusters := [(0, { Cluster.reset with ft := [(0, { own0 with creq := creq }), (3, entryOf st named 1)] })] } [(4, named.toNat)]
  s
theorem witness_touching (st : FtState) (b : Bool) : let s := touching b st
    Names s (s.core.getG 4) 3 (entryOf st named 1) ∧ s.core.task.isSome = true ∧ cancelAsked s = b ∧ s.core.cont = none ∧ s.core.wait = .none ∧
      s.core.retouch = false ∧ waitersOf s (s.core.getG 4) = [] ∧ Issues (touchIns true taskOp) s once ∧ Issues (touchIns false taskOp) s once ∧
      ({ s with core := { s.core with retouch := true } } : State).core.retouch = true := by
  cases st <;> cases b <;> exact ⟨⟨checked, checked, checked, checked, checked, checked⟩, rfl, checked, rfl, rfl, rfl, checked, issues checked,
    issues checked, rfl⟩

/-- FutureOperations: `poison.self` and `tcheck` of a core without a task, a dropped reference that no longer stands, a spawn that waits for
a store on its way, and the end of a task whose entry has none left. -/
def plainOp : TaskOp := { taskOp with d := 0, s := 0 }
def checkOp : TaskOp := { taskOp with s := 0, t := 0 }
theorem witness_noTask : Instr.wf (.poisonSelf plainOp) = true ∧ Instr.wf (.tcheck checkOp) = true ∧ Issues (taskIns 5 1 plainOp (gr 6) []) user once ∧
    ownSlot user 0 = none ∧ Issues (taskIns 7 0 checkOp [] (gr 5)) user once ∧ ownEntry user 0 = none ∧
    Issues (taskIns 7 0 checkOp [] (gr 5)) (together true) once ∧ ownEntry (together true) 0 = some { own0 with creq := true } :=
  ⟨checked, checked, issues checked, checked, issues checked, checked, issues checked, checked⟩
theorem witness_dropped : let s := futured .pending named 0
    Names s (s.core.getG 4) 3 (entryOf .pending named 0) ∧ (entryOf .pending named 0).refs = 0 ∧ Issues (taskIns 12 0 taskOp (gr 4) []) s once :=
  ⟨⟨checked, checked, checked, checked, checked, checked⟩, rfl, issues checked⟩
def overDropped : State := regs { tasked with clusters := [(0, { Cluster.reset with ft := [(0, { own0 with refs := 0 })] })] } [(4, 99)]
theorem witness_overDropped : Issues endIns overDropped once ∧ overDropped.core.priv ≠ .h ∧ ownEntry overDropped overDropped.cur = some { own0 with refs := 0 } :=
  ⟨issues checked, by decide, checked⟩
theorem witness_spawnHeld : let s := storing (spawner 0)
    ctxValid (started (spawnIns false 9) once s) 1 = true ∧ cancelAsked (started (spawnIns false 9) once s) = false ∧ storesOut s s.cur none = true ∧
      spillWaits (started (spawnIns false 9) once (spawner 0)) 1 (spawnHome (started (spawnIns false 9) once (spawner 0)) 1 1 0 0 0x5001) = false :=
  ⟨checked, checked, checked, checked⟩

/-- Resumed: a store to a word whose engine stalls and does not. -/
def syncEnt : WbEnt := ⟨0x40005008, [1, 2, 3, 4, 5, 6, 7, 8], some 0, 0x40, false, true⟩
def syncStore (busy : Bool) : State := { user with
  core := { user.core with wbuf := [syncEnt] }
  trc := { user.trc with waiting := if busy then [⟨syeSrc 0x40005008, 0, 1, [], 0, 0⟩] else [] } }
theorem witness_syncStore (b : Bool) : (getCore (syncStore b) 0).wbuf[0]? = some syncEnt ∧ syncEnt.sync = true ∧ syeBusy (syncStore b) (syeSrc syncEnt.pa) = b ∧
    (∀ f ∈ (getCore (syncStore b) 0).wbuf.take 0, f ≠ syncEnt ∧ f.meets syncEnt.pa syncEnt.bytes.length = false) := by
  cases b <;> exact ⟨checked, rfl, checked, fun f h => by cases h⟩

/-- Throttling: a monitor at 110 °C, and none. -/
theorem witness_hot : let s : State := { user with mgmt := { user.mgmt with monitors := [(5, ⟨1760, 0, 0, 0, 0⟩), (6, ⟨1759, 0, 0, 0, 0⟩)] } }
    (∃ p ∈ s.mgmt.monitors, 1760 ≤ p.2.temp.toNat) ∧
      ∀ p ∈ ({ s with mgmt := { s.mgmt with monitors := [(6, ⟨1759, 0, 0, 0, 0⟩)] } } : State).mgmt.monitors, p.2.temp.toNat < 1760 := by decide

/-- RemoteMemory: a store to a management register: the breakpoint entry 3, and a register that refuses the value. -/
def mgmtPkt (off : Nat) (x : Nat) : Packet := packet 1 0 0 7 (3 * 2 ^ 42 + off) (leBytes 8 x)
theorem witness_kindThree : Arrives 1 (mgmtPkt 0x40018 7) host ∧ sizeOf_ (mgmtPkt 0x40018 7) = 8 ∧ Window host (mgmtPkt 0x40018 7) 8 true 3 1 0x40018 ∧
    (mgmtPkt 0x40018 7).addr.toNat % 8 = 0 ∧
    ((mgmtWrite host 3 0x40018 (BitVec.ofNat 64 (ofLe (storedOf (mgmtPkt 0x40018 7) 8)))).map (fun t => t.fab == host.fab)) = some true :=
  ⟨arrives_of checked, checked, by unfold Window; decide +kernel, checked, checked⟩
theorem witness_refusedWrite : Arrives 1 (mgmtPkt 0x23900 0) host ∧ Window host (mgmtPkt 0x23900 0) 8 true 3 1 0x23900 ∧ sizeOf_ (mgmtPkt 0x23900 0) = 8 ∧
    (mgmtPkt 0x23900 0).addr.toNat % 8 = 0 ∧ (mgmtWrite host 3 0x23900 (BitVec.ofNat 64 (ofLe (storedOf (mgmtPkt 0x23900 0) 8)))).isNone = true :=
  ⟨arrives_of checked, by unfold Window; decide +kernel, checked, checked, checked⟩

/-- RemoteWork and Answering: no spill stands in the way of a spawn; a load of the waiting core that met data in error. -/
theorem witness_noSpill : spillWaits host 1 (spawnHome host 1 1 0 0 0x5001) = false ∧ loadOut.left = 1 ∧ storeOut.left = 1 ∧ (asked loadOut).core.task = none ∧
    (asked loadOut).core.wins = [] ∧ (asked loadOut).core.cont = none ∧ (asked storeOut).fab.full = [] := by decide +kernel

/-- Ports: a link in HOLD that may relock, with a reconfiguration whose time has come and without one; one that has tried in this dark
interval; one whose time has not come; and a drained port with and without room for its markers. -/
def atTime (n : Nat) : State := { heldPort n with cycle := 5000 }
theorem witness_relock : MayRelock (heldPort 0) 3 ∧ MayRelock (atTime 100) 3 ∧ (getPort (atTime 100) 3).st = .hold ∧ (atTime 100).fab.outs = [] ∧
    (atTime 100).fab.farm ≠ 0 ∧ Untraced (atTime 100) ∧ ¬ MayRelock (heldPort 100) 3 ∧
    (let s := ported { Port.reset with st := .hold, tried := true } []
     (getPort s 3).st = .hold ∧ ¬ MayRelock s 3) := by
  refine ⟨by unfold MayRelock; decide +kernel, by unfold MayRelock; decide +kernel, checked, rfl, checked, untraced_of rfl rfl, by unfold MayRelock; decide +kernel,
    checked, by unfold MayRelock; decide +kernel⟩
def earlyLeaving : State := { leaving [] with cycle := 100 }
theorem witness_markers : roomLeft (leaving []) 3 < 128 ∧ 128 ≤ roomLeft earlyLeaving 3 ∧ (getPort earlyLeaving 3).st = .drain ∧ leavers earlyLeaving ≠ [] ∧
    peerOf earlyLeaving 3 = some 9 ∧ leavingNode earlyLeaving 9 = true ∧ (∀ k, k < 32 → (getPort earlyLeaving k).acked = [] ∧ 9 ∉ (getPort earlyLeaving k).sent) ∧
    earlyLeaving.fab.outs = [] ∧ earlyLeaving.fab.outbox = [] ∧ earlyLeaving.fab.relay = [] := by decide +kernel

/-! Encryption (05 R113), with the values that FIPS 197 (C.3) and IEEE 1619 (vector 10) give. -/
theorem test_aes : numberOf (aesEncrypt (List.range 32) ((List.range 16).map (fun i => 17 * i))).reverse = 0x8ea2b7ca516745bfeafc49904b496089 ∧
    aesDecrypt (List.range 32) (aesEncrypt (List.range 32) ((List.range 16).map (fun i => 17 * i))) = (List.range 16).map (fun i => 17 * i) := by decide +kernel
/-- The first two blocks of a data unit, whose number is 255. -/
theorem test_xts : numberOf (xtsBlocks (aesEncrypt (bytesOf 32 0x2718281828459045235360287471352662497757247093699959574966967627).reverse)
      [List.range 16, (List.range 16).map (fun i => 16 + i)]
      (numberOf (aesEncrypt (bytesOf 32 0x3141592653589793238462643383279502884197169399375105820974944592).reverse (bytesOf 16 255)))).reverse =
    0x1c3b3a102f770386e4836c99e370cf9bea00803f5e482357a4ae12d414a3e63b := by decide +kernel

end Sys2Proof.Tests
end

section
/-!
PROOFS. The scalar instructions (07 R148 to R151): each issues through one of the shared operations `binRR`, `unRR` and `opRI`
(`li` and `mov` through `issue` itself), which write g(d) and retire; what is left of each is that the model's word is the one that the rule names.
-/
namespace Sys2Proof.Machine

/-! What the shared operations do -/

/-- Starting the instruction leaves the operands a and b as they were. -/
theorem rrOps_waiting (x : Ins) (k : Cont) (o : RR) (d sf : Nat) (c : Core) :
    rrOps o d sf (waiting x k c) = (operandA o d sf c, operandB o sf c) := by
  unfold rrOps operandA operandB
  cases o.t <;> simp only [waiting_getG]

/-- Issuing an instruction whose effect is to write the word `w` to g(d). -/
theorem issue_setG {x : Ins} {s : State} {k : Cont} {body : Nat → Nat → Nat → M Flow} (h : Issues x s k) (w : Word)
    (hb : body (dOf x k) (sOf x k) (mOf k) (started x k s) =
      (wG (dOf x k) w >>= fun _ => pure .seq) (started x k s)) :
    issue x noPre body s = .next (passesWith x k (fun c => c.setG (dOf x k) w) s) :=
  issue_regs h rfl _ (regsOnly_setG _ _) hb

theorem binRR_of_issues {r : Raw} {o : RR} {s : State} {k : Cont} (f : Word → Word → Word)
    (h : Issues (rrIns r false o) s k) : let x := rrIns r false o
    binRR r o f s = .next (passesWith x k (fun c =>
      c.setG (dOf x k) (f (operandA o (dOf x k) (sOf x k) s.core) (operandB o (sOf x k) s.core))) s) :=
  issue_setG h _ (by simp only [M.getS_bind, started_core, rrOps_waiting])

theorem unRR_of_issues {r : Raw} {o : RR} {s : State} {k : Cont} (f : Word → Word)
    (h : Issues (rrIns r true o) s k) : let x := rrIns r true o
    unRR r o f s = .next (passesWith x k (fun c => c.setG (dOf x k) (f (s.core.getG (sOf x k)))) s) :=
  issue_setG h _ (by simp only [M.rG_bind, started_core, waiting_getG])

theorem opRI_of_issues {r : Raw} {o : RI} {s : State} {k : Cont} (f : Word → Word)
    (h : Issues (riIns r true o) s k) : let x := riIns r true o
    opRI r o f s = .next (passesWith x k (fun c => c.setG (dOf x k) (f (s.core.getG (dOf x k)))) s) :=
  issue_setG h _ (by simp only [M.rG_bind, started_core, waiting_getG])

/-- An instruction that means `binRR` with `g`, where `g` gives the words of the rule's `f`. -/
theorem binary_of_exec {ins : RR → Instr} {page : Option Nat} {fn : Nat} (g : Word → Word → Word) {f : Word → Word → Word}
    (hx : ∀ o s, exec (ins o) s = binRR (encRR page fn o) o g s) (hg : ∀ a b, g a b = f a b) : Binary ins page fn f := by
  intro o s k x h
  rw [hx, binRR_of_issues g h]
  simp only [hg]
  rfl

/-- An instruction that means `unRR` with `g`, where `g` gives words that the rule admits. -/
theorem unary_of_exec {ins : RR → Instr} {fn : Nat} (g : Word → Word) {is : Word → Word → Prop}
    (hx : ∀ o s, exec (ins o) s = unRR (encRR (some 5) fn o) o g s) (hg : ∀ a, is a (g a)) : Unary ins fn is := by
  intro o s k x h
  exact ⟨g (s.core.getG (sOf x k)), hg _, by rw [hx, unRR_of_issues g h]⟩

theorem immediate_of_exec {ins : RI → Instr} {enc : RI → Raw} {f : Word → ImmF → Word}
    (hx : ∀ o s, exec (ins o) s = opRI (enc o) o (fun a => f a o.imm) s) : Immediate ins enc f := by
  intro o s k x h
  rw [hx, opRI_of_issues _ h]

/-! The words of 07 R149 and of division, as the rules write them -/

theorem boolW_decide (p : Prop) [Decidable p] : boolW (decide p) = if p then 1 else 0 := by
  unfold boolW
  by_cases hp : p <;> simp [hp]

theorem add_eq_ofNat (a b : Word) : a + b = BitVec.ofNat 64 (a.toNat + b.toNat) := by
  simp only [BitVec.ofNat_add, BitVec.ofNat_toNat, BitVec.setWidth_eq]

theorem mul_eq_ofNat (a b : Word) : a * b = BitVec.ofNat 64 (a.toNat * b.toNat) := by
  simp only [BitVec.ofNat_mul, BitVec.ofNat_toNat, BitVec.setWidth_eq]

theorem sub_eq_ofInt (a b : Word) : a - b = BitVec.ofInt 64 (a.toInt - b.toInt) := by
  apply BitVec.eq_of_toInt_eq
  rw [BitVec.toInt_sub, BitVec.toInt_ofInt]

theorem ite_toInt_eq_ofInt_min (a b : Word) : (if a.toInt ≤ b.toInt then a else b) = BitVec.ofInt 64 (min a.toInt b.toInt) := by
  rw [Int.min_def, apply_ite (BitVec.ofInt 64), BitVec.ofInt_toInt, BitVec.ofInt_toInt]

theorem ite_toInt_eq_ofInt_max (a b : Word) : (if a.toInt ≤ b.toInt then b else a) = BitVec.ofInt 64 (max a.toInt b.toInt) := by
  rw [Int.max_def, apply_ite (BitVec.ofInt 64), BitVec.ofInt_toInt, BitVec.ofInt_toInt]

theorem ite_toNat_eq_ofNat_min (a b : Word) : (if a.toNat ≤ b.toNat then a else b) = BitVec.ofNat 64 (min a.toNat b.toNat) := by
  rw [Nat.min_def, apply_ite (BitVec.ofNat 64)]
  simp only [BitVec.ofNat_toNat, BitVec.setWidth_eq]

theorem ite_toNat_eq_ofNat_max (a b : Word) : (if a.toNat ≤ b.toNat then b else a) = BitVec.ofNat 64 (max a.toNat b.toNat) := by
  rw [Nat.max_def, apply_ite (BitVec.ofNat 64)]
  simp only [BitVec.ofNat_toNat, BitVec.setWidth_eq]

theorem sremW_eq (a b : Word) :
    sremW a b = if b = 0 then a else BitVec.ofInt 64 (a.toInt - b.toInt * a.toInt.tdiv b.toInt) := by
  rw [sremW, Int.tmod_def]

theorem uremW_eq (a b : Word) :
    uremW a b = if b = 0 then a else BitVec.ofNat 64 (a.toNat - b.toNat * (a.toNat / b.toNat)) := by
  rw [uremW, Nat.mod_def]

theorem sdivW_eq (a b : Word) :
    sdivW a b = if b = 0 then -1 else BitVec.ofInt 64 (a.toInt.tdiv b.toInt) := rfl

theorem udivW_eq (a b : Word) :
    udivW a b = if b = 0 then -1 else BitVec.ofNat 64 (a.toNat / b.toNat) := rfl

/-! Counting and moving bits (07 R150) -/

theorem toNat_ofNat_of_le {n : Nat} (h : n ≤ 64) : (BitVec.ofNat 64 n).toNat = n := by
  rw [BitVec.toNat_ofNat, Nat.mod_eq_of_lt (by omega)]

theorem lt_two_pow_bitLen (x : Nat) : x < 2 ^ bitLen x := by
  unfold bitLen
  split
  · omega
  · exact Nat.lt_log2_self

theorem bitLen_le {x n : Nat} (h : x < 2 ^ n) : bitLen x ≤ n := by
  unfold bitLen
  split
  · exact Nat.zero_le n
  · exact (Nat.log2_lt ‹_›).2 h

theorem testBit_bitLen_pred {x : Nat} (h : 0 < bitLen x) : x.testBit (bitLen x - 1) = true := by
  by_cases hx : x = 0
  · simp [bitLen, hx] at h
  · simpa [bitLen, hx] using Nat.testBit_log2 hx

theorem clz64_spec (a : Word) : let r := BitVec.ofNat 64 (clz64 a.toNat)
    r.toNat ≤ 64 ∧ (∀ j, j < r.toNat → a.getMsbD j = false) ∧ (r.toNat < 64 → a.getMsbD r.toNat = true) := by
  intro r
  have hr : r.toNat = 64 - bitLen a.toNat := toNat_ofNat_of_le (Nat.sub_le 64 _)
  have hb : bitLen a.toNat ≤ 64 := bitLen_le a.isLt
  have msb : ∀ j, j < 64 → a.getMsbD j = a.toNat.testBit (63 - j) := fun j hj => by
    rw [BitVec.getMsbD_eq_getLsbD, decide_eq_true hj, Bool.true_and]
    rfl
  rw [hr]
  refine ⟨by omega, fun j hj => ?_, fun hj => ?_⟩
  · have hlow : 2 ^ bitLen a.toNat ≤ 2 ^ (63 - j) := Nat.pow_le_pow_right (by decide) (by omega)
    rw [msb j (by omega)]
    exact Nat.testBit_lt_two_pow (Nat.lt_of_lt_of_le (lt_two_pow_bitLen _) hlow)
  · rw [msb _ hj, show 63 - (64 - bitLen a.toNat) = bitLen a.toNat - 1 by omega]
    exact testBit_bitLen_pred (by omega)

theorem ctzAux_le (f x : Nat) : ctzAux f x ≤ f := by
  induction f generalizing x with
  | zero => exact Nat.le_refl 0
  | succ f ih =>
    have := ih (x / 2)
    unfold ctzAux
    split <;> omega

theorem testBit_of_lt_ctzAux {f x j : Nat} (h : j < ctzAux f x) : x.testBit j = false := by
  induction f generalizing x j with
  | zero => exact absurd h (Nat.not_lt_zero j)
  | succ f ih =>
    unfold ctzAux at h
    split at h
    case isTrue => exact absurd h (Nat.not_lt_zero j)
    case isFalse hx =>
      cases j with
      | zero => simpa [Nat.testBit_zero] using hx
      | succ j =>
        rw [Nat.testBit_succ]
        exact ih (by omega)

theorem testBit_ctzAux {f x : Nat} (h : ctzAux f x < f) : x.testBit (ctzAux f x) = true := by
  induction f generalizing x with
  | zero => exact absurd h (Nat.not_lt_zero _)
  | succ f ih =>
    unfold ctzAux at h ⊢
    split
    case isTrue hx => simpa [Nat.testBit_zero] using hx
    case isFalse hx =>
      rw [if_neg hx] at h
      rw [Nat.add_comm, Nat.testBit_succ]
      exact ih (by omega)

theorem ctz64_spec (a : Word) : let r := BitVec.ofNat 64 (ctz64 a.toNat)
    r.toNat ≤ 64 ∧ (∀ j, j < r.toNat → a.getLsbD j = false) ∧ (r.toNat < 64 → a.getLsbD r.toNat = true) := by
  intro r
  have hle : ctzAux 64 a.toNat ≤ 64 := ctzAux_le 64 _
  have hr : r.toNat = ctzAux 64 a.toNat := toNat_ofNat_of_le hle
  rw [hr]
  exact ⟨hle, fun j hj => testBit_of_lt_ctzAux hj, testBit_ctzAux⟩

/-- The positions below `f + 1` that `p` holds of: 0, and one more than those below `f` of the rest. -/
theorem filter_range_succ (p : Nat → Bool) (f : Nat) : (List.range (f + 1)).filter p =
    (if p 0 then [0] else []) ++ ((List.range f).filter (fun j => p (j + 1))).map Nat.succ := by
  rw [List.range_succ_eq_map, List.filter_cons, List.filter_map]
  split <;> rfl

theorem popCount_eq_length (f x : Nat) : popCount f x = ((List.range f).filter (fun j => x.testBit j)).length := by
  induction f generalizing x with
  | zero => rfl
  | succ f ih =>
    rw [popCount, ih, filter_range_succ]
    simp only [Nat.testBit_succ, Nat.testBit_zero, List.length_append, List.length_map]
    rcases Nat.mod_two_eq_zero_or_one x with h | h <;> simp [h]

theorem popCount_spec (a : Word) :
    (BitVec.ofNat 64 (popCount 64 a.toNat)).toNat = ((List.range 64).filter (fun j => a.getLsbD j)).length := by
  have hle := List.length_filter_le (fun j => a.toNat.testBit j) (List.range 64)
  rw [List.length_range, ← popCount_eq_length] at hle
  rw [toNat_ofNat_of_le hle, popCount_eq_length]
  rfl

/-- `brevAux f r x` is the low `f` bits of `x` in the reverse order, below the bits of `r`. -/
theorem testBit_brevAux (f r x j : Nat) :
    (brevAux f r x).testBit j = if j < f then x.testBit (f - 1 - j) else r.testBit (j - f) := by
  induction f generalizing r x with
  | zero => rfl
  | succ f ih =>
    rw [brevAux, ih]
    rcases Nat.lt_trichotomy j f with hlt | rfl | hgt
    · rw [if_pos hlt, if_pos (by omega), ← Nat.testBit_succ]
      congr 1
      omega
    · simp [Nat.testBit_zero, Nat.add_mod]
    · obtain ⟨i, rfl⟩ : ∃ i, j = f + 1 + i := ⟨j - (f + 1), by omega⟩
      rw [if_neg (by omega), if_neg (by omega), show f + 1 + i - f = i + 1 by omega, show f + 1 + i - (f + 1) = i by omega,
        Nat.testBit_succ, show (2 * r + x % 2) / 2 = r by omega]

theorem brev_spec (a : Word) (j : Nat) (h : j < 64) :
    (BitVec.ofNat 64 (brevAux 64 0 a.toNat)).getLsbD j = a.getLsbD (63 - j) := by
  rw [BitVec.getLsbD_ofNat, testBit_brevAux, decide_eq_true h, Bool.true_and, if_pos h]
  rfl

theorem bextAux_eq_packed (f a b : Nat) : bextAux f a b =
    packed (((List.range f).filter (fun j => b.testBit j)).map (fun j => b2n (a.testBit j))) := by
  induction f generalizing a b with
  | zero => rfl
  | succ f ih =>
    rw [bextAux, ih, filter_range_succ]
    simp only [List.map_append, List.map_map, Function.comp_def, Nat.succ_eq_add_one, Nat.testBit_add_one]
    rcases Nat.mod_two_eq_zero_or_one b with h | h
    · simp [h]
    · have ha : a % 2 = b2n (a.testBit 0) := by
        rcases Nat.mod_two_eq_zero_or_one a with h | h <;> simp [b2n, h]
      rw [if_pos h, ha, Nat.testBit_zero b, if_pos (decide_eq_true h)]
      rfl

theorem bext_eq (a b : Word) : BitVec.ofNat 64 (bextAux 64 a.toNat b.toNat) =
    BitVec.ofNat 64 (packed (((List.range 64).filter (fun j => b.getLsbD j)).map (fun j => b2n (a.getLsbD j)))) :=
  congrArg (BitVec.ofNat 64) (bextAux_eq_packed 64 a.toNat b.toNat)

theorem ptag_eq (a : Word) : BitVec.ofNat 64 (a.toNat / 2 ^ 48) = a >>> 48 := by
  apply BitVec.eq_of_toNat_eq
  rw [BitVec.toNat_ofNat, BitVec.toNat_ushiftRight, Nat.shiftRight_eq_div_pow, Nat.mod_eq_of_lt]
  exact Nat.lt_of_le_of_lt (Nat.div_le_self _ _) a.isLt

theorem pset_eq (a b : Word) : BitVec.ofNat 64 (a.toNat % 2 ^ 48 + b.toNat % 2 ^ 16 * 2 ^ 48) =
    BitVec.ofNat 64 (a.toNat % 2 ^ 48 + 2 ^ 48 * (b.toNat % 2 ^ 16)) := by
  rw [Nat.mul_comm (b.toNat % 2 ^ 16)]

/-! The statements -/

theorem scalarBinarySpec : ScalarBinarySpec :=
  ⟨binary_of_exec (fun a b => a + b) (fun _ _ => rfl) add_eq_ofNat,
   binary_of_exec (fun a b => a - b) (fun _ _ => rfl) sub_eq_ofInt,
   binary_of_exec (fun a b => a &&& b) (fun _ _ => rfl) (fun _ _ => rfl),
   binary_of_exec (fun a b => a ||| b) (fun _ _ => rfl) (fun _ _ => rfl),
   binary_of_exec (fun a b => a ^^^ b) (fun _ _ => rfl) (fun _ _ => rfl),
   binary_of_exec (fun a b => a <<< sh6 b) (fun _ _ => rfl) (fun _ _ => rfl),
   binary_of_exec (fun a b => a >>> sh6 b) (fun _ _ => rfl) (fun _ _ => rfl),
   binary_of_exec (fun a b => a.sshiftRight (sh6 b)) (fun _ _ => rfl) (fun _ _ => rfl),
   binary_of_exec (fun a b => a * b) (fun _ _ => rfl) mul_eq_ofNat,
   binary_of_exec (fun a b => BitVec.ofNat 64 (a.toNat * b.toNat / 2 ^ 64)) (fun _ _ => rfl) (fun _ _ => rfl),
   binary_of_exec (fun a b => if a.toInt ≤ b.toInt then a else b) (fun _ _ => rfl) ite_toInt_eq_ofInt_min,
   binary_of_exec (fun a b => if a.toInt ≤ b.toInt then b else a) (fun _ _ => rfl) ite_toInt_eq_ofInt_max,
   binary_of_exec (fun a b => if a.toNat ≤ b.toNat then a else b) (fun _ _ => rfl) ite_toNat_eq_ofNat_min,
   binary_of_exec (fun a b => if a.toNat ≤ b.toNat then b else a) (fun _ _ => rfl) ite_toNat_eq_ofNat_max,
   binary_of_exec (fun a b => boolW (decide (a.toInt < b.toInt))) (fun _ _ => rfl) (fun _ _ => boolW_decide _),
   binary_of_exec (fun a b => boolW (decide (a.toNat < b.toNat))) (fun _ _ => rfl) (fun _ _ => boolW_decide _)⟩

theorem scalarPage5Spec : ScalarPage5Spec :=
  ⟨binary_of_exec sdivW (fun _ _ => rfl) sdivW_eq,
   binary_of_exec udivW (fun _ _ => rfl) udivW_eq,
   binary_of_exec sremW (fun _ _ => rfl) sremW_eq,
   binary_of_exec uremW (fun _ _ => rfl) uremW_eq,
   unary_of_exec (fun a => BitVec.ofNat 64 (clz64 a.toNat)) (fun _ _ => rfl) clz64_spec,
   unary_of_exec (fun a => BitVec.ofNat 64 (ctz64 a.toNat)) (fun _ _ => rfl) ctz64_spec,
   unary_of_exec (fun a => BitVec.ofNat 64 (popCount 64 a.toNat)) (fun _ _ => rfl) popCount_spec,
   unary_of_exec (fun a => BitVec.ofNat 64 (brevAux 64 0 a.toNat)) (fun _ _ => rfl) brev_spec,
   binary_of_exec (fun a b => BitVec.ofInt 64 (a.toInt * b.toInt / (2 ^ 64 : Int))) (fun _ _ => rfl) (fun _ _ => rfl),
   binary_of_exec (fun a b => BitVec.ofNat 64 (bextAux 64 a.toNat b.toNat)) (fun _ _ => rfl) bext_eq,
   unary_of_exec (fun a => BitVec.ofNat 64 (a.toNat / 2 ^ 48)) (fun _ _ => rfl) ptag_eq,
   binary_of_exec (fun a b => BitVec.ofNat 64 (a.toNat % 2 ^ 48 + b.toNat % 2 ^ 16 * 2 ^ 48)) (fun _ _ => rfl) pset_eq⟩

theorem execLi_of_issues {o : RI} {s : State} {k : Cont} (h : Issues (riIns (encRS 6 o) false o) s k) :
    let x := riIns (encRS 6 o) false o
    execLi o s = .next (passesWith x k (fun c => c.setG (dOf x k) (BitVec.ofInt 64 (o.imm.sval 5))) s) :=
  issue_setG h _ rfl

theorem execMov_of_issues {o : MovOp} {s : State} {k : Cont} (h : Issues (movIns o) s k) : let x := movIns o
    execMov o s = .next (passesWith x k (fun c => c.setG (dOf x k) (s.core.getG (sOf x k))) s) :=
  issue_setG h _ (by simp only [M.rG_bind, started_core, waiting_getG])

theorem scalarImmediateSpec : ScalarImmediateSpec :=
  ⟨immediate_of_exec (fun _ _ => rfl), immediate_of_exec (fun _ _ => rfl), immediate_of_exec (fun _ _ => rfl),
   immediate_of_exec (fun _ _ => rfl), immediate_of_exec (fun _ _ => rfl), immediate_of_exec (fun _ _ => rfl),
   immediate_of_exec (fun _ _ => rfl), fun _ _ _ => execLi_of_issues, fun _ _ _ => execMov_of_issues⟩

/-- Settles O1: every scalar form is one issue that writes g(d) and retires, and its word is the one of 07 R149 to R151. -/
theorem scalarOperations : Obligations.ScalarOperations :=
  ⟨scalarBinarySpec, scalarPage5Spec, scalarImmediateSpec⟩

end Sys2Proof.Machine
end

section
/-!
PROOFS. What the operations on futures do: a release leaves the tables as they are (`SameTables`), and finishing, releasing and cancelling
an entry rewrite that entry and nothing else (`Rewrote`).
-/
namespace Sys2Proof

/-! Maps: the pair that an insertion replaces -/

theorem SMap.insert_of_find? {α : Type} {m : SMap α} {a : Nat} {v : α} (h : m.find? a = some v) : m.insert a v = m := by
  induction m with
  | nil => cases h
  | cons p r ih =>
    obtain ⟨k, w⟩ := p
    by_cases h1 : a = k
    · subst h1
      obtain rfl : w = v := by simpa [SMap.find?] using h
      simp [SMap.insert]
    · by_cases h2 : a < k
      · simp [SMap.find?, h1, h2] at h
      · simp only [SMap.find?, h1, h2, if_false] at h
        simp only [SMap.insert, h1, h2, if_false, ih h]

/-- A search that passes over the value replaced and over its replacement finds what it found. -/
theorem SMap.list_find?_insert {α : Type} {m : SMap α} {a : Nat} {v w : α} (h : m.find? a = some v) (p : α → Bool) (hv : p v = false)
    (hw : p w = false) : List.find? (fun q => p q.2) (m.insert a w) = List.find? (fun q => p q.2) m := by
  induction m with
  | nil => cases h
  | cons q r ih =>
    obtain ⟨k, u⟩ := q
    by_cases h1 : a = k
    · subst h1
      obtain rfl : u = v := by simpa [SMap.find?] using h
      simp [SMap.insert, hv, hw]
    · by_cases h2 : a < k
      · simp [SMap.find?, h1, h2] at h
      · simp only [SMap.find?, h1, h2, if_false] at h
        simp only [SMap.insert, h1, h2, if_false, List.find?_cons, ih h]

end Sys2Proof

namespace Sys2Proof.Machine

/-! What starting an instruction and hearing a message leave alone -/

theorem names_started {x : Ins} {k : Cont} {s : State} {h : Word} {slot : Nat} {e : Entry} :
    Names (started x k s) h slot e ↔ Names s h slot e := by
  unfold Names
  rw [started_core, waiting_ctx]
  exact Iff.rfl

theorem getCore_started_task (x : Ins) (k : Cont) (s : State) (v : Nat) : (getCore (started x k s) v).task = (getCore s v).task := by
  unfold getCore
  rw [started_cur, started_core]
  split
  · exact waiting_task x k s.core
  · rfl

theorem ownSlot_started (x : Ins) (k : Cont) (s : State) (v : Nat) : ownSlot (started x k s) v = ownSlot s v := by
  unfold ownSlot
  rw [getCore_started_task]
  rfl

theorem ownEntry_started (x : Ins) (k : Cont) (s : State) (v : Nat) : ownEntry (started x k s) v = ownEntry s v := by
  unfold ownEntry
  rw [ownSlot_started]
  rfl

theorem parentOf_started (x : Ins) (k : Cont) (s : State) : parentOf (started x k s) = parentOf s := by
  unfold parentOf
  rw [started_cur, ownEntry_started]

theorem room_started {x : Ins} {k : Cont} {s : State} {cl slot : Nat} : Room (started x k s) cl slot ↔ Room s cl slot := by
  unfold Room
  rw [started_core, waiting_ctx]
  exact Iff.rfl

theorem newHandle_started (x : Ins) (k : Cont) (s : State) (cl slot kind : Nat) :
    newHandle (started x k s) cl slot kind = newHandle s cl slot kind := by
  unfold newHandle
  rw [started_core, waiting_ctx]
  rfl

theorem waiting_setG_g (x : Ins) (k : Cont) (c : Core) (n : Nat) (w : Word) : ((waiting x k c).setG n w).g = (c.setG n w).g := by
  unfold Core.setG
  split
  · exact waiting_g x k c
  · exact congrArg (·.setIfInBounds n w) (waiting_g x k c)

/-- Hearing a message changes the trace stamps only. -/
theorem hears_eq (s : State) (dst src : Nat) : ∃ tr, hears s dst src = { s with trc := tr } := by
  unfold hears hearFrom
  dsimp only
  split
  · exact ⟨s.trc, rfl⟩
  · split
    · exact ⟨_, rfl⟩
    · exact ⟨s.trc, rfl⟩

/-! A release leaves the tables of futures as they are -/

/-- `t` has the entries of `s`, their waiters, and the references that the device will give back. -/
structure SameTables (s t : State) : Prop where
  clusters : t.clusters = s.clusters
  waits : t.waits = s.waits
  drops : t.drops = s.drops

theorem SameTables.refl (s : State) : SameTables s s := ⟨rfl, rfl, rfl⟩

theorem SameTables.trans {s t u : State} (h : SameTables s t) (h' : SameTables t u) : SameTables s u :=
  ⟨h'.clusters.trans h.clusters, h'.waits.trans h.waits, h'.drops.trans h.drops⟩

theorem SameTables.foldl {α : Type} {f : State → α → State} (hf : ∀ s x, SameTables s (f s x)) (l : List α) (s : State) :
    SameTables s (l.foldl f s) := by
  induction l generalizing s with
  | nil => exact .refl s
  | cons x l ih => exact (hf s x).trans (ih (f s x))

theorem sameTables_setCore (s : State) (v : Nat) (c : Core) : SameTables s (setCore s v c) :=
  ⟨setCore_clusters s v c, setCore_waits s v c, setCore_drops s v c⟩

theorem sameTables_writeLine (s : State) (w : Option Nat) (kv a : Nat) (bs : List Byte) : SameTables s (writeLine s w kv a bs) := by
  unfold writeLine
  dsimp only
  split
  · split
    · split <;> exact ⟨rfl, rfl, rfl⟩
    · exact ⟨rfl, rfl, rfl⟩
  · exact ⟨rfl, rfl, rfl⟩

theorem sameTables_freshCtxs (s t : State) : SameTables t (freshCtxs s t) :=
  .foldl (fun st i => by
    split
    · exact ⟨rfl, rfl, rfl⟩
    · exact .refl st) _ _

theorem sameTables_homeWrite (s : State) (w : Option Nat) (kv a : Nat) (bs : List Byte) : SameTables s (homeWrite s w kv a bs) := by
  have h := SameTables.foldl (fun st (p : Nat × Nat) => sameTables_writeLine st w kv p.1 ((bs.drop (p.1 - a)).take p.2))
    (linePieces a bs.length) s
  unfold homeWrite
  dsimp only
  split
  · exact h.trans (sameTables_freshCtxs _ _)
  · exact h

theorem sameTables_perform (s : State) (v : Nat) (e : WbEnt) : SameTables s (perform s v e) := by
  unfold perform
  dsimp only
  split
  · exact sameTables_setCore _ _ _
  · split
    · exact sameTables_setCore _ _ _
    · exact (sameTables_homeWrite _ _ _ _ _).trans (sameTables_setCore _ _ _)

theorem sameTables_drainCore (s : State) (v : Nat) : SameTables s (drainCore s v) := by
  unfold drainCore
  dsimp only
  split
  · exact .refl s
  · exact (sameTables_setCore _ _ _).trans (.foldl (fun st e => sameTables_perform st v e) _ _)

theorem sameTables_hears (s : State) (dst src : Nat) : SameTables s (hears s dst src) := by
  obtain ⟨tr, h⟩ := hears_eq s dst src
  rw [h]
  exact ⟨rfl, rfl, rfl⟩

theorem sameTables_xstWrite (s : State) (x : Xst) : SameTables s (xstWrite s x) := by
  unfold xstWrite
  split
  · exact .refl s
  · exact (sameTables_homeWrite _ _ _ _ _).trans (sameTables_hears _ _ _)

theorem sameTables_flushXsts (s : State) (v : Nat) : SameTables s (flushXsts s v) :=
  SameTables.trans (t := { s with xsts := s.xsts.filter (fun x => !(x.sender == v)) }) ⟨rfl, rfl, rfl⟩
    (.foldl (fun st x => sameTables_xstWrite st x) _ _)

theorem sameTables_released (s : State) : SameTables s (released 1 2 s) :=
  (sameTables_flushXsts s s.cur).trans (sameTables_drainCore _ _)

theorem keeps_released (s : State) : Keeps s (released 1 2 s) :=
  (keeps_flushXsts s s.cur).trans (keeps_drainCore _ _)

theorem SameTables.entryAt {s t : State} (h : SameTables s t) (cl slot : Nat) : entryAt t cl slot = entryAt s cl slot := by
  unfold Machine.entryAt getCl
  rw [h.clusters]

/-! Operations on an entry of a table -/

/-- Of `s`, `t` differs at most in the references that the device will give back, in the trace, and in the entry that cluster `cl` holds under
`slot`, which is now `e`. -/
structure Rewrote (s t : State) (cl slot : Nat) (e : Entry) : Prop where
  core : t.core = s.core
  cur : t.cur = s.cur
  mem : t.mem = s.mem
  fab : t.fab = s.fab
  waits : t.waits = s.waits
  gangs : t.gangs = s.gangs
  drops : ∀ h, s.drops.contains h = false → t.drops.contains h = false
  ft : ∀ c, (getCl t c).ft = if c = cl then (getCl s cl).ft.insert slot e else (getCl s c).ft

theorem Rewrote.entry {s t : State} {cl slot : Nat} {e : Entry} (h : Rewrote s t cl slot e) : entryAt t cl slot = some e := by
  unfold entryAt
  rw [h.ft, if_pos rfl, SMap.find?_insert_self]

theorem Rewrote.keeps {s t : State} {cl slot : Nat} {e : Entry} (h : Rewrote s t cl slot e) : Keeps s t := .of_core h.core h.cur

/-- Writing the entry that stands there. -/
theorem Rewrote.self {s : State} {cl slot : Nat} {e : Entry} (h : entryAt s cl slot = some e) : Rewrote s s cl slot e where
  core := rfl
  cur := rfl
  mem := rfl
  fab := rfl
  waits := rfl
  gangs := rfl
  drops := fun _ hd => hd
  ft := fun c => by
    split
    · next hc => rw [hc, SMap.insert_of_find? h]
    · rfl

/-- Another entry stands where it stood. -/
theorem Rewrote.entry_ne {s t : State} {cl slot cl1 slot1 : Nat} {e : Entry} (h : Rewrote s t cl slot e) (hne : slot1 ≠ slot ∨ cl1 ≠ cl) :
    entryAt t cl1 slot1 = entryAt s cl1 slot1 := by
  unfold entryAt
  rw [h.ft]
  split
  · next hc =>
    rw [hc, SMap.find?_insert_ne _ _ (hne.resolve_right (· hc))]
  · rfl

/-- Another handle names what it named. -/
theorem Rewrote.names {s t : State} {slot slot1 : Nat} {h h1 : Word} {e e' e1 : Entry} (hr : Rewrote s t (hHome h) slot e')
    (he : e'.handle = h) (hn : Names s h slot e) (hn1 : Names s h1 slot1 e1) (hh : h1 ≠ h) (hne : slot1 ≠ slot ∨ hHome h1 ≠ hHome h) :
    Names t h1 slot1 e1 := by
  obtain ⟨-, -, -, heh, hat, -⟩ := hn
  obtain ⟨hnode, hctx, hkind, hhandle, hat1, hfind⟩ := hn1
  refine ⟨by rw [hr.fab]; exact hnode, by rw [hr.core]; exact hctx, hkind, hhandle, (hr.entry_ne hne).trans hat1, ?_⟩
  rw [hr.ft]
  split
  · next hc =>
    have hother : ∀ {f : Entry}, f.handle = h → (f.handle == h1) = false := fun hf => by
      rw [hf]
      exact beq_eq_false_iff_ne.mpr hh.symm
    rw [SMap.list_find?_insert hat (fun f => f.handle == h1) (hother heh) (hother he), ← hc, hfind]
  · exact hfind

/-- Storing an entry in a table where one stands, and giving back the references that `p` names no more. -/
theorem rewrote_updEntry {s : State} {cl slot : Nat} {e0 : Entry} (h : entryAt s cl slot = some e0) (f : Entry → Entry) (p : Word → Bool) :
    Rewrote s (updEntry { s with drops := s.drops.filter p } cl slot f) cl slot (f e0) where
  core := rfl
  cur := rfl
  mem := rfl
  fab := rfl
  waits := rfl
  gangs := rfl
  drops := fun h hd => by
    simp only [updEntry_drops, List.contains_eq_mem, decide_eq_false_iff_not, List.mem_filter, not_and] at hd ⊢
    exact fun hm => absurd hm hd
  ft := fun c => by
    have hf : (getCl s cl).ft.find? slot = some e0 := h
    split
    · next hc =>
      rw [hc]
      unfold updEntry
      rw [getCl_updCl_self, show getCl { s with drops := s.drops.filter p } cl = getCl s cl from rfl, hf]
    · next hc =>
      unfold updEntry
      rw [getCl_updCl_ne _ _ _ _ hc]
      rfl

/-- Storing an entry in a table where one stands. -/
theorem rewrote_updEntry_only {s : State} {cl slot : Nat} {e0 : Entry} (h : entryAt s cl slot = some e0) (f : Entry → Entry) :
    Rewrote s (updEntry s cl slot f) cl slot (f e0) := by
  have hall : s.drops.filter (fun _ => true) = s.drops := List.filter_eq_self.mpr (fun _ _ => rfl)
  have hrw := rewrote_updEntry h f (fun _ => true)
  rw [hall] at hrw
  exact hrw

theorem putEntry_chip (cl slot : Nat) (e : Entry) (s : State) : putEntry (.chip cl slot) e s = .ok ((), updEntry s cl slot (fun _ => e)) := rfl

/-- An entry that has references does not become FREE. -/
theorem freeIfDone_of_refs {a : At} {e : Entry} {s : State} (h : e.refs ≠ 0) : freeIfDone a e s = .ok ((), s) := by
  unfold freeIfDone
  rw [M.getS_bind, beq_eq_false_iff_ne.mpr h, Bool.and_false, Bool.false_and]
  rfl

/-- An entry that has been finished with this outcome, with no reference given back: one that was finished stays (10 R213). -/
def Entry.finish (e : Entry) (st : FtState) (value : Word) (code : Nat) : Entry :=
  if e.st.done then e
  else { e with st := st, value := if st = .resolved then value else 0, code := if st = .poisoned then code % 256 else 0 }

theorem finishEntry_chip {s : State} {cl slot : Nat} {e : Entry} (st : FtState) (value : Word) (code : Nat)
    (he : entryAt s cl slot = some e) (hd : s.drops.contains e.handle = false) (hr : 0 < e.refs) :
    ∃ t, finishEntry (.chip cl slot) e st value code s = .ok ((), t) ∧ Rewrote s t cl slot (e.finish st value code) := by
  unfold finishEntry Entry.finish
  cases hdone : e.st.done with
  | true => exact ⟨s, rfl, .self he⟩
  | false =>
    simp only [Bool.false_eq_true, if_false, M.getS_bind, hd, Bool.false_and, M.modS_bind]
    exact ⟨_, (M.bind_ok (putEntry_chip ..)).trans (freeIfDone_of_refs (Nat.pos_iff_ne_zero.mp hr)),
      rewrote_updEntry he (fun _ => _) (· != e.handle)⟩

/-- Releasing one of several references, or the last one of an entry that is not finished (10 R212). -/
theorem releaseEntry_chip {s : State} {cl slot : Nat} {e : Entry} (he : entryAt s cl slot = some e) (hr : 0 < e.refs)
    (hk : ¬ (e.st.done = true ∧ e.refs = 1)) :
    ∃ t, releaseEntry (.chip cl slot) e s = .ok ((), t) ∧ Rewrote s t cl slot { e with refs := e.refs - 1 } := by
  refine ⟨_, ?_, rewrote_updEntry_only he (fun _ => { e with refs := e.refs - 1 })⟩
  unfold releaseEntry
  rw [M.guardT_true (bne_iff_ne.mpr (Nat.pos_iff_ne_zero.mp hr))]
  rw [M.bind_ok (putEntry_chip ..)]
  cases hdone : e.st.done with
  | true =>
    have h1 : e.refs ≠ 1 := fun h1 => hk ⟨hdone, h1⟩
    exact freeIfDone_of_refs (show e.refs - 1 ≠ 0 by omega)
  | false =>
    unfold freeIfDone
    rw [M.getS_bind, hdone, Bool.false_and, Bool.false_and]
    rfl

/-- Releasing the last reference of a finished entry without waiters frees its slot (10 R212). -/
theorem releaseEntry_chip_last {s : State} {cl slot : Nat} {e : Entry} (hw : waitersOf s e.handle = []) (hd : e.st.done = true)
    (hr : e.refs = 1) : ∃ t, releaseEntry (.chip cl slot) e s = .ok ((), t) ∧ t.core = s.core ∧ t.mem = s.mem ∧ entryAt t cl slot = none := by
  let s1 := updEntry s cl slot (fun _ => { e with refs := e.refs - 1 })
  have hfree : freeIfDone (.chip cl slot) { e with refs := e.refs - 1 } s1 = freeEntry (.chip cl slot) e.handle s1 := by
    unfold freeIfDone
    rw [M.getS_bind, hd, hr, show waitersOf s1 e.handle = [] from hw]
    rfl
  refine ⟨updCl s1 cl (fun c => { c with ft := c.ft.erase slot }), ?_, rfl, rfl, ?_⟩
  · unfold releaseEntry
    rw [M.guardT_true (by rw [hr]; rfl), M.bind_ok (putEntry_chip ..)]
    exact hfree
  · unfold entryAt
    rw [getCl_updCl_self]
    exact SMap.find?_erase_self _ _

/-! Cancelling an entry (10 R213, R222) -/

/-- What a cancel request makes of an entry. -/
def Entry.cancel (e : Entry) : Entry :=
  if e.st = .pending ∧ e.kind ≤ 1 then { e with st := .cancelled, value := 0, code := 0 }
  else if e.st = .running then { e with creq := true } else e

theorem Entry.cancel_handle (e : Entry) : e.cancel.handle = e.handle := by
  unfold Entry.cancel
  split
  · rfl
  · split <;> rfl

theorem Entry.cancel_of_pending {e : Entry} (h : e.st = .pending) (hk : e.kind ≤ 1) : e.cancel = e.finish .cancelled 0 0 := by
  unfold Entry.cancel Entry.finish
  rw [if_pos ⟨h, hk⟩, h]
  rfl

theorem Entry.cancel_of_running {e : Entry} (h : e.st = .running) : e.cancel = { e with creq := true } := by
  unfold Entry.cancel
  rw [if_neg (by rw [h]; exact fun hp => nomatch hp.1), if_pos h]

theorem Entry.cancel_of_other {e : Entry} (hp : e.st = .pending → ¬ e.kind ≤ 1) (hr : e.st ≠ .running) : e.cancel = e := by
  unfold Entry.cancel
  rw [if_neg (fun h => hp h.1 h.2), if_neg hr]

theorem cancelAt_chip {s : State} {cl slot : Nat} {e : Entry} (he : entryAt s cl slot = some e) (hd : s.drops.contains e.handle = false)
    (hr : 0 < e.refs) : ∃ b t, cancelAt (.chip cl slot) e s = .ok (b, t) ∧ Rewrote s t cl slot e.cancel := by
  obtain ⟨st, kind, handle, value, parent, seq, code, carried, creq, refs⟩ := e
  cases st with
  | pending =>
    unfold cancelAt
    by_cases hk : kind ≤ 1
    · obtain ⟨t, ht, hrw⟩ := finishEntry_chip .cancelled 0 0 he hd hr
      rw [Entry.cancel_of_pending rfl hk]
      simp only [hk, if_true]
      exact ⟨true, t, M.bind_ok ht, hrw⟩
    · rw [Entry.cancel_of_other (fun _ => hk) FtState.noConfusion]
      simp only [hk, if_false]
      exact ⟨false, s, rfl, .self he⟩
  | running =>
    rw [Entry.cancel_of_running rfl]
    exact ⟨false, _, rfl, rewrote_updEntry_only he (fun _ => _)⟩
  | resolved | poisoned | cancelled =>
    rw [Entry.cancel_of_other FtState.noConfusion FtState.noConfusion]
    exact ⟨false, s, rfl, .self he⟩

/-- Where no record stands for the handle, none is discarded. -/
theorem discardRecord_none {s : State} {h : Word} (hg : s.gangs.all (fun g => g.members.all (fun m => m.fut != h)) = true) :
    discardRecord s h = s := by
  unfold discardRecord
  rw [List.find?_eq_none.mpr]
  intro g hmem
  have hall := List.all_eq_true.mp hg g hmem
  simp only [Bool.and_eq_true, List.any_eq_true, not_and, not_exists]
  intro _ m hm
  have hne := List.all_eq_true.mp hall m hm
  simp only [bne_iff_ne, ne_eq] at hne
  simp [hne]

theorem cancelOne_chip {s : State} {cl slot : Nat} {e : Entry} (he : entryAt s cl slot = some e) (hd : s.drops.contains e.handle = false)
    (hr : 0 < e.refs) (hg : s.gangs.all (fun g => g.members.all (fun m => m.fut != e.handle)) = true) :
    ∃ t, cancelOne (.chip cl slot) e s = .ok ((), t) ∧ Rewrote s t cl slot e.cancel := by
  obtain ⟨b, t, ht, hrw⟩ := cancelAt_chip he hd hr
  refine ⟨t, ?_, hrw⟩
  unfold cancelOne
  rw [M.bind_ok ht]
  cases b with
  | false => rfl
  | true =>
    have hgt : discardRecord t e.handle = t := discardRecord_none (by rw [hrw.gangs]; exact hg)
    exact congrArg (fun u => Except.ok ((), u)) hgt

end Sys2Proof.Machine
end

section
/-!
PROOFS. Promises, their finish, cancellation, and the checks of a handle (11 R230, R235, R239 to R241). An instruction of this family checks
its handle (`checkHandle_named` and its like); what its effect does to the entry is then retired by `issue_past`.
-/
namespace Sys2Proof.Machine

open Host (Outcome)

/-! Retiring an instruction without a repeat -/

theorem turn_of_plain {x : Ins} {s : State} {k : Cont} (h : Issues x s k) (hr : x.rep = none) (hc : s.core.cont = none) :
    k = ⟨0, 0, 0, false⟩ := by
  have ht := h.turn
  unfold iteration at ht
  rw [hc, hr] at ht
  exact (Option.some.inj ht).symm

theorem setG_eq (c : Core) (n : Nat) (w : Word) : c.setG n w = { c with g := (c.setG n w).g } := by
  unfold Core.setG
  split <;> rfl

/-- Nothing that `Past` speaks of changes when an instruction starts. -/
theorem past_of_started {x : Ins} {k : Cont} {s t : State} (h : Past x (started x k s) t) : Past x s t := by
  obtain ⟨hm, hv, hk, hpc, hw⟩ := h
  exact ⟨hm, hv.trans (waiting_v x k s.core), hk.trans (waiting_k x k s.core), hpc.trans (congrArg (· + _) (waiting_pc x k s.core)), hw⟩

/-- Issuing an instruction without a repeat whose effect keeps the core up to `u`, and then changes nothing of it and of memory but the g
registers. -/
theorem issue_past {x : Ins} {s u t : State} {k : Cont} {body : Nat → Nat → Nat → M Flow} (h : Issues x s k) (hr : x.rep = none)
    (hc : s.core.cont = none) (hw : u.core.wait = .none) (hu : Keeps (started x k s) u) (hm : t.mem = u.mem)
    (ht : t.core = { u.core with g := t.core.g }) (hb : body (dOf x k) (sOf x k) (mOf k) (started x k s) = .ok (.seq, t)) :
    issue x noPre body s = .next (onward x k t) ∧ Past x u (onward x k t) ∧ (onward x k t).core.g = t.core.g := by
  have hcont : t.core.cont = (waiting x k s.core).cont := by rw [ht]; exact hu.cont
  have hwins : t.core.wins = [] := by rw [ht]; exact hu.wins.trans ((waiting_wins x k s.core).trans h.calm)
  refine ⟨issue_onward h rfl t hb hwins hcont, ?_⟩
  obtain rfl := turn_of_plain h hr hc
  refine ⟨⟨hm, ?_, ?_, ?_, ?_⟩, rfl⟩ <;> unfold onward advance <;> rw [ht]
  · rfl
  · rfl
  · rfl
  · exact hw

theorem keeps_started_wait {x : Ins} {k : Cont} {s u : State} (h : Keeps (started x k s) u) : u.core.wait = s.core.wait := by
  rw [h.core]
  exact waiting_wait x k s.core

/-! The checks of a handle (11 R230) -/

theorem badHandle_ne_fault (h : Word) : (badHandle h).code ≠ 5 := show 21 ≠ 5 by decide

section
variable {h : Word} {good : Bool} {first : M Unit} {s : State} {β : Type} (f : Option (At × Entry) → M β)

theorem nodeCheck_true (hn : hNode h = s.fab.own.toNat ∨ nodeReach s (hNode h) = true) :
    (hNode h == ownNode s || nodeReach s (hNode h)) = true := by
  rw [Bool.or_eq_true, beq_iff_eq]
  exact hn

theorem localCheck_true (hk : hKind h ≤ 3) (hc : hCtx h = s.core.ctx.toNat) (hg : good = true) :
    (decide (hKind h ≤ 3) && hCtx h == s.core.ctx.toNat && good) = true := by
  rw [hg, Bool.and_true, Bool.and_eq_true, decide_eq_true_iff, beq_iff_eq]
  exact ⟨hk, hc⟩

theorem checkHandle_unreached (hn : hNode h ≠ s.fab.own.toNat) (hr : nodeReach s (hNode h) = false) :
    (checkHandle h good first >>= f) s = .error { code := 18, tval := BitVec.ofNat 64 (hNode h) } := by
  refine M.bind_error ?_
  unfold checkHandle
  rw [M.getS_bind, M.guardT_false]
  rw [hr, Bool.or_false]
  exact beq_eq_false_iff_ne.mpr hn

/-- A handle whose node is this one, or can be reached, and that the other local checks refuse. -/
theorem checkHandle_refused (hn : hNode h = s.fab.own.toNat ∨ nodeReach s (hNode h) = true)
    (hbad : (decide (hKind h ≤ 3) && hCtx h == s.core.ctx.toNat && good) = false) :
    (checkHandle h good first >>= f) s = .error (badHandle h) := by
  refine M.bind_error ?_
  unfold checkHandle
  rw [M.getS_bind, M.guardT_true (nodeCheck_true hn), M.guardT_false hbad]

theorem checkHandle_missing {s1 : State} (hn : hNode h = s.fab.own.toNat) (hk : hKind h ≤ 3) (hc : hCtx h = s.core.ctx.toNat)
    (hg : good = true) (hf : findEntry h s = .ok (none, s1)) : (checkHandle h good first >>= f) s = .error (badHandle h) := by
  have htry : tryM (findEntry h) s = .ok (.ok none, s1) := by
    unfold tryM
    rw [hf]
  refine M.bind_error ?_
  unfold checkHandle
  rw [M.getS_bind, M.guardT_true (nodeCheck_true (.inl hn)), M.guardT_true (localCheck_true hk hc hg),
    if_pos (show hNode h = ownNode s from hn), M.bind_ok htry]
  rfl

theorem checkHandle_far (hn : hNode h ≠ s.fab.own.toNat) (hr : nodeReach s (hNode h) = true) (hk : hKind h ≤ 3)
    (hc : hCtx h = s.core.ctx.toNat) (hg : good = true) : (checkHandle h good first >>= f) s = f none s := by
  refine M.bind_ok ?_
  unfold checkHandle
  rw [M.getS_bind, M.guardT_true (nodeCheck_true (.inr hr)), M.guardT_true (localCheck_true hk hc hg),
    if_neg (show ¬ hNode h = ownNode s from hn)]
  rfl

theorem findEntry_of_names {slot : Nat} {e : Entry} (hn : Names s h slot e) : findEntry h s = .ok (some (.chip (hHome h) slot, e), s) := by
  obtain ⟨-, -, -, -, -, hfind⟩ := hn
  unfold findEntry
  rw [M.getS_bind, hfind]
  rfl

theorem checkHandle_named {slot : Nat} {e : Entry} (hn : Names s h slot e) (hg : good = true) :
    (checkHandle h good first >>= f) s = f (some (.chip (hHome h) slot, e)) s := by
  have htry : tryM (findEntry h) s = .ok (.ok (some (.chip (hHome h) slot, e)), s) := by
    unfold tryM
    rw [findEntry_of_names hn]
  obtain ⟨hnode, hctx, hkind, -⟩ := hn
  refine M.bind_ok ?_
  unfold checkHandle
  rw [M.getS_bind, M.guardT_true (nodeCheck_true (.inl hnode)), M.guardT_true (localCheck_true hkind hctx hg),
    if_pos (show hNode h = ownNode s from hnode), M.bind_ok htry]
  rfl

end

/-- The packet that a request puts into the queue of packets to send. -/
theorem sendReq_outbox (s : State) (dst kind chan addr ctx sub : Nat) (data : List Byte) (va : Nat) (forw : ReplyFor) :
    ∃ p, (sendReq s dst kind chan addr ctx sub data va forw).fab.outbox = s.fab.outbox ++ [p] ∧ p.kind = BitVec.ofNat 4 kind ∧
      p.dst = BitVec.ofNat 10 dst ∧ p.addr = BitVec.ofNat 64 addr ∧ p.tag = BitVec.ofNat 16 (nextTagOf s dst forw) := by
  have h : (takeSeq s dst chan).2.fab.outbox = s.fab.outbox := by
    unfold takeSeq
    split <;> rfl
  unfold sendReq post
  dsimp only
  rw [h]
  exact ⟨_, rfl, rfl, rfl, rfl, rfl⟩

theorem sendReq_mem (s : State) (dst kind chan addr ctx sub : Nat) (data : List Byte) (va : Nat) (forw : ReplyFor) :
    (sendReq s dst kind chan addr ctx sub data va forw).mem = s.mem := by
  have h : (takeSeq s dst chan).2.mem = s.mem := by
    unfold takeSeq
    split <;> rfl
  exact h

/-- Asking another node, where the send allowance and the reply slots let it: the core waits for the answer. -/
theorem askNode_sends {x : Ins} {sub op d t : Nat} {h : Word} {data : List Byte} {s : State} (kind : Nat) (hla : x.la = 0)
    (hsend : canSend s (dieOf s.cur) (hNode h) 2 (ReplyFor.task s.cur op d t h x.size).slot = true) :
    ∃ u p tag, askNode kind sub op d t x h data s = .ok (.hold, u) ∧ u.fab.outbox = s.fab.outbox ++ [p] ∧ p.kind = BitVec.ofNat 4 kind ∧
      p.dst = BitVec.ofNat 10 (hNode h) ∧ p.addr = h ∧ p.tag = BitVec.ofNat 16 tag ∧ u.core.wait = .reply tag ∧
      u.core.pc = s.core.pc ∧ u.core.g = s.core.g ∧ u.mem = s.mem := by
  let forw := ReplyFor.task s.cur op d t h x.size
  let tag := nextTagOf s (hNode h) forw
  let s1 := sendReq s (hNode h) kind 2 h.toNat s.core.ctx.toNat sub data h.toNat forw
  obtain ⟨p, hbox, hkind, hdst, haddr, htag⟩ := sendReq_outbox s (hNode h) kind 2 h.toNat s.core.ctx.toNat sub data h.toNat forw
  have hs1 : Keeps s s1 := keeps_sendReq _ _ _ _ _ _ _ _ _ _
  refine ⟨{ s1 with core := { s1.core with wait := .reply tag } }, p, tag, ?_, hbox, hkind, hdst, ?_, htag, rfl, hs1.pc, hs1.g,
    sendReq_mem s (hNode h) kind 2 h.toNat s.core.ctx.toNat sub data h.toNat forw⟩
  · unfold askNode opensLater
    rw [M.getS_bind, hsend]
    simp only [Bool.not_true, Bool.false_eq_true, if_false, M.modS_bind, M.modC_bind, hla, if_true]
    rfl
  · rw [haddr, BitVec.ofNat_toNat, BitVec.setWidth_eq]

/-- The frame of an instruction that checks the handle in g(s) and then goes on as `rest`, which asks another node as `askNode` does. -/
theorem checksHandle_of_exec {ins : TaskOp → Instr} {frame : TaskOp → Ins} {slot : Bool}
    {rest : TaskOp → Word → Option (At × Entry) → M Flow} (sub op : Nat) (d t : TaskOp → Nat)
    (hx : ∀ o s, exec (ins o) s = issue (frame o) noPre (fun _ _ _ => rG o.s.toNat >>= fun h => checkHandle h >>= rest o h) s)
    (hfar : ∀ o h, rest o h none = askNode 5 sub op (d o) (t o) (frame o) h [])
    (hslot : (!(op == 4 || op == 5 || op == 6 || op == 12)) = slot) : ChecksHandle ins frame slot := by
  intro o s k x s0 h hi
  have hctx : s0.core.ctx = s.core.ctx := waiting_ctx x k s.core
  have hg : s0.core.getG o.s.toNat = h := waiting_getG x k s.core _
  rw [hx]
  refine ⟨fun hn hr => ?_, fun hn hbad => ?_, fun s1 hn hk hc hf => ?_, fun hn hr hk hc hsend => ?_⟩
  · refine issue_raises hi rfl _ (show 18 ≠ 5 by decide) ?_
    rw [M.rG_bind, hg]
    exact checkHandle_unreached _ hn hr
  · refine issue_raises hi rfl (badHandle h) (badHandle_ne_fault h) ?_
    rw [M.rG_bind, hg]
    refine checkHandle_refused _ hn ?_
    rw [Bool.and_true, Bool.and_eq_false_iff, decide_eq_false_iff_not, beq_eq_false_iff_ne, hctx, Nat.not_le]
    exact hbad
  · refine issue_raises hi rfl (badHandle h) (badHandle_ne_fault h) ?_
    rw [M.rG_bind, hg]
    exact checkHandle_missing _ hn hk (by rw [hctx]; exact hc) rfl hf
  · subst hslot
    obtain ⟨u, p, tag, hask, hbox, hkind, hdst, haddr, htag, hwait, hpc, hgs, hm⟩ :=
      askNode_sends (x := x) (sub := sub) (op := op) (d := d o) (t := t o) (h := h) (data := []) (s := s0) 5 hi.plain hsend
    refine ⟨u, p, tag, issue_holds hi rfl u ?_, hbox, hkind, hdst, haddr, htag, hwait, hpc.trans (waiting_pc x k s.core),
      hgs.trans (waiting_g x k s.core), hm⟩
    rw [M.rG_bind, hg]
    refine (checkHandle_far (s := s0) _ hn hr hk (by rw [hctx]; exact hc) rfl).trans ?_
    rw [hfar]
    exact hask

theorem handleChecksSpec : HandleChecksSpec :=
  ⟨checksHandle_of_exec 4 2 (fun o => o.d.toNat) (fun o => o.t.toNat) (fun _ _ => rfl) (fun _ _ => rfl) rfl,
   checksHandle_of_exec 2 6 (fun _ => 0) (fun _ => 0) (fun _ _ => rfl) (fun _ _ => rfl) rfl,
   checksHandle_of_exec 5 12 (fun _ => 0) (fun _ => 0) (fun _ _ => rfl) (fun _ _ => rfl) rfl⟩

/-! Promises (11 R235; 10 R217) -/

theorem hKind_mkHandle (node home slot gen ctx kind : Nat) : hKind (mkHandle node home slot gen ctx kind) = kind % 16 := by
  unfold hKind mkHandle fld
  rw [BitVec.toNat_ofNat]
  omega

theorem spillWaits_of_room {s : State} {cl slot : Nat} (h : Room s cl slot) : spillWaits s s.core.ctx.toNat cl = false := by
  obtain ⟨huse, hfree⟩ := h
  unfold spillWaits
  rw [decide_eq_true huse, hfree]
  simp

/-- Where the table has room, the new entry stands under its lowest free slot. -/
theorem allocEntry_of_room {s : State} {cl slot : Nat} (h : Room s cl slot) (kind : Nat) (parent : Word) (refs : Nat) :
    ∃ t, allocEntry cl s.core.ctx.toNat kind parent refs s = .ok (newHandle s cl slot kind, t) ∧ t.core = s.core ∧ t.mem = s.mem ∧
      entryAt t cl slot = some (mkEntry .pending (newHandle s cl slot kind) parent ((getCtx s s.core.ctx.toNat).seq + 1).toNat refs) ∧
      (getCtx t s.core.ctx.toNat).seq = (getCtx s s.core.ctx.toNat).seq + 1 := by
  obtain ⟨huse, hfree⟩ := h
  let ctx := s.core.ctx.toNat
  let s1 := updCtx s ctx (fun c => { c with seq := (getCtx s ctx).seq + 1 })
  let s2 := updCl s1 cl (fun c => { c with genr := c.genr.insert slot (((getCl s cl).genr.getD slot 0 + 1) % 2 ^ 24) })
  let e := mkEntry .pending (newHandle s cl slot kind) parent ((getCtx s ctx).seq + 1).toNat refs
  refine ⟨updCl s2 cl (fun c => { c with ft := c.ft.insert slot e }), ?_, rfl, rfl, ?_, ?_⟩
  · unfold allocEntry
    rw [M.getS_bind]
    simp only [decide_eq_true huse, if_true, hfree]
    rfl
  · unfold entryAt
    rw [getCl_updCl_self, SMap.find?_insert_self]
  · exact congrArg Ctx.seq (getCtx_updCtx_self s ctx (fun c => { c with seq := (getCtx s ctx).seq + 1 }))

theorem fnew_body {o : TaskOp} {s : State} {slot : Nat} (h : Room s (clusterOf s.cur) slot) :
    ∃ t, (do
        let s ← getS
        if spillWaits s s.core.ctx.toNat (clusterOf s.cur) then holdIssue
        else do
          let h ← allocEntry (clusterOf s.cur) s.core.ctx.toNat 1 (parentOf s) (1 + o.fl.toNat % 4)
          wG o.d.toNat h
          pure .seq : M Flow) s = .ok (.seq, t) ∧
      t.core = s.core.setG o.d.toNat (newHandle s (clusterOf s.cur) slot 1) ∧ t.mem = s.mem ∧
      entryAt t (clusterOf s.cur) slot = some (mkEntry .pending (newHandle s (clusterOf s.cur) slot 1) (parentOf s)
        ((getCtx s s.core.ctx.toNat).seq + 1).toNat (1 + o.fl.toNat % 4)) ∧
      (getCtx t s.core.ctx.toNat).seq = (getCtx s s.core.ctx.toNat).seq + 1 := by
  obtain ⟨t, halloc, hcore, hmem, hentry, hseq⟩ := allocEntry_of_room h 1 (parentOf s) (1 + o.fl.toNat % 4)
  refine ⟨{ t with core := t.core.setG o.d.toNat (newHandle s (clusterOf s.cur) slot 1) }, ?_, by rw [← hcore], hmem, hentry, hseq⟩
  rw [M.getS_bind, spillWaits_of_room h]
  exact M.bind_ok halloc

theorem promisesSpec : PromisesSpec := by
  intro o s k slot x cl h hi hc hw hroom
  let s0 := started x k s
  obtain ⟨t, hbody, hcore, hmem, hentry, hseq⟩ := fnew_body (o := o) (s := s0) (room_started.mpr hroom)
  rw [newHandle_started] at hcore hentry
  rw [parentOf_started, started_core, waiting_ctx] at hentry
  rw [started_core, waiting_ctx] at hseq
  obtain ⟨hexec, hpast, hg⟩ := issue_past (u := s0) (body := fun _ _ _ => _) hi rfl hc ((waiting_wait x k s.core).trans hw) (.refl s0) hmem
    (by rw [hcore]; exact setG_eq _ _ _) hbody
  refine ⟨_, _, hexec, past_of_started hpast, hg.trans ?_, hentry, rfl, rfl, hKind_mkHandle _ _ _ _ _ _, rfl, rfl, rfl, hseq⟩
  rw [hcore]
  exact waiting_setG_g x k s.core _ _

/-! Finishing promises (11 R239; 10 R213, R214) -/

section
variable {s : State} {h : Word} {slot : Nat} {e : Entry} {hn : Nat}

theorem settle_refused (op : Nat) (st : FtState) (x : Ins) (value : Word) (code : Nat) {okCode : Bool} (hh : s.core.getG hn = h)
    (hname : Names s h slot e) (hbad : (hKind h == 1 && okCode) = false) :
    settle op st x hn value code okCode s = .error (badHandle h) := by
  obtain ⟨hnode, -⟩ := hname
  unfold settle
  rw [M.rG_bind, hh]
  refine checkHandle_refused _ (.inl hnode) ?_
  rw [hbad, Bool.and_false]

theorem settle_waits (op : Nat) (st : FtState) (x : Ins) (value : Word) (code : Nat) {okCode : Bool} (hh : s.core.getG hn = h)
    (hname : Names s h slot e) (hgood : (hKind h == 1 && okCode) = true) (hout : storesOut s s.cur none = true) :
    settle op st x hn value code okCode s = .ok (.hold, { s with core := { s.core with wait := .issue } }) := by
  have hack : ackWait true 2 s = .ok (true, s) := by
    unfold ackWait
    rw [hout]
    rfl
  unfold settle
  rw [M.rG_bind, hh, checkHandle_named _ hname hgood, M.getS_bind, M.bind_ok hack]
  rfl

theorem settle_finishes (op : Nat) (st : FtState) (x : Ins) (value : Word) (code : Nat) {okCode : Bool} (hh : s.core.getG hn = h)
    (hname : Names s h slot e) (hgood : (hKind h == 1 && okCode) = true) (hout : storesOut s s.cur none = false)
    (hwait : waitersOf s h = []) (hdrop : s.drops.contains h = false) (hrefs : 0 < e.refs) :
    ∃ t, settle op st x hn value code okCode s = .ok (.seq, t) ∧ t.core = (released 1 2 s).core ∧ t.mem = (released 1 2 s).mem ∧
      entryAt t (hHome h) slot = some (e.finish st value code) := by
  have hack : ackWait true 2 s = .ok (false, s) := by
    unfold ackWait
    rw [hout]
    rfl
  have hnear : farWaiter s h = false := by
    unfold farWaiter
    rw [hwait]
    rfl
  obtain ⟨-, -, -, rfl, hat, -⟩ := id hname
  let s1 := released 1 2 s
  have htab : SameTables s s1 := sameTables_released s
  obtain ⟨tr, htr⟩ := hears_eq s1 (576 + hHome e.handle) s1.cur
  let s2 := { s1 with trc := tr }
  have hat2 : entryAt s2 (hHome e.handle) slot = some e := (htab.entryAt _ _).trans hat
  have hdrop2 : s2.drops.contains e.handle = false := by
    show s1.drops.contains e.handle = false
    rw [htab.drops]
    exact hdrop
  obtain ⟨t, ht, hrw⟩ := finishEntry_chip st value code hat2 hdrop2 hrefs
  refine ⟨t, ?_, hrw.core, hrw.mem, hrw.entry⟩
  unfold settle
  rw [M.rG_bind, hh, checkHandle_named _ hname hgood, M.getS_bind, M.bind_ok hack, hnear]
  show (modS (fun s => hears s (576 + hHome e.handle) s.cur) >>= fun _ =>
    finishEntry (.chip (hHome e.handle) slot) e st value code >>= fun _ => pure Flow.seq) s1 = _
  rw [M.modS_bind, htr, M.bind_ok ht]
  rfl

end

theorem Entry.finish_poisoned (e : Entry) (v : Word) (n : Nat) :
    e.finish .poisoned v (n % 256) = if e.st.done then e else { e with st := .poisoned, value := 0, code := n % 256 } := by
  rw [← Nat.mod_mod n 256]
  unfold Entry.finish
  rw [Nat.mod_mod]
  rfl

/-- An instruction that settles a promise, from a state in which it is due. -/
theorem issue_settle {x : Ins} {s : State} {k : Cont} {slot : Nat} {e : Entry} {o : TaskOp} (op : Nat) (st : FtState) (f : Word → Word)
    (code : Word → Nat) (ok : Word → Bool) (hr : x.rep = none) (hi : Issues x s k) (hname : Names s (s.core.getG o.s.toNat) slot e)
    (hc : s.core.cont = none) (hw : s.core.wait = .none) (hwait : waitersOf s (s.core.getG o.s.toNat) = []) (hrefs : 0 < e.refs)
    (hdrop : s.drops.contains (s.core.getG o.s.toNat) = false) :
    let h := s.core.getG o.s.toNat
    let v := s.core.getG o.t.toNat
    let r := issue x noPre (fun _ _ _ => rG o.t.toNat >>= fun v => settle op st x o.s.toNat (f v) (code v) (ok v)) s
    ((hKind h == 1 && ok v) = true → storesOut s s.cur none = true → r = .next { s with core := { waiting x k s.core with wait := .issue } }) ∧
    ((hKind h == 1 && ok v) = true → storesOut s s.cur none = false →
      ∃ t, r = .next t ∧ Past x (released 1 2 (started x k s)) t ∧ t.core.g = s.core.g ∧
        entryAt t (hHome h) slot = some (e.finish st (f v) (code v))) ∧
    ((hKind h == 1 && ok v) = false → r = .next (takeTrap (started x k s) x.size { code := 21, tval := h })) := by
  intro h v r
  have hname0 : Names (started x k s) h slot e := names_started.mpr hname
  have hh : (started x k s).core.getG o.s.toNat = h := waiting_getG x k s.core _
  have hbody : ∀ y, settle op st x o.s.toNat (f v) (code v) (ok v) (started x k s) = y →
      (rG o.t.toNat >>= fun v => settle op st x o.s.toNat (f v) (code v) (ok v)) (started x k s) = y := fun y hy => by
    rw [M.rG_bind, show (started x k s).core.getG o.t.toNat = v from waiting_getG x k s.core _]
    exact hy
  refine ⟨fun hgood hout => ?_, fun hgood hout => ?_, fun hbad => ?_⟩
  · exact issue_holds hi rfl _ (hbody _ (settle_waits op st x _ _ hh hname0 hgood hout))
  · obtain ⟨t, ht, hcore, hmem, hentry⟩ := settle_finishes op st x (f v) (code v) hh hname0 hgood hout hwait hdrop hrefs
    have hu := keeps_released (started x k s)
    obtain ⟨hexec, hpast, hg⟩ := issue_past (body := fun _ _ _ => _) hi hr hc ((keeps_started_wait hu).trans hw) hu hmem
      (by rw [hcore]) (hbody _ ht)
    refine ⟨_, hexec, hpast, hg.trans ?_, hentry⟩
    rw [hcore, hu.g]
    exact waiting_g x k s.core
  · exact issue_raises hi rfl (badHandle h) (badHandle_ne_fault h) (hbody _ (settle_refused op st x _ _ hh hname0 hbad))

/-- Writing the carried code of a task. -/
theorem rewrote_setCarried {s : State} {v cl slot : Nat} {e : Entry} (code : Nat) (ho : ownSlot s v = some (cl, slot))
    (he : entryAt s cl slot = some e) : Rewrote s (setCarried s v code) cl slot { e with carried := code } := by
  unfold setCarried
  rw [ho]
  exact rewrote_updEntry_only he _

theorem setCarried_of_no_task {s : State} {v : Nat} (code : Nat) (ho : ownSlot s v = none) : setCarried s v code = s := by
  unfold setCarried
  rw [ho]

theorem poisonSelf_body {o : TaskOp} {x : Ins} {k : Cont} {s : State} :
    (rG o.t.toNat >>= fun v => modS (fun s => setCarried s s.cur (v.toNat % 256)) >>= fun _ => pure Flow.seq) (started x k s) =
      .ok (.seq, setCarried (started x k s) s.cur ((s.core.getG o.t.toNat).toNat % 256)) := by
  rw [M.rG_bind, M.modS_bind, started_core, waiting_getG]
  rfl

theorem settlingSpec : SettlingSpec := by
  refine ⟨?_, ?_⟩
  · intro o s k slot e h v hname hc hw hwait hrefs hdrop
    refine ⟨fun x hx hi => ?_, fun x hx hi => ?_⟩ <;> subst hx
    · obtain ⟨hwaits, hfin, hbad⟩ := issue_settle 4 .resolved id (fun _ => 0) (fun _ => true) rfl hi hname hc hw hwait hrefs hdrop
      simp only [Bool.and_true, beq_iff_eq, beq_eq_false_iff_ne] at hwaits hfin hbad
      exact ⟨hwaits, hfin, hbad⟩
    · obtain ⟨-, hfin, hbad⟩ := issue_settle 5 .poisoned (fun v => BitVec.ofNat 64 (v.toNat % 256)) (fun v => v.toNat % 256)
        (fun v => v.toNat % 256 != 0) rfl hi hname hc hw hwait hrefs hdrop
      refine ⟨fun hk hcode hout => ?_, fun hcode => hbad ?_⟩
      · rw [← Entry.finish_poisoned e (BitVec.ofNat 64 (v.toNat % 256))]
        exact hfin (by rw [Bool.and_eq_true, beq_iff_eq, bne_iff_ne]; exact ⟨hk, hcode⟩) hout
      · rw [bne_eq_false_iff_eq.mpr hcode, Bool.and_false]
  · intro o s k x v hi hc hw
    refine ⟨fun cl own e howns hat => ?_, fun hnone => ?_⟩
    · have hrw : Rewrote (started x k s) (setCarried (started x k s) s.cur (v.toNat % 256)) cl own { e with carried := v.toNat % 256 } :=
        rewrote_setCarried _ ((ownSlot_started x k s s.cur).trans howns) hat
      obtain ⟨hexec, hpast, hg⟩ := issue_past (body := fun _ _ _ => _) hi rfl hc ((waiting_wait x k s.core).trans hw)
        (.refl (started x k s)) hrw.mem (by rw [hrw.core]) poisonSelf_body
      refine ⟨_, hexec, past_of_started hpast, hg.trans ?_, hrw.entry⟩
      rw [hrw.core]
      exact waiting_g x k s.core
    · show execPoisonSelf o s = _
      unfold execPoisonSelf
      refine issue_regs hi rfl _ regsOnly_id (poisonSelf_body.trans ?_)
      rw [setCarried_of_no_task _ ((ownSlot_started x k s s.cur).trans hnone)]
      rfl

/-! Reads of a context's board keep the active core -/

theorem mkeeps_onBoard {α : Type} {m : M α} (h : MKeeps m) : MKeeps (onBoard m) := by
  intro s y t ht
  unfold onBoard at ht
  cases hm : m s with
  | error c => rw [hm] at ht; cases ht
  | ok r =>
    rw [hm] at ht
    cases ht
    exact h s _ _ hm

theorem keeps_asEngine {α : Type} {m : M α} (h : MKeeps m) (s : State) : Keeps s (asEngine m s).2 := by
  unfold asEngine
  cases hm : m s with
  | error c => exact .refl s
  | ok r => exact h s r.1 r.2 hm

theorem keeps_tableRead (v ctx va n : Nat) (s : State) : Keeps s (tableRead v ctx va n s).2 := by
  induction n generalizing va s with
  | zero => exact .refl s
  | succ n ih =>
    unfold tableRead
    dsimp only
    generalize hone : asEngine (_ : M Nat) s = r
    have hr : Keeps s r.2 := by
      rw [← hone]
      refine keeps_asEngine (.bind (.liftS fun s => keeps_useRec s _) fun _ => .bind (mkeeps_pagedTo _ _ _ _) fun _ => .get fun _ => ?_) s
      exact .ite (.raise _) (.ite (.raise _) (.pure _))
    obtain ⟨q, s1⟩ := r
    cases q with
    | error c => exact hr
    | ok y =>
      have h2 := hr.trans (ih (va + 8) s1)
      dsimp only
      split
      · next he => rw [he] at h2; exact h2
      · next he => rw [he] at h2; exact h2

theorem mkeeps_devRead (v ctx va n : Nat) : MKeeps (devRead v ctx va n) := by
  intro s y t h
  have hk := keeps_tableRead v ctx va n s
  unfold devRead at h
  split at h
  · next he =>
    rw [he] at hk
    cases h
    exact hk
  · cases h

theorem mkeeps_ctxBlock (ctx : Nat) : MKeeps (ctxBlock ctx) := by
  unfold ctxBlock
  refine .bind (.liftS fun s => keeps_useRec s _) fun r => .get fun s => ?_
  split
  · exact .raise _
  · split
    · exact .raise _
    · split
      · exact .raise _
      · exact .pure _

theorem mkeeps_boardFrom (b : CtxBlk) (ctx c f j : Nat) : MKeeps (boardFrom b ctx c f j) := by
  induction f generalizing j with
  | zero => exact .pure _
  | succ f ih => exact .ite (.pure _) (.bind (mkeeps_devRead _ _ _ _) fun _ => .bind (ih _) fun _ => .pure _)

theorem mkeeps_boardAll (b : CtxBlk) (ctx n : Nat) : MKeeps (boardAll b ctx n) := by
  induction n with
  | zero => exact .pure _
  | succ c ih => exact .bind ih fun _ => .bind (mkeeps_boardFrom _ _ _ _ _) fun _ => .pure _

theorem mkeeps_allEntries (ctx : Nat) : MKeeps (allEntries ctx) :=
  .get fun _ => .bind (mkeeps_onBoard (mkeeps_ctxBlock ctx)) fun _ => .bind (mkeeps_onBoard (mkeeps_boardAll _ _ _)) fun _ => .pure _

/-! `cancel`, `cancel.deep`, `fdrop` and `tcheck` (11 R240, R241) -/

theorem reaches_self (h : Word) {n : Nat} (hn : n ≠ 0) (s : State) : reaches h n h s = .ok (true, s) := by
  obtain ⟨m, rfl⟩ := Nat.exists_eq_succ_of_ne_zero hn
  unfold reaches
  rw [if_pos rfl]
  rfl

/-- Of two entries, a task's and its child's, the walk finds the child. -/
theorem descend_child {h : Word} {a a1 : At} {e e1 : Entry} {s : State} (he : e.handle = h) (hne : e1.handle ≠ h) (hp : e1.parent = h) :
    descend h [(a, e), (a1, e1)] s = .ok ([(a1, e1)], s) := by
  have hr : reaches h 1048576 e1.parent s = .ok (true, s) := by
    rw [hp]
    exact reaches_self h (by decide) s
  have h1 : descend h [(a1, e1)] s = .ok ([(a1, e1)], s) := by
    unfold descend descend
    rw [M.pure_bind, if_neg hne, M.bind_ok hr]
    rfl
  unfold descend
  rw [M.bind_ok h1, if_pos he]
  rfl

theorem members_ne_of_nil {h : Word} {l : List Gang} (hl : l = []) : l.all (fun g => g.members.all (fun m => m.fut != h)) = true := by
  rw [hl]
  rfl

/-- `cancel.deep` of an entry with one descendant cancels both. -/
theorem cancelTree_child {s s1 : State} {h : Word} {slot slot1 : Nat} {e e1 : Entry}
    (hall : allEntries (hCtx h) s = .ok ([(.chip (hHome h) slot, e), (.chip (hHome e1.handle) slot1, e1)], s1))
    (hn : Names s1 h slot e) (hn1 : Names s1 e1.handle slot1 e1) (hne : e1.handle ≠ h) (hs : slot1 ≠ slot ∨ hHome e1.handle ≠ hHome h)
    (hp : e1.parent = h) (hd : s1.drops = []) (hg : s1.gangs = []) (hr : 0 < e.refs) (hr1 : 0 < e1.refs) :
    ∃ t, cancelTree (.chip (hHome h) slot) e s = .ok ((), t) ∧ t.core = s1.core ∧ t.mem = s1.mem ∧
      entryAt t (hHome h) slot = some e.cancel ∧ entryAt t (hHome e1.handle) slot1 = some e1.cancel := by
  obtain ⟨-, -, -, rfl, hat, -⟩ := id hn
  have hd0 : ∀ w, s1.drops.contains w = false := fun w => by rw [hd]; rfl
  obtain ⟨t0, ht0, hrw0⟩ := cancelOne_chip hat (hd0 _) hr (members_ne_of_nil hg)
  have hn1' : Names t0 e1.handle slot1 e1 := hrw0.names (Entry.cancel_handle e) hn hn1 hne hs
  obtain ⟨-, -, -, -, hat1, -⟩ := id hn1'
  obtain ⟨t, ht, hrw⟩ := cancelOne_chip hat1 (hrw0.drops _ (hd0 _)) hr1 (members_ne_of_nil (hrw0.gangs.trans hg))
  refine ⟨t, ?_, hrw.core.trans hrw0.core, hrw.mem.trans hrw0.mem, ?_, hrw.entry⟩
  · unfold cancelTree
    rw [M.bind_ok hall, M.bind_ok (descend_child rfl hne hp), M.bind_ok ht0]
    show cancelList [(.chip (hHome e1.handle) slot1, e1)] t0 = _
    unfold cancelList
    rw [M.bind_ok (findEntry_of_names hn1')]
    exact M.bind_ok ht
  · exact (hrw.entry_ne (hs.imp Ne.symm Ne.symm)).trans hrw0.entry

theorem releaseEntry_none {a : At} {e : Entry} {s : State} (h : e.refs = 0) : releaseEntry a e s = .error (badHandle e.handle) := by
  unfold releaseEntry
  rw [M.guardT_false]
  rw [h]
  rfl

section
variable {x : Ins} {s : State} {k : Cont} {o : TaskOp} {slot : Nat} {e : Entry} {rest : Word → Option (At × Entry) → M Flow}
  {r : Outcome State Fault Refusal}

/-- A meaning that checks the handle in g(s), where that names an on-chip entry. -/
theorem checked_body (hname : Names s (s.core.getG o.s.toNat) slot e) :
    (rG o.s.toNat >>= fun h => checkHandle h >>= rest h) (started x k s) =
      rest (s.core.getG o.s.toNat) (some (.chip (hHome (s.core.getG o.s.toNat)) slot, e)) (started x k s) := by
  rw [M.rG_bind, started_core, waiting_getG]
  exact checkHandle_named (s := started x k s) _ (names_started.mpr hname) rfl

/-- An instruction that checks its handle and then keeps the active core up to `u`, and from there core and memory to `t`. -/
theorem checked_past {u t : State} (hx : r = issue x noPre (fun _ _ _ => rG o.s.toNat >>= fun h => checkHandle h >>= rest h) s)
    (hr : x.rep = none) (hi : Issues x s k) (hname : Names s (s.core.getG o.s.toNat) slot e) (hc : s.core.cont = none)
    (hw : s.core.wait = .none) (hu : Keeps (started x k s) u) (hm : t.mem = u.mem) (ht : t.core = u.core)
    (hb : rest (s.core.getG o.s.toNat) (some (.chip (hHome (s.core.getG o.s.toNat)) slot, e)) (started x k s) = .ok (.seq, t)) :
    r = .next (onward x k t) ∧ Past x u (onward x k t) ∧ (onward x k t).core.g = u.core.g := by
  obtain ⟨hexec, hpast, hg⟩ := issue_past (body := fun _ _ _ => _) hi hr hc ((keeps_started_wait hu).trans hw) hu hm (by rw [ht])
    ((checked_body hname).trans hb)
  exact ⟨hx.trans hexec, hpast, hg.trans (by rw [ht])⟩

/-- An instruction that checks its handle and then raises a cause that is no translation fault. -/
theorem checked_raises {c : Trap} (hx : r = issue x noPre (fun _ _ _ => rG o.s.toNat >>= fun h => checkHandle h >>= rest h) s)
    (hi : Issues x s k) (hname : Names s (s.core.getG o.s.toNat) slot e) (hc : c.code ≠ 5)
    (hb : rest (s.core.getG o.s.toNat) (some (.chip (hHome (s.core.getG o.s.toNat)) slot, e)) (started x k s) = .error c) :
    r = .next (takeTrap (started x k s) x.size c) :=
  hx.trans (issue_raises hi rfl c hc ((checked_body hname).trans hb))

end

theorem cancel_of_names {o : TaskOp} {s : State} {k : Cont} {slot : Nat} {e : Entry} (hi : Issues (taskIns 6 0 o (gr o.s) []) s k)
    (hname : Names s (s.core.getG o.s.toNat) slot e) (hc : s.core.cont = none) (hw : s.core.wait = .none)
    (hd : s.drops.contains (s.core.getG o.s.toNat) = false) (hr : 0 < e.refs)
    (hg : s.gangs.all (fun g => g.members.all (fun m => m.fut != s.core.getG o.s.toNat)) = true) :
    ∃ t, exec (.cancel o) s = .next t ∧ Past (taskIns 6 0 o (gr o.s) []) s t ∧ t.core.g = s.core.g ∧
      entryAt t (hHome (s.core.getG o.s.toNat)) slot = some e.cancel := by
  let s0 := started (taskIns 6 0 o (gr o.s) []) k s
  obtain ⟨-, -, -, hh, hat, -⟩ := id hname
  rw [← hh] at hat hd hg
  obtain ⟨tr, htr⟩ := hears_eq s0 (576 + hHome e.handle) s0.cur
  obtain ⟨t, ht, hrw⟩ := cancelOne_chip (s := { s0 with trc := tr }) hat hd hr hg
  have hbody : (modS (fun s => hears s (576 + hHome e.handle) s.cur) >>= fun _ =>
      cancelOne (.chip (hHome e.handle) slot) e >>= fun _ => pure Flow.seq) s0 = .ok (.seq, t) := by
    rw [M.modS_bind, htr, M.bind_ok ht]
    rfl
  rw [hh] at hbody hrw
  obtain ⟨hexec, hpast, hgs⟩ := checked_past (r := exec (.cancel o) s) rfl rfl hi hname hc hw (.refl s0) hrw.mem hrw.core hbody
  exact ⟨_, hexec, past_of_started hpast, hgs.trans (waiting_g _ k s.core), hrw.entry⟩

theorem fdrop_of_names {o : TaskOp} {s : State} {k : Cont} {slot : Nat} {e : Entry} (hi : Issues (taskIns 12 0 o (gr o.s) []) s k)
    (hname : Names s (s.core.getG o.s.toNat) slot e) (hc : s.core.cont = none) (hw : s.core.wait = .none)
    (hwait : waitersOf s (s.core.getG o.s.toNat) = []) (hr : 0 < e.refs) :
    ∃ t, exec (.fdrop o) s = .next t ∧ Past (taskIns 12 0 o (gr o.s) []) s t ∧ t.core.g = s.core.g ∧
      entryAt t (hHome (s.core.getG o.s.toNat)) slot = if e.st.done ∧ e.refs = 1 then none else some { e with refs := e.refs - 1 } := by
  let s0 := started (taskIns 12 0 o (gr o.s) []) k s
  let cl := hHome (s.core.getG o.s.toNat)
  obtain ⟨-, -, -, hh, hat, -⟩ := id hname
  have hrel : ∃ t, releaseEntry (.chip cl slot) e s0 = .ok ((), t) ∧ t.core = s0.core ∧ t.mem = s0.mem ∧
      entryAt t cl slot = if e.st.done ∧ e.refs = 1 then none else some { e with refs := e.refs - 1 } := by
    by_cases hlast : e.st.done = true ∧ e.refs = 1
    · obtain ⟨hdone, hone⟩ := id hlast
      rw [if_pos hlast]
      exact releaseEntry_chip_last (s := s0) (by rw [hh]; exact hwait) hdone hone
    · obtain ⟨t, ht, hrw⟩ := releaseEntry_chip (s := s0) hat hr hlast
      rw [if_neg hlast]
      exact ⟨t, ht, hrw.core, hrw.mem, hrw.entry⟩
  obtain ⟨t, ht, hcore, hmem, hentry⟩ := hrel
  obtain ⟨hexec, hpast, hgs⟩ := checked_past (r := exec (.fdrop o) s) rfl rfl hi hname hc hw (.refl s0) hmem hcore (M.bind_ok ht)
  exact ⟨_, hexec, past_of_started hpast, hgs.trans (waiting_g _ k s.core), hentry⟩

theorem tcheck_of_issues {o : TaskOp} {s : State} {k : Cont} (hi : Issues (taskIns 7 0 o [] (gr o.d)) s k) :
    exec (.tcheck o) s = .next (passesWith (taskIns 7 0 o [] (gr o.d)) k (fun c => c.setG o.d.toNat
      (BitVec.ofNat 64 (((ownEntry s s.cur).map (fun e => e.carried * 256 + b2n e.creq)).getD 0))) s) := by
  show execTcheck o s = _
  unfold execTcheck
  refine issue_regs hi rfl _ (regsOnly_setG _ _) ?_
  rw [M.getS_bind, started_cur, ownEntry_started]
  rfl

theorem cancellingSpec : CancellingSpec := by
  refine ⟨?_, ?_⟩
  · intro o s k slot e h after hname hc hw hwait hdrop
    refine ⟨?_, ?_, ?_⟩
    · intro hr hg x hx hi
      subst hx
      exact cancel_of_names hi hname hc hw hdrop hr hg
    · intro x slot1 e1 s1 hx hi _ hall hn hn1 hne hs hp _ _ hd hg hr hr1
      subst hx
      obtain ⟨t, ht, hcore, hmem, hentry, hentry1⟩ := cancelTree_child hall hn hn1 hne hs hp hd hg hr hr1
      let s0 := started (taskIns 6 1 o (gr o.s) []) k s
      have hu : Keeps s0 s1 := (keeps_hears _ _ _).trans (mkeeps_allEntries _ _ _ _ hall)
      have hbody : (modS (fun s => hears s (576 + hHome h) s.cur) >>= fun _ =>
          cancelTree (.chip (hHome h) slot) e >>= fun _ => pure Flow.seq) s0 = .ok (.seq, t) := by
        rw [M.modS_bind]
        exact M.bind_ok ht
      obtain ⟨hexec, ⟨hm, -, -, hpc, -⟩, hgs⟩ := checked_past (r := exec (.cancelDeep o) s) rfl rfl hi hname hc hw hu hmem hcore hbody
      exact ⟨_, hexec, hgs, hpc, hm, hentry, hentry1⟩
    · intro x hx hi
      subst hx
      refine ⟨fdrop_of_names hi hname hc hw hwait, fun hzero => ?_⟩
      obtain ⟨-, -, -, hh, -⟩ := id hname
      have hrel := releaseEntry_none (a := .chip (hHome h) slot) (s := started (taskIns 12 0 o (gr o.s) []) k s) hzero
      rw [hh] at hrel
      exact checked_raises (r := exec (.fdrop o) s) rfl hi hname (badHandle_ne_fault h) (M.bind_error hrel)
  · intro o s k x hi
    refine ⟨fun e he => ?_, fun hnone => ?_⟩
    · rw [tcheck_of_issues hi, he]
      rfl
    · rw [tcheck_of_issues hi, hnone]
      rfl

/-- Settles O37: every handle is checked alike, and past its check each operation rewrites the one entry that the handle names. -/
theorem futureOperations : Obligations.FutureOperations :=
  ⟨handleChecksSpec, promisesSpec, settlingSpec, cancellingSpec⟩

end Sys2Proof.Machine
end
